-- ==== Sys2Proof/Word.lean ====
section
/-! DEFINITION. The word types of the Felward (spec/00 R4, spec/03 R82) and their plainest arithmetic. -/

namespace Sys2Proof

/-- A lane's 32-bit register word, a scalar register, an immediate. -/
abbrev W32 := BitVec 32
/-- An instruction word, a virtual address, a program counter, a 64-bit operand. -/
abbrev W64 := BitVec 64
/-- One byte of memory. -/
abbrev Byte := BitVec 8
/-- A set of lanes: bit `L` is lane `L` (R12). -/
abbrev Lanes := BitVec 32
/-- A SHA-512 digest (R375, R413). -/
abbrev Digest := BitVec 512

end Sys2Proof
end

