-- ==== Sys2Proof/Syntax.lean ====
section
/-! DEFINITION. The instructions of the Felward as terms: one constructor per row of spec/opcode_table.json.
The operand records follow the format classes of spec/03 (R85 to R93, R101); a modifier with a closed list of names is an
inductive type. Rows 162 and later of the table are steps of the engines, the host and the environment: they have no word. -/

namespace Sys2Proof

/-- The guard of a full word: predicate number and negation (R66, R85). -/
structure Guard where
  pg : BitVec 3
  pn : Bool
  deriving DecidableEq, Repr

/-- Format A without SUB: three sources, lookahead, hold and last-read marks (R87). -/
structure FA where
  g : Guard
  d : BitVec 8
  a : BitVec 8
  b : BitVec 8
  c : BitVec 8
  la : BitVec 4
  hs : BitVec 2
  he : BitVec 2
  lra : Bool
  lrb : Bool
  lrc : Bool
  deriving DecidableEq, Repr

/-- Format I without SUB: a 32-bit immediate (R88). -/
structure FI where
  g : Guard
  d : BitVec 8
  a : BitVec 8
  imm : W32
  lra : Bool
  deriving DecidableEq, Repr

/-- Format M.g without OP5: an access through an address register (R89). -/
structure FMg where
  g : Guard
  r : BitVec 8
  ar : BitVec 3
  vo : BitVec 8
  disp : BitVec 13
  la : BitVec 4
  scope : BitVec 3
  ord : BitVec 2
  lrv : Bool
  lro : Bool
  sz : BitVec 3
  deriving DecidableEq, Repr

/-- Format M.t without SUB: a tile access (R90). -/
structure FMt where
  g : Guard
  r : BitVec 8
  th : BitVec 6
  rk : BitVec 2
  row : BitVec 10
  ck : BitVec 2
  col : BitVec 12
  lrv : Bool
  lri : Bool
  deriving DecidableEq, Repr

/-- Format C without SUB: control (R91). -/
structure FC where
  g : Guard
  off : W32
  ra : BitVec 8
  xp : BitVec 3
  deriving DecidableEq, Repr

/-- Format J without SUB: a job card (R92). -/
structure FJ where
  g : Guard
  cb : BitVec 4
  th : BitVec 6
  ar : BitVec 3
  vo : BitVec 8
  sc : BitVec 8
  scope : BitVec 3
  stg : BitVec 4
  stgv : Bool
  follow : BitVec 3
  deriving DecidableEq, Repr

/-- Format S without SUB: system (R93). -/
structure FS where
  g : Guard
  rd : BitVec 8
  ra : BitVec 8
  num : BitVec 12
  deriving DecidableEq, Repr

/-- A form that has an A-class and an I-class code (R106). -/
inductive OpAI where
  | a (f : FA)
  | i (f : FI)
  deriving DecidableEq, Repr

/-- Integer condition codes, signed and then unsigned (R194). -/
inductive Cc where
  | eq | ne | lt | le | gt | ge | ltu | leu | gtu | geu
  deriving DecidableEq, Repr

/-- Operands of SCMP and ICMP: two registers, or a register and a 28-bit immediate (R194, R207). -/
inductive OpCmp where
  | a (f : FA)
  | i (g : Guard) (d a : BitVec 8) (k : BitVec 28) (lra : Bool)
  deriving DecidableEq, Repr

/-- Operands of SHFL: two registers, or a register and a 5-bit distance (R225). -/
inductive OpShfl where
  | a (f : FA)
  | i (g : Guard) (d a : BitVec 8) (k : BitVec 5) (lra : Bool)
  deriving DecidableEq, Repr

/-- Integer types of the A-format integer forms (R199). -/
inductive ITy where
  | s32 | n32 | s64 | n64 | s8x4 | n8x4
  deriving DecidableEq, Repr

/-- Which part of the product IMUL writes (R202). -/
inductive MulPart where
  | lo | hi | wide
  deriving DecidableEq, Repr

/-- Float types of the A-format float forms (R209). -/
inductive FTy where
  | f32 | f16x2 | bf16x2
  deriving DecidableEq, Repr

/-- Rounding field: the four modes, the mode of FPSTAT, stochastic (R120). -/
inductive Rm where
  | rn | rz | ru | rd | dyn | rs
  deriving DecidableEq, Repr

/-- Float condition codes of FCMP (R212). -/
inductive Fcc where
  | eq | ne | lt | le | gt | ge | num | nan
  deriving DecidableEq, Repr

/-- The shared modifier field of the float forms (R209). -/
structure FMode where
  ftz : Bool
  rm : Rm
  ty : FTy
  deriving DecidableEq, Repr

/-- Number type codes 1 to 14 of CVT, PACK and UNPACK (R218). -/
inductive NTy where
  | s32 | n32 | f32 | f16 | bf16 | e4m3 | e5m2 | s8 | n8 | s4 | n4 | e2m1 | s64 | n64
  deriving DecidableEq, Repr

/-- The control bytes of CVT (R217): types, elements, flush, saturate, rounding. -/
structure CvtCtl where
  dst : NTy
  src : NTy
  f : BitVec 3
  e : BitVec 3
  ftz : Bool
  sat : Bool
  rm : Rm
  deriving DecidableEq, Repr

/-- Operation of REDG and SCANG (R226). -/
inductive RedOp where
  | add | min | max | and | or | xor
  deriving DecidableEq, Repr

/-- Type of REDG and SCANG (R226). -/
inductive RedTy where
  | s32 | n32 | f32
  deriving DecidableEq, Repr

/-- Operation of ATOM (R238). -/
inductive AtomOp where
  | add | min | max | and | or | xor | exch
  deriving DecidableEq, Repr

/-- Source rule of SHFL (R225). -/
inductive ShflRule where
  | from | lag | lead | pair
  deriving DecidableEq, Repr

/-- Form of SMOV (R194). -/
inductive SmovKind where
  | ss | sv | vs | sl
  deriving DecidableEq, Repr

/-- Form of SETEM: a vector, predicate or scalar source (R187). -/
inductive SetemKind where
  | v | p | s
  deriving DecidableEq, Repr

/-- Form of VOTE (R187): operation and destination file. -/
inductive VoteKind where
  | someP | everyP | someS | everyS | bitsV | bitsS
  deriving DecidableEq, Repr

/-- What RBQ returns (R193). -/
inductive RbqSel where
  | own | pool | wait
  deriving DecidableEq, Repr

/-- Tag that MOVI writes (R201). -/
inductive MoviTy where
  | s32 | n32 | f32 | raw
  deriving DecidableEq, Repr

/-- Form of PMOV (R208). -/
inductive PmovKind where
  | pp | vp | pv
  deriving DecidableEq, Repr

/-- Form of RNG (R228). -/
inductive RngKind where
  | n32 | f32 | getc | setc
  deriving DecidableEq, Repr

/-- Form of LD (R233): a vector load with its OP5[4] bit and tag, or a predicate load. -/
inductive LdKind where
  | reg (x : Bool) (tag : BitVec 4)
  | pred
  deriving DecidableEq, Repr

/-- Form of ST (R233): a vector store with .at128, or a predicate store. -/
inductive StKind where
  | reg (at128 : Bool)
  | pred
  deriving DecidableEq, Repr

/-- Direction of CPY (R249). -/
inductive CpyMode where
  | g2t | t2g | t2t
  deriving DecidableEq, Repr

/-- Kind of COLL (R256). -/
inductive CollKind where
  | allreduce | redscat | allgather | bcast | barrier
  deriving DecidableEq, Repr

/-- Reduction of COLL (R256). -/
inductive CollOp where
  | addF32 | addS32 | minF32 | maxF32 | minS32 | maxS32 | qaddF32
  deriving DecidableEq, Repr

/-- Form of TLBINV (R308). -/
inductive TlbKind where
  | page | areg | all
  deriving DecidableEq, Repr

/-- R-kind op6 codes of a dual-word half (R103). -/
inductive HalfR where
  | iadd | isub | imin | imax | and | or | xor | andn | shl | shr | sar | fadd | fsub | fmul | fmin | fmax | imul
  deriving DecidableEq, Repr

/-- I-kind op6 codes (R103); the last three take a shift count. -/
inductive HalfI where
  | iadd | and | or | xor | shl | shr | sar
  deriving DecidableEq, Repr

/-- U-kind op6 codes (R103). -/
inductive HalfU where
  | mov | popc | brev
  deriving DecidableEq, Repr

/-- Operand mode of an R-kind half (R102). -/
inductive HalfMode where
  | m0 | m1 | m2
  deriving DecidableEq, Repr

/-- One half of a dual word (R101 to R103): destination `d` (v0 to v127), source `s`, third operand `t` or immediate `k`. -/
inductive Half where
  | nop
  | r (op : HalfR) (m : HalfMode) (d : BitVec 7) (s t : BitVec 8)
  | i (op : HalfI) (d : BitVec 7) (s : BitVec 8) (k : BitVec 10)
  | u (op : HalfU) (d : BitVec 7) (s : BitVec 8)
  | movi (d : BitVec 7) (k : BitVec 10)
  | ffma (d : BitVec 7) (s t : BitVec 8)
  deriving DecidableEq, Repr

/-- A record as SPAWN forms it and as the Ramnar Link carries it (R39, R290, R291): node handle, payload words with tags,
key of an ordered node, join counter address, the spawner's %wid, the quantum of a spawner in Solstice mode (R377), the sender's
module rank, and the count of records the parent work-item committed before it (R389). -/
structure Rec where
  handle : W32
  payload : List (W32 × BitVec 4)
  ordered : Bool
  key : W32
  join : Option W64
  origin : W64
  quantum : Option Nat
  rank : Nat
  fab : Bool
  nth : Nat
  deriving DecidableEq, Repr

/-- The register that a host write names (R334, R357, R398, R406 to R408, R410): a window and a byte offset in it. -/
inductive RegAddr where
  | pf (off : Nat)
  | vf (v : Nat) (off : Nat)
  deriving DecidableEq, Repr

/-- The SRAM arrays that carry the symbol code (R371), each with its place: the %core of a core's, the %quad of a quad's, the number
of one of the L2. -/
inductive Sram where
  | sapwood (core : Nat)
  | heartwood (core : Nat)
  | coreTiles (core : Nat)
  | directory (core : Nat)
  | quadTiles (quad : Nat)
  | chuck (quad : Nat)
  | lathe (quad : Nat)
  | replay (quad : Nat)
  | l2 (n : Nat)
  deriving DecidableEq, Repr

/-- Hardware that has failed (R371, R405, R416): a quad by %quad, a memory channel group, a bank of an SRAM array, row `r` of the DRAM
of channel group `m`, a through-silicon lane. -/
inductive Repair where
  | quad (q : Nat)
  | channel (m : Nat)
  | bank (array : Sram) (b : Nat)
  | row (m r : Nat)
  | lane (n : Nat)
  deriving DecidableEq, Repr

/-- Where a host CXL.mem request goes: on port 92 or 93, by the low bit of `port`, at an HDM offset (R395, R396). -/
structure HdmAddr where
  port : Nat
  off : Nat
  deriving DecidableEq, Repr

/-- A firmware image and the signature that comes with it (R413). -/
structure Image where
  bytes : List Byte
  sig : BitVec 1056
  deriving DecidableEq, Repr

/-- A start of the device (R413, R415, R416): the firmware images of the root of trust and of the management processor, the failures
that self-repair finds. -/
structure Boot where
  rot : Image
  mp : Image
  found : List Repair := []
  deriving DecidableEq, Repr

/-- Every row of spec/opcode_table.json, in the table's order. -/
inductive Instr where
  | nop
  | dualWord (ps : Bool) (h0 h1 : Half)
  | bra (f : FC)
  | braC (f : FC)
  | brx (f : FC)
  | call (f : FC)
  | callx (f : FC)
  | ret (f : FC)
  | rjoin (f : FC)
  | exit (f : FC)
  | exitJ (f : FC)
  | loop (f : FC) (imm : Bool)
  | lbrk (f : FC)
  | yield (f : FC)
  | getem (f : FA) (toS : Bool)
  | setem (f : FA) (k : SetemKind)
  | vote (f : FA) (k : VoteKind)
  | getid (f : FA) (id : BitVec 4) (toS : Bool)
  | setstage (f : FI) (fromS : Bool)
  | bar (f : FC)
  | bara (f : FC)
  | barw (f : FC)
  | rbtake (f : FI)
  | rbgive (f : FI)
  | rbq (f : FA) (k : RbqSel)
  | smov (f : FA) (k : SmovKind)
  | smovi (f : FI)
  | sadd (o : OpAI)
  | ssub (f : FA)
  | smul (f : FA)
  | sand (o : OpAI)
  | sor (o : OpAI)
  | sxor (o : OpAI)
  | sshl (o : OpAI)
  | sshr (o : OpAI) (arith : Bool)
  | scmp (o : OpCmp) (cc : Cc)
  | ssel (f : FA)
  | sld (f : FMg) (signed : Bool)
  | sbr (f : FC) (z : Bool)
  | abind (f : FA)
  | aq (f : FA) (sel : BitVec 2)
  | mov (f : FA) (b64 : Bool)
  | movi (f : FI) (t : MoviTy)
  | sel (f : FA)
  | iadd (o : OpAI) (t : ITy) (sat : Bool)
  | iadd3 (f : FA) (t : ITy)
  | isub (f : FA) (t : ITy) (sat : Bool)
  | imul (o : OpAI) (t : ITy) (sat : Bool) (part : MulPart)
  | imad (f : FA) (t : ITy) (sat : Bool) (wide : Bool)
  | idiv (f : FA) (t : ITy)
  | irem (f : FA) (t : ITy)
  | imin (f : FA) (t : ITy)
  | imax (f : FA) (t : ITy)
  | iabs (f : FA) (t : ITy) (sat : Bool)
  | isad (f : FA) (t : ITy)
  | and (o : OpAI) (b64 : Bool)
  | or (o : OpAI) (b64 : Bool)
  | xor (o : OpAI) (b64 : Bool)
  | andn (f : FA) (b64 : Bool)
  | shl (o : OpAI)
  | shr (o : OpAI)
  | sar (o : OpAI)
  | rot (o : OpAI)
  | popc (f : FA)
  | clz (f : FA)
  | brev (f : FA)
  | bfx (f : FA) (signed : Bool)
  | bfi (f : FA)
  | icmp (o : OpCmp) (cc : Cc) (b64 : Bool)
  | pand (f : FA) (na nb : Bool)
  | por (f : FA) (na nb : Bool)
  | pxor (f : FA) (na nb : Bool)
  | pnot (f : FA)
  | pmov (f : FA) (k : PmovKind)
  | fadd (o : OpAI) (m : FMode)
  | fsub (f : FA) (m : FMode)
  | fmul (o : OpAI) (m : FMode)
  | ffma (f : FA) (m : FMode)
  | fmin (f : FA) (ftz : Bool) (ty : FTy)
  | fmax (f : FA) (ftz : Bool) (ty : FTy)
  | fcmp (f : FA) (cc : Fcc) (ty : FTy) (e1 : Bool)
  | fclass (f : FA) (ty : FTy) (e1 : Bool)
  | frnd (f : FA) (m : FMode)
  | fdiv (f : FA) (ftz : Bool) (rm : Rm)
  | fsqrt (f : FA) (ftz : Bool) (rm : Rm)
  | frcp (f : FA)
  | frsq (f : FA)
  | fsin (f : FA)
  | fcos (f : FA)
  | fexp2 (f : FA)
  | flog2 (f : FA)
  | ftanh (f : FA)
  | cvt (g : Guard) (d a : BitVec 8) (hsA : Bool) (he : BitVec 2) (lra : Bool) (k : CvtCtl)
  | pack (f : FA) (t : NTy) (sat : Bool) (rm : Rm)
  | unpack (f : FA) (t : NTy) (h : Bool)
  | bpsplit (f : FA) (p : BitVec 3)
  | bpjoin (f : FA) (q k1 : BitVec 3)
  | tagset (f : FA) (tag : BitVec 4)
  | tagget (f : FA)
  | shfl (o : OpShfl) (rule : ShflRule) (ring zf : Bool)
  | redg (f : FA) (op : RedOp) (ty : RedTy) (rm : Rm)
  | scang (f : FA) (excl : Bool) (op : RedOp) (ty : RedTy) (rm : Rm)
  | rng (f : FA) (k : RngKind)
  | rqscale (f : FA) (grp : Bool)
  | rquant (f : FA)
  | rdeq (f : FA)
  | ld (f : FMg) (k : LdKind)
  | st (f : FMg) (k : StKind)
  | atom (f : FMg) (op : AtomOp) (u nr : Bool)
  | cas (f : FMg)
  | ll (f : FMg) (tag : BitVec 4)
  | sc (f : FMg) (pd : BitVec 3)
  | fence (f : FMg) (sc : Bool)
  | talloc (f : FI) (fromS : Bool)
  | tfree (f : FI)
  | tq (f : FA) (sel : BitVec 3)
  | tld (f : FMt) (sz : BitVec 3) (signed : Bool)
  | tst (f : FMt) (sz : BitVec 3)
  | cpy (f : FJ) (mode : CpyMode) (nb : Bool)
  | cpyg (f : FJ) (e : BitVec 3) (nb : Bool)
  | cpys (f : FJ) (e : BitVec 3) (nb : Bool)
  | cbinit (f : FJ)
  | cbarr (f : FJ)
  | cbwait (f : FJ)
  | cbtest (f : FJ)
  | coll (f : FJ) (kind : CollKind) (op : CollOp)
  | mloadb (f : FJ)
  | mswap (f : FJ)
  | mma (f : FJ) (pri : BitVec 2) (nb : Bool)
  | scanl (f : FA) (rm : Rm) (rv : Bool) (pr : BitVec 3)
  | scanp (f : FA) (rm : Rm) (rv : Bool) (pr : BitVec 3)
  | autoCfg (f : FJ)
  | autoSeed (f : FJ)
  | autoLdx (f : FJ)
  | autoInf (f : FJ) (train nb : Bool)
  | autoFb1 (f : FJ)
  | autoFb2 (f : FJ)
  | autoRd (f : FJ) (nb : Bool)
  | autoWr (f : FJ)
  | autoFence (f : FJ)
  | nodemk (f : FMg)
  | nodedel (f : FS)
  | nodeq (f : FS)
  | spawn (f : FA) (b o remote : Bool) (aj : BitVec 3) (j : Bool)
  | jinit (f : FMg)
  | jwait (f : FMg)
  | estw (f : FS) (tagHi : BitVec 4)
  | estq (f : FA) (n : BitVec 3)
  | estf (f : FS)
  | ckmark (f : FJ) (nb : Bool)
  | cksnap (f : FJ) (nb : Bool)
  | ckroll (f : FJ) (nb : Bool)
  | ckdrop (f : FJ) (nb all unmark : Bool)
  | glaunch (f : FJ) (nb : Bool)
  | gcond (f : FMg)
  | qend (f : FS)
  | trap (f : FS)
  | eret (f : FS)
  | mfsr (f : FS) (hi : Bool)
  | mtsr (f : FS) (hi : Bool)
  | pmap (f : FS)
  | tlbinv (f : FS) (k : TlbKind)
  -- steps of the engines, the host and the environment (no word)
  /-- the oldest open window of group `g` that is due lands (R95) -/
  | resultLands (g : Nat)
  /-- group `g` takes its first due A-kind cause (R364) -/
  | causeDelivery (g : Nat)
  /-- the watchdog of block `b` passes its limit (R54) -/
  | blockWatchdogExpiry (b : Nat)
  /-- the fairness timer of group `g` exchanges paths (R172) -/
  | fairnessTimerExpiry (g : Nat)
  /-- the scheduler moves the context of group `g` in or out of the Sapwood (R319) -/
  | contextMove (g : Nat)
  /-- the fetch of pending register `r` of lane `l` of group `g` lands; `bad` is an uncorrectable error (R332) -/
  | estateFetchLands (g l r : Nat) (bad : Bool)
  /-- a waiting JWAIT of group `g` reads its counter again (R295) -/
  | jwaitCounterRead (g : Nat)
  /-- the blocking SPAWN of group `g` reaches its node's timeout (R290) -/
  | spawnBlockingTimeout (g : Nat)
  /-- the bin timer of node index `n` is due (R345) -/
  | binTimerExpiry (n : Nat)
  /-- the Chuck reads back the oldest closed segment of node index `n` (R346) -/
  | spillSegmentDrain (n : Nat)
  /-- swapped-out node index `n` returns to a slot (R344) -/
  | nodeSwapIn (n : Nat)
  /-- a record from another module arrives for partition `p` (R291) -/
  | remoteRecordArrival (p : Nat) (r : Rec)
  /-- the oldest waiting remote record of node index `n` reaches the timeout (R291) -/
  | remoteRecordTimeout (n : Nat)
  /-- job `j` starts on its engine (R347) -/
  | jobDispatch (j : Nat)
  /-- the next `n` units of job `j` land (R159) -/
  | jobDataLands (j n : Nat)
  /-- job `j` meets a translation fault and parks (R252) -/
  | jobTranslationFault (j : Nat)
  /-- job `j` completes (R159) -/
  | jobComplete (j : Nat)
  /-- the arbiter of quad `q` grants a pass to job `j` (R348) -/
  | mmaPassGrant (q j : Nat)
  /-- the engines exchange the parameters of the collective of job `j`: kind, operation and count of each rank, and the words of its
  source (R257) -/
  | collParamExchange (j : Nat) (params : List (CollKind × CollOp × Nat)) (words : List (List W32))
  /-- the Spindle accepts the graph of GLAUNCH job `j` (R340) -/
  | spindleAcceptGraph (j : Nat)
  /-- the walker of graph `w` starts a kernel node (R339) -/
  | spindleKernelNode (w : Nat)
  /-- the walker of graph `w` takes a conditional step (R339) -/
  | spindleConditionalNode (w : Nat)
  /-- the walker of graph `w` takes a while step (R339) -/
  | spindleWhileNode (w : Nat)
  /-- the walker of graph `w` ends the graph (R339) -/
  | spindleEndNode (w : Nat)
  /-- the host writes TAIL of stream `n` of VF `v` (R334) -/
  | sqtailWrite (v n : Nat) (tail : W32)
  /-- the launch path reads the next packet of stream `n` of VF `v` (R335) -/
  | launchPacket (v n : Nat)
  /-- the marker at the head of stream `n` of VF `v` completes (R335) -/
  | markerComplete (v n : Nat)
  /-- the distributor places the next block of launch `l` on core `c` (R341) -/
  | blockPlacement (l c : Nat)
  /-- the affinity window of the held block of launch `l` ends (R331) -/
  | affinityWindowExpiry (l : Nat)
  /-- an arrival stamped `gen` of module rank `r` at the start barrier of launch `l` (R351) -/
  | startBarrierArrival (l r : Nat) (gen : W32) (refuses : Bool)
  /-- the start barrier of launch `l` is incomplete after BTO (R351) -/
  | startBarrierTimeout (l : Nat)
  /-- the sensor of core `c` reads `t` degrees Celsius and reaches the threshold (R342) -/
  | coreHotMark (c t : Nat)
  /-- 50 us have passed in which the sensor of core `c` was never above the highest reading that the core holds (R342) -/
  | coreHotClear (c : Nat)
  /-- a supply droop on quad `q` (R342) -/
  | droopDetect (q : Nat)
  /-- 20 us after the last droop of quad `q` (R342) -/
  | droopMarkExpiry (q : Nat)
  /-- partition `p` has had no eligible core for 1 ms because of marks (R342) -/
  | thermalMarkOverride (p : Nat)
  /-- the slice of partition `p` ends (R374) -/
  | sliceEnd (p : Nat)
  /-- the quiesced state of partition `p` is saved (R374) -/
  | preemptSave (p : Nat)
  /-- block `b` holds a block quantum end (R380) -/
  | blockQuantumEnd (b : Nat)
  /-- the quantum of group `g` is used up (R379) -/
  | quantumExpiry (g : Nat)
  /-- the ticket unit releases the next commit of Solstice launch `l` (R384) -/
  | ticketRelease (l : Nat)
  /-- bank `b` of array `a` needed correction more than 64 times in 1 ms (R371) -/
  | bankFailedMark (a : Sram) (b : Nat)
  /-- a scrub pass (R371) -/
  | scrubPass
  /-- a host CXL.mem request at `o`: a read of `n` bytes, or a write of `w` (R396) -/
  | hostMemRequest (o : HdmAddr) (n : Nat) (w : Option (List Byte))
  /-- the supervisor writes TLBSD.GO of VF `v` (R357) -/
  | tlbsdGo (v : Nat)
  /-- LCMD := PREPARE (R399, R400) -/
  | lcmdPrepare
  /-- LCMD := FLIP (R399) -/
  | lcmdFlip
  /-- LCMD := ABORT (R399) -/
  | lcmdAbort
  /-- the management processor confirms a flipped layout (R399) -/
  | layoutConfirm
  /-- a watchdog reset of the management processor (R399) -/
  | mpWatchdogReset
  /-- CAPMOVE is written (R402) -/
  | capmove (v : W64)
  /-- CAPACK of VF `v` is written with 1 (R402) -/
  | capack (v : Nat)
  /-- CAPACK has not arrived in time (R402) -/
  | capmoveTimeout
  /-- LEND is written (R403) -/
  | lend (v : W64)
  /-- the loan of lender partition `p` is recalled (R403) -/
  | lendRecall (p : Nat)
  /-- the physical quad of logical quad `q`, or channel group `q`, is retired (R405) -/
  | quadRetirement (q : Nat) (chan : Bool)
  /-- PCMD OP 1 (R407) -/
  | pcmdResumeGroup (v : W64)
  /-- PCMD OP 2 (R407) -/
  | pcmdTerminateBlock (v : W64)
  /-- PCMD OP 3 (R407) -/
  | pcmdPreemptPartition (v : W64)
  /-- PCMD OP 4 (R407, R376); `refused` is what PCMDSTAT reports where the save area no longer matches its digest (R375; log entry 73) -/
  | pcmdResumePartition (v : W64) (refused : Bool)
  /-- PCMD OP 5 (R407) -/
  | pcmdDiscardSlice (v : W64)
  /-- the host reads LVIOL (R398) -/
  | lviolRead
  /-- the host reads EVLOST (R406) -/
  | evlostRead
  /-- the host reads DRLOST of partition `p` (R408) -/
  | drlostRead (p : Nat)
  /-- the host writes a device register that has no row of its own (R412) -/
  | registerWrite (r : RegAddr) (v : W64)
  /-- LOCK_INTERFACE_REQUEST for VF `v` (R411) -/
  | lockInterfaceRequest (v : Nat)
  /-- START_INTERFACE_REQUEST for VF `v` (R411) -/
  | startInterfaceRequest (v : Nat)
  /-- STOP_INTERFACE_REQUEST for VF `v` (R411, R412) -/
  | stopInterfaceRequest (v : Nat)
  /-- the IDE stream of VF `v` fails (R411) -/
  | ideStreamFailure (v : Nat)
  /-- an SPDM request for measurement `i` through VF `v` (R413) -/
  | spdmRequest (v i : Nat)
  /-- a device reset (R414) -/
  | deviceReset
  /-- the root of trust verifies the firmware (R413, R415), and self-repair follows (R416) -/
  | firmwareVerify (b : Boot)
  /-- the host writes LCS.GO (R415) -/
  | lcsGo
  /-- DRAM training and repair have finished and the device enters FULL (R415) -/
  | enterFull
  /-- the clock of island `i` is lowered to `mhz` (R2) -/
  | clockLowering (i mhz : Nat)
  /-- the CXL port trains to `rate` GT/s and `width` lanes (R409) -/
  | linkTraining (rate width : Nat)
  /-- a word that names no instruction (R108 step 2) -/
  | unassignedEncoding (w : W64)
  deriving DecidableEq, Repr

end Sys2Proof
end

