-- ==== Sys2Proof/WellFormed.lean ====
section
/-! DEFINITION. When a term of `Instr` is an instruction of the Felward: the ranges and combinations of step 3 and step 6 of
R108, chapter by chapter, but for the scalar pairs of the supervisor-only forms (`oddPair`). A
term that fails names no defined combination, and its word traps with ILLEGAL_FIELD (0x002).
Bits that no field of the term holds are 0 by the encoder (`encode` in Decode.lean). -/

namespace Sys2Proof

/-- No guard: PG and PN 0 (R85). -/
def Guard.isNone (g : Guard) : Bool := g.pg == 0 && !g.pn

/-- What a register position of format A or I holds in a form: nothing, a vector register, or a number of another file
below a limit (R86). A predicate source takes a hold and a last-read mark as a vector source does (R87; log entry 86). -/
inductive Pos where
  | no
  | vec
  | pred
  | oth (lim : Nat)
  deriving DecidableEq, Repr

/-- A position's number is within its file, and it carries a mark only on a source that the form reads (R86, R87, R194). -/
def Pos.ok (p : Pos) (x : BitVec 8) (mark : Bool) : Bool :=
  match p with
  | .no => x == 0 && !mark
  | .vec => true
  | .pred => decide (x.toNat < 8)
  | .oth lim => decide (x.toNat < lim) && !mark

/-- The first register of a pair is even (R20). -/
def evenReg (x : BitVec 8) : Bool := x.toNat % 2 == 0
/-- The first register of a quad is a multiple of 4 (R20). -/
def quadReg (x : BitVec 8) : Bool := x.toNat % 4 == 0

/-- A position that a hold may name (R87). -/
def Pos.held (p : Pos) : Bool := p == .vec || p == .pred

/-- HS names a source that the form reads, HE is 0 to 2 and 0 without a hold (R87). -/
def holdOk (hs he : BitVec 2) (a b c : Pos) : Bool :=
  he != 3 && (hs != 0 || he == 0) &&
    (match hs.toNat with
     | 0 => true
     | 1 => a.held
     | 2 => b.held
     | _ => c.held)

/-- A format A word: guard allowed or not, destination and source positions, long-latency or not (R87, R94). -/
def FA.ok (f : FA) (guarded : Bool) (d a b c : Pos) (long : Bool := false) : Bool :=
  (guarded || f.g.isNone) && d.ok f.d false && a.ok f.a f.lra && b.ok f.b f.lrb && c.ok f.c f.lrc &&
    (long || f.la == 0) && holdOk f.hs f.he a b c

/-- A format I word (R88). -/
def FI.ok (f : FI) (guarded : Bool) (d a : Pos) : Bool :=
  (guarded || f.g.isNone) && d.ok f.d false && a.ok f.a f.lra

/-- The fields of M.g that no form of a chapter uses together: no guard, no marks, no lookahead (R285, R294, R295, R305). -/
def FMg.plainGroup (f : FMg) : Bool :=
  f.g.isNone && f.vo == 0 && f.la == 0 && !f.lrv && !f.lro

/-- ORD against the two values a load or a store accepts, and SCOPE of a relaxed one (R151, R232). -/
def FMg.orderOk (f : FMg) (q : BitVec 2) : Bool :=
  decide (f.scope.toNat ≤ 5) && (f.ord == q || (f.ord == 0 && f.scope == 0))

/-- LRO only with an offset register (R232). -/
def FMg.lroOk (f : FMg) : Bool := !f.lro || f.vo != 0

/-- VR alignment by element size: pair for 64 bits, quad for 128 (R233). -/
def alignOk (sz : BitVec 3) (r : BitVec 8) : Bool :=
  (sz != 3 || evenReg r) && (sz != 4 || quadReg r)

/-- A card without a guard; STG only with STGV (R92). -/
def FJ.card (f : FJ) : Bool := f.g.isNone && (f.stgv || f.stg == 0)

/-- A Lathe card (R261): last scalar word at most s23, no VO, no follow-on. -/
def FJ.lathe (f : FJ) (words : Nat) : Bool :=
  f.card && f.vo == 0 && f.follow == 0 && decide (f.sc.toNat + words ≤ 24)

/-- A card that names no stage (R301, R304, R255). -/
def FJ.noStage (f : FJ) : Bool := !f.stgv && f.stg == 0 && f.follow == 0

/-- A format S word with no guard. -/
def FS.plain (f : FS) : Bool := f.g.isNone

/-- 64-bit integer types live in pairs (R199). -/
def ITy.pair : ITy → Bool
  | .s64 | .n64 => true
  | _ => false
/-- The types of the forms restricted to 32 bits. -/
def ITy.w32 : ITy → Bool
  | .s32 | .n32 => true
  | _ => false

/-- Elements per register of a number type (R218). -/
def NTy.count : NTy → Nat
  | .s32 | .n32 | .f32 | .s64 | .n64 => 1
  | .f16 | .bf16 => 2
  | .e4m3 | .e5m2 | .s8 | .n8 => 4
  | .s4 | .n4 | .e2m1 => 8
/-- Float types (R218). -/
def NTy.isFloat : NTy → Bool
  | .f32 | .f16 | .bf16 | .e4m3 | .e5m2 | .e2m1 => true
  | _ => false
/-- Narrow float targets, which round with .sat or .ieee and accept .rs (R120, R126). -/
def NTy.isNarrow : NTy → Bool
  | .f16 | .bf16 | .e4m3 | .e5m2 | .e2m1 => true
  | _ => false
/-- Types that PACK writes and UNPACK reads: codes 4 to 12 (R220, R221). -/
def NTy.isPacked (t : NTy) : Bool := decide (2 ≤ t.count)
/-- Types that .ftz may name (R124, R217). -/
def NTy.ftzOk : NTy → Bool
  | .f32 | .f16 | .bf16 => true
  | _ => false
/-- 64-bit types live in an even pair (R218). -/
def NTy.pair : NTy → Bool
  | .s64 | .n64 => true
  | _ => false

/-- The modes of the float forms: everything but .rs (R209). -/
def Rm.arith : Rm → Bool
  | .rs => false
  | _ => true
/-- The static modes of REDG and SCANG (R226). -/
def Rm.static : Rm → Bool
  | .rs | .dyn => false
  | _ => true

/-- Widths of R24's system registers; none: not in the table. -/
def sysRegWidth (n : Nat) : Option Nat :=
  match n with
  | 0x000 => some 64 | 0x001 => some 32 | 0x002 => some 64 | 0x003 => some 32 | 0x004 => some 64
  | 0x005 => some 64 | 0x006 => some 64 | 0x010 => some 32 | 0x020 => some 32 | 0x030 => some 32
  | 0x031 => some 32 | 0x040 => some 32
  | _ => none

/-- A system register number of R24, with .hi only on a 64-bit register (R311). -/
def sysRegOk (n : BitVec 12) (hi : Bool) : Bool :=
  match sysRegWidth n.toNat with
  | some w => !hi || w == 64
  | none => false

/-- TALLOC's immediate shape (R243). -/
def shapeImmOk (x : W32) : Bool :=
  x.toNat / 2^22 == 0 && x.toNat / 2^17 % 16 != 15 && (x.toNat / 2^21 % 2 == 0 || x.toNat / 2^17 % 16 == 10)

/-- A tile index: kind 0 immediate, 1 vector register, 2 scalar register (R90). -/
def indexOk (k : BitVec 2) (v : Nat) : Bool :=
  match k.toNat with
  | 0 => true
  | 1 => decide (v < 256)
  | 2 => decide (v < 24)
  | _ => false

/-- A half's rules that depend on the half alone (R102, R103): an R half in mode 0 has T = 0, a shift count is 0 to 31. -/
def Half.wf : Half → Bool
  | .nop | .u .. | .movi .. | .ffma .. => true
  | .r _ m _ _ t => m != .m0 || t == 0
  | .i op _ _ k =>
    match op with
    | .shl | .shr | .sar => decide (k.toNat ≤ 31)
    | _ => true

/-- D7 of a half that is not NOP. -/
def Half.dst : Half → Option Nat
  | .nop => none
  | .r _ _ d _ _ | .i _ d _ _ | .u _ d _ | .movi d _ | .ffma d _ _ => some d.toNat

/-- The registers a half reads (R104): D in mode 0 and for F codes, S, and T; v0 contributes nothing. -/
def Half.reads : Half → List Nat
  | .nop => []
  | .r _ .m0 d s _ => [d.toNat, s.toNat].filter (· != 0)
  | .r _ _ _ s t => [s.toNat, t.toNat].filter (· != 0)
  | .i _ _ s _ => [s.toNat].filter (· != 0)
  | .u _ _ s => [s.toNat].filter (· != 0)
  | .movi _ _ => []
  | .ffma d s t => [d.toNat, s.toNat, t.toNat].filter (· != 0)

/-- The pairing rules of R104. -/
def pairingOk (h0 h1 : Half) : Bool :=
  let rs := (h0.reads ++ h1.reads).dedup
  rs.all (fun x => rs.all (fun y => x == y || x % 4 != y % 4)) &&
    (match h0.dst, h1.dst with
     | some x, some y => x != y
     | _, _ => true)

/-- Step 6 of R108 for the supervisor-only forms, whose level is checked first (step 5): PMAP and TLBINV.page take an even pair. -/
def Instr.oddPair : Instr → Bool
  | .pmap f | .tlbinv f .page => !evenReg f.ra
  | _ => false

/-- The term is a defined combination (steps 3 and 6 of R108; the pairing rules of step 4 are apart: `pairingOk`). -/
def Instr.wf : Instr → Bool
  | .nop => true
  | .dualWord _ h0 h1 => h0.wf && h1.wf
  -- control (R173)
  | .bra _ => true
  | .braC f => f.ra != 0 || f.xp != 0
  | .brx f => f.off != 0 && evenReg f.ra && f.xp == 0
  | .call f => f.ra == 0 && f.xp == 0
  | .callx f => f.off == 0 && evenReg f.ra && f.xp == 0
  | .ret f | .exit f | .exitJ f => f.off == 0 && f.ra == 0 && f.xp == 0
  | .rjoin f | .yield f => f.g.isNone && f.off == 0 && f.ra == 0 && f.xp == 0
  | .loop f imm => f.g.isNone && decide (2 ≤ f.off.toNat ∧ f.off.toNat < 2^31) && (imm || decide (f.ra.toNat < 24)) &&
      decide (f.xp.toNat ≤ 3)
  | .lbrk f => f.g.isNone && f.off == 0 && f.ra == 0 && decide (f.xp.toNat ≤ 3)
  | .bar f | .bara f => f.g.isNone && decide (f.off.toNat ≤ 32) && decide (f.ra.toNat < 16) && f.xp == 0
  | .barw f => f.g.isNone && f.off == 0 && decide (f.ra.toNat < 16) && f.xp == 0
  | .sbr f _ => f.g.isNone && decide (f.ra.toNat < 24) && f.xp == 0
  -- groups (R187, R189): every field that R187's table does not name is 0, marks and holds with them
  | .getem f toS => f.ok (!toS) (if toS then .oth 24 else .vec) .no .no .no
  | .setem f k =>
    match k with
    | .v => f.ok true .no .vec .no .no && !f.lra && f.hs == 0
    | .p => f.ok false .no (.oth 8) .no .no
    | .s => f.ok false .no (.oth 24) .no .no
  | .vote f k =>
    match k with
    | .someP | .everyP => f.ok true (.oth 8) (.oth 8) .no .no
    | .someS | .everyS | .bitsS => f.ok true (.oth 24) (.oth 8) .no .no
    | .bitsV => f.ok true .vec (.oth 8) .no .no
  | .getid f id toS =>
    if toS then f.ok false (.oth 24) .no .no .no && id != 0 && id != 10
    else f.ok true .vec .no .no .no && (id != 10 || evenReg f.d)
  | .setstage f fromS =>
    if fromS then f.ok false .no (.oth 24) && f.imm == 0 else f.ok false .no .no && decide (f.imm.toNat ≤ 15)
  | .rbtake f | .rbgive f => f.ok false .no .no && decide (1 ≤ f.imm.toNat ∧ f.imm.toNat ≤ 28)
  | .rbq f _ => f.ok false (.oth 24) .no .no .no
  -- scalar pipe (R194 to R196)
  | .smov f k =>
    match k with
    | .ss => f.ok false (.oth 24) (.oth 24) .no .no
    | .sv => f.ok true (.oth 24) .vec .no .no
    | .vs => f.ok true .vec (.oth 24) .no .no
    | .sl => f.ok false (.oth 24) (.oth 4) .no .no
  | .smovi f => f.ok false (.oth 24) .no
  | .sadd o | .sand o | .sor o | .sxor o =>
    match o with
    | .a f => f.ok false (.oth 24) (.oth 24) (.oth 24) .no
    | .i f => f.ok false (.oth 24) (.oth 24)
  | .ssub f | .smul f => f.ok false (.oth 24) (.oth 24) (.oth 24) .no
  | .sshl o | .sshr o _ =>
    match o with
    | .a f => f.ok false (.oth 24) (.oth 24) (.oth 24) .no
    | .i f => f.ok false (.oth 24) (.oth 24) && decide (f.imm.toNat ≤ 31)
  | .scmp o _ =>
    match o with
    | .a f => f.ok false (.oth 24) (.oth 24) (.oth 24) .no
    | .i g d a _ lra => g.isNone && decide (d.toNat < 24) && decide (a.toNat < 24) && !lra
  | .ssel f => f.ok false (.oth 24) (.oth 24) (.oth 24) (.oth 24)
  | .sld f signed => f.g.isNone && decide (f.r.toNat < 24) && decide (f.vo.toNat < 24) && decide (f.scope.toNat ≤ 5) &&
      (f.ord == 0 || f.ord == 1) && !f.lrv && !f.lro && decide (f.sz.toNat ≤ 2) && (!signed || f.sz != 2)
  | .abind f => f.ok false (.oth 8) (.oth 24) (.oth 24) .no && evenReg f.a
  | .aq f i => f.ok false (.oth 24) (.oth 8) .no .no && i != 3
  -- vector integer, logic, predicates (R199 to R208)
  | .mov f b64 => f.ok true .vec .vec .no .no && (!b64 || (evenReg f.d && evenReg f.a))
  | .movi f _ => f.ok true .vec .no
  | .sel f => f.ok true .vec .vec .vec .pred
  | .iadd o t _ =>
    match o with
    | .a f => f.ok true .vec .vec .vec .no && (!t.pair || (evenReg f.d && evenReg f.a && evenReg f.b))
    | .i f => f.ok true .vec .vec && t.w32
  | .isub f t _ | .imin f t | .imax f t =>
    f.ok true .vec .vec .vec .no && (!t.pair || (evenReg f.d && evenReg f.a && evenReg f.b))
  | .iadd3 f t => f.ok true .vec .vec .vec .vec && t.w32
  | .imul o t sat part =>
    match o with
    | .a f => f.ok true .vec .vec .vec .no && t.w32 && (!sat || part == .lo) && (part != .wide || evenReg f.d)
    | .i f => f.ok true .vec .vec && t.w32 && part == .lo
  | .imad f t sat wide =>
    f.ok true .vec .vec .vec .vec && t.w32 && (!sat || !wide) && (!wide || (evenReg f.d && evenReg f.c))
  | .idiv f t | .irem f t => f.ok true .vec .vec .vec .no true && t.w32
  | .iabs f t _ => f.ok true .vec .vec .no .no && (t == .s32 || t == .s64 || t == .s8x4) &&
      (!t.pair || (evenReg f.d && evenReg f.a))
  | .isad f t => f.ok true .vec .vec .vec .vec && !t.pair
  | .and o b64 | .or o b64 | .xor o b64 =>
    match o with
    | .a f => f.ok true .vec .vec .vec .no && (!b64 || (evenReg f.d && evenReg f.a && evenReg f.b))
    | .i f => f.ok true .vec .vec && !b64
  | .andn f b64 => f.ok true .vec .vec .vec .no && (!b64 || (evenReg f.d && evenReg f.a && evenReg f.b))
  | .shl o | .shr o | .sar o | .rot o =>
    match o with
    | .a f => f.ok true .vec .vec .vec .no
    | .i f => f.ok true .vec .vec && decide (f.imm.toNat ≤ 31)
  | .popc f | .clz f | .brev f | .tagget f => f.ok true .vec .vec .no .no
  | .bfx f _ => f.ok true .vec .vec .vec .no
  | .bfi f => f.ok true .vec .vec .vec .vec
  | .icmp o _ b64 =>
    match o with
    | .a f => f.ok true (.oth 8) .vec .vec .no && (!b64 || (evenReg f.a && evenReg f.b))
    | .i _ d _ _ _ => decide (d.toNat < 8) && !b64
  | .pand f _ _ | .por f _ _ | .pxor f _ _ => f.ok true (.oth 8) .pred .pred .no
  | .pnot f => f.ok true (.oth 8) .pred .no .no
  | .pmov f k =>
    match k with
    | .pp => f.ok true (.oth 8) .pred .no .no
    | .vp => f.ok true .vec .pred .no .no
    | .pv => f.ok true (.oth 8) .vec .no .no
  -- float (R209 to R216)
  | .fadd o m | .fmul o m =>
    match o with
    | .a f => f.ok true .vec .vec .vec .no && m.rm.arith
    | .i f => f.ok true .vec .vec && m.rm == .rn && m.ty == .f32
  | .fsub f m => f.ok true .vec .vec .vec .no && m.rm.arith
  | .ffma f m => f.ok true .vec .vec .vec .vec && m.rm.arith
  | .fmin f _ _ | .fmax f _ _ => f.ok true .vec .vec .vec .no
  | .fcmp f _ ty e1 => f.ok true (.oth 8) .vec .vec .no && (!e1 || ty != .f32)
  | .fclass f ty e1 => f.ok true .vec .vec .no .no && (!e1 || ty != .f32)
  | .frnd f m => f.ok true .vec .vec .no .no && m.rm.arith
  | .fdiv f _ rm => f.ok true .vec .vec .vec .no true && rm.arith
  | .fsqrt f _ rm => f.ok true .vec .vec .no .no true && rm.arith
  | .frcp f | .frsq f | .fsin f | .fcos f | .fexp2 f | .flog2 f | .ftanh f => f.ok true .vec .vec .no .no true
  -- conversion (R217 to R224)
  | .cvt _ d a hsA he _ k =>
    he != 3 && (hsA || he == 0) && decide (k.e.toNat < k.src.count) && decide (k.f.toNat < k.dst.count) &&
      (!k.ftz || (k.dst.ftzOk && k.src.ftzOk)) && (k.rm != .rs || k.dst.isNarrow) &&
      (!k.sat || (k.dst != .f32 && (!k.src.isFloat || k.dst.isFloat))) &&
      (!k.dst.pair || evenReg d) && (!k.src.pair || evenReg a)
  | .pack f t _ rm =>
    t.isPacked && (rm != .rs || t.isNarrow) &&
      (if t.count == 2 then f.ok true .vec .vec .vec .no
       else if t.count == 4 then f.ok true .vec .vec .no .no && quadReg f.a
       else f.ok true .vec .vec .vec .no && quadReg f.a && quadReg f.b)
  | .unpack f t h => t.isPacked && f.ok true .vec .vec .no .no && (!h || t.count == 8) &&
      (if t.count == 2 then evenReg f.d else quadReg f.d)
  | .bpsplit f _ => f.ok true .vec .vec .vec .no && quadReg f.a && quadReg f.b
  | .bpjoin f _ k1 => f.ok true .vec .vec .no .no && decide (f.a.toNat + k1.toNat ≤ 255)
  | .tagset f tag => f.ok true .vec .vec .no .no && tag != 15
  -- cross-lane (R225 to R228), quantisation (R307), scans (R272)
  | .shfl o rule ring _ =>
    (!ring || rule == .lag || rule == .lead) &&
      (match o with
       | .a f => f.ok true .vec .vec .vec .no
       | .i .. => true)
  | .redg f op ty rm | .scang f _ op ty rm =>
    f.ok true .vec .vec .no .no true && rm.static && (rm == .rn || (op == .add && ty == .f32)) &&
      (ty != .f32 || op == .add || op == .min || op == .max)
  | .rng f k =>
    match k with
    | .n32 | .f32 => f.ok true .vec .no .no .no
    | .getc => f.ok true .vec .no .no .no && evenReg f.d
    | .setc => f.ok true .no .vec .no .no && evenReg f.a
  | .rqscale f _ => f.ok true .vec .vec .no .vec
  | .rquant f => f.ok true .vec .vec .vec .no && evenReg f.d
  | .rdeq f => f.ok true .vec .vec .vec .no && evenReg f.a
  | .scanl f rm rv pr => f.ok true .vec .vec .no .vec true && rm.arith && (rv || pr == 0)
  | .scanp f rm rv pr => f.ok true .vec .vec .vec .vec true && rm.arith && (rv || pr == 0)
  -- memory (R232 to R242)
  | .ld f k =>
    f.orderOk 1 && !f.lrv && f.lroOk && (f.r != 0 || f.ord == 0) &&
      (match k with
       | .pred => f.sz == 0 && decide (f.r.toNat < 8)
       | .reg x tag => alignOk f.sz f.r && decide (f.sz.toNat ≤ 4) && tag != 15 &&
           (if decide (f.sz.toNat ≤ 1) then decide (tag.toNat ≤ 2) else !x || f.sz == 4))
  | .st f k =>
    f.orderOk 2 && f.la == 0 && f.lroOk &&
      (match k with
       | .pred => f.sz == 0 && decide (f.r.toNat < 8)
       | .reg x => alignOk f.sz f.r && decide (f.sz.toNat ≤ 4) && (!x || f.sz == 4))
  | .atom f op u _ =>
    decide (f.scope.toNat ≤ 5) && !f.lrv && f.lroOk && (f.sz == 2 || (f.sz == 3 && evenReg f.r)) &&
      (!u || op == .add || op == .min || op == .max)
  | .cas f =>
    decide (f.scope.toNat ≤ 5) && !f.lrv && f.lroOk &&
      ((f.sz == 2 && evenReg f.r) || (f.sz == 3 && quadReg f.r) ||
        (f.sz == 4 && quadReg f.r && decide (f.r.toNat ≤ 248)))
  | .ll f tag => f.orderOk 1 && !f.lrv && f.lroOk && decide (2 ≤ f.sz.toNat ∧ f.sz.toNat ≤ 4) && alignOk f.sz f.r && tag != 15
  | .sc f _ => f.orderOk 2 && f.lroOk && decide (2 ≤ f.sz.toNat ∧ f.sz.toNat ≤ 4) && alignOk f.sz f.r
  | .fence f isSc => f.plainGroup && f.r == 0 && f.ar == 0 && f.disp == 0 && f.sz == 0 && decide (f.scope.toNat ≤ 5) &&
      f.ord != 0 && (!isSc || f.ord == 3)
  -- tiles (R243 to R246)
  | .talloc f fromS =>
    if fromS then f.ok false (.oth 64) (.oth 24) && f.imm == 0 else f.ok false (.oth 64) .no && shapeImmOk f.imm
  | .tfree f => f.ok false (.oth 64) .no && f.imm == 0
  | .tq f i => f.ok false (.oth 24) (.oth 64) .no .no && decide (i.toNat ≤ 4)
  | .tld f sz signed =>
    decide (sz.toNat ≤ 4) && (!signed || decide (sz.toNat ≤ 1)) && alignOk sz f.r && indexOk f.rk f.row.toNat &&
      indexOk f.ck f.col.toNat && !f.lrv && (!f.lri || f.rk == 1 || f.ck == 1)
  | .tst f sz =>
    decide (sz.toNat ≤ 4) && alignOk sz f.r && indexOk f.rk f.row.toNat && indexOk f.ck f.col.toNat &&
      (!f.lri || f.rk == 1 || f.ck == 1)
  -- copies, barriers, collectives (R249 to R256)
  | .cpy f mode nb =>
    f.card && decide (f.scope.toNat ≤ 5) && (!nb || f.cb == 0) && f.vo == 0 && decide (f.follow.toNat ≤ 3) &&
      (mode != .t2g || f.follow == 0) &&
      decide (f.sc.toNat ≤ if f.follow == 0 then 21 else 18)
  | .cpyg f e nb =>
    (f.stgv || f.stg == 0) && decide (f.scope.toNat ≤ 5) && (!nb || f.cb == 0) && decide (e.toNat ≤ 4) &&
      decide (f.follow.toNat ≤ 3) && decide (f.sc.toNat ≤ if f.follow == 0 then 22 else 18)
  | .cpys f e nb =>
    (f.stgv || f.stg == 0) && decide (f.scope.toNat ≤ 5) && (!nb || f.cb == 0) && decide (e.toNat ≤ 4) &&
      f.follow == 0 && decide (f.sc.toNat ≤ 22)
  | .cbinit f => f.g.isNone && f.noStage && f.th == 0 && f.ar == 0 && f.vo == 0 && decide (f.sc.toNat < 24) && f.scope == 0
  | .cbarr f => f.g.isNone && f.noStage && f.th == 0 && f.ar == 0 && f.vo == 0 && decide (f.sc.toNat < 24) &&
      decide (f.scope.toNat ≤ 1)
  | .cbwait f => f.g.isNone && f.noStage && f.th == 0 && f.ar == 0 && f.vo == 0 && f.sc == 0 && f.scope == 0
  | .cbtest f => f.noStage && f.th == 0 && f.ar == 0 && decide (f.vo.toNat < 8) && f.sc == 0 && f.scope == 0
  | .coll f kind op =>
    f.card && decide (f.scope.toNat ≤ 5) && f.th == 0 && f.vo == 0 && f.follow == 0 && decide (f.sc.toNat ≤ 20) &&
      (kind == .allreduce || kind == .redscat || op == .addF32)
  -- Lathe (R261)
  | .mloadb f => f.lathe 2 && f.cb == 0 && f.ar == 0 && f.scope == 0
  | .mswap f => f.lathe 1 && f.cb == 0 && f.ar == 0 && f.scope == 0 && f.th == 0
  | .mma f _ nb => f.lathe 3 && f.ar == 0 && decide (f.scope.toNat ≤ 1) && (!nb || f.cb == 0)
  | .autoCfg f => f.lathe 1 && f.cb == 0 && f.scope == 0 && f.th == 0
  | .autoSeed f => f.lathe 3 && f.cb == 0 && f.ar == 0 && f.scope == 0 && f.th == 0
  | .autoLdx f => f.lathe 1 && f.cb == 0 && f.ar == 0 && f.scope == 0
  | .autoInf f _ nb => f.lathe 2 && f.ar == 0 && decide (f.scope.toNat ≤ 1) && (!nb || f.cb == 0)
  | .autoFb1 f | .autoFb2 f => f.lathe 2 && f.cb == 0 && f.ar == 0 && f.scope == 0 && f.th == 0
  | .autoRd f nb => f.lathe 2 && f.ar == 0 && decide (f.scope.toNat ≤ 1) && (!nb || f.cb == 0)
  | .autoWr f => f.lathe 2 && f.cb == 0 && f.ar == 0 && f.scope == 0
  | .autoFence f => f.g.isNone && f.noStage && f.cb == 0 && f.th == 0 && f.ar == 0 && f.vo == 0 && f.sc == 0 &&
      decide (1 ≤ f.scope.toNat ∧ f.scope.toNat ≤ 3)
  -- spawn, estates, checkpoints, graphs (R285 to R305)
  | .nodemk f => f.plainGroup && decide (f.r.toNat < 24) && f.sz == 0 && f.ord == 0 && f.scope == 0
  | .nodedel f => f.plain && f.rd == 0 && decide (f.ra.toNat < 24) && f.num == 0
  | .nodeq f => f.plain && decide (f.rd.toNat < 24) && decide (f.ra.toNat < 24) && decide (f.num.toNat ≤ 6)
  | .spawn f b o remote aj j =>
    f.ok true (.oth 8) .vec .vec (if o then .vec else .no) && (b == (f.d == 0)) && (!remote || evenReg f.a) &&
      decide (f.b.toNat + 3 ≤ 255) && (j || aj == 0)
  | .jinit f => f.plainGroup && decide (f.r.toNat < 24) && f.sz == 3 && f.ord == 0 && f.scope == 0
  | .jwait f => f.plainGroup && f.r == 0 && f.sz == 3 && f.ord == 0 && (f.scope == 3 || f.scope == 5)
  | .estw f tagHi => f.ra != 0 && decide (f.ra.toNat + f.rd.toNat % 16 ≤ 255) && (f.num != 0 || tagHi != 0) &&
      decide (16 ≤ f.rd.toNat)
  | .estq f _ => f.ok true .vec .no .no .no
  | .estf f => f.rd == 0 && f.ra == 0 && f.num == 0
  | .ckmark f nb => f.g.isNone && f.noStage && f.th == 0 && f.vo == 0 && (f.scope == 3 || f.scope == 4) && (!nb || f.cb == 0) &&
      decide (f.sc.toNat ≤ 21)
  | .cksnap f nb | .ckroll f nb => f.g.isNone && f.noStage && f.th == 0 && f.ar == 0 && f.vo == 0 &&
      (f.scope == 3 || f.scope == 4) && (!nb || f.cb == 0) && decide (f.sc.toNat ≤ 23)
  | .ckdrop f nb all unmark => f.g.isNone && f.noStage && f.th == 0 && f.ar == 0 && f.vo == 0 &&
      (f.scope == 3 || f.scope == 4) && (!nb || f.cb == 0) && decide (f.sc.toNat ≤ 23) && (!unmark || all)
  | .glaunch f nb => f.g.isNone && f.noStage && f.th == 0 && f.vo == 0 && f.scope == 3 && (!nb || f.cb == 0) &&
      decide (f.sc.toNat ≤ 22)
  | .gcond f => f.plainGroup && decide (f.r.toNat < 24) && f.sz == 2 && f.ord == 2 && (f.scope == 3 || f.scope == 5)
  -- system (R306, R308 to R313)
  | .qend f | .eret f => f.plain && f.rd == 0 && f.ra == 0 && f.num == 0
  | .trap f => f.rd == 0 && f.ra == 0 && decide (f.num.toNat ≤ 255)
  | .mfsr f hi => f.plain && decide (f.rd.toNat < 24) && f.ra == 0 && sysRegOk f.num hi
  | .mtsr f hi => f.plain && f.rd == 0 && decide (f.ra.toNat < 24) && sysRegOk f.num hi
  | .pmap f => f.plain && decide (f.rd.toNat < 24) && decide (f.ra.toNat < 24) &&
      f.num.toNat / 64 == 0 && f.num.toNat / 4 % 2 == 0 && f.num.toNat % 4 != 3
  | .tlbinv f k =>
    f.plain && f.rd == 0 && f.num == 0 &&
      (match k with
       | .page => decide (f.ra.toNat < 24)
       | _ => f.ra == 0)
  -- rows without a word
  | .unassignedEncoding _ => true
  | _ => false

/-- A row of the table that has no word: a step of an engine, the host or the environment. -/
def Instr.isEvent : Instr → Bool
  | .resultLands .. | .causeDelivery .. | .blockWatchdogExpiry .. | .fairnessTimerExpiry .. | .contextMove .. => true
  | .estateFetchLands .. | .jwaitCounterRead .. | .spawnBlockingTimeout .. | .binTimerExpiry .. => true
  | .spillSegmentDrain .. | .nodeSwapIn .. | .remoteRecordArrival .. | .remoteRecordTimeout .. => true
  | .jobDispatch .. | .jobDataLands .. | .jobTranslationFault .. | .jobComplete .. | .mmaPassGrant .. => true
  | .collParamExchange .. | .spindleAcceptGraph .. | .spindleKernelNode .. | .spindleConditionalNode .. => true
  | .spindleWhileNode .. | .spindleEndNode .. | .sqtailWrite .. | .launchPacket .. | .markerComplete .. => true
  | .blockPlacement .. | .affinityWindowExpiry .. | .startBarrierArrival .. | .startBarrierTimeout .. => true
  | .coreHotMark .. | .coreHotClear .. | .droopDetect .. | .droopMarkExpiry .. | .thermalMarkOverride .. => true
  | .sliceEnd .. | .preemptSave .. | .blockQuantumEnd .. | .quantumExpiry .. | .ticketRelease .. => true
  | .bankFailedMark .. | .scrubPass | .hostMemRequest .. | .tlbsdGo .. | .lcmdPrepare | .lcmdFlip | .lcmdAbort => true
  | .layoutConfirm | .mpWatchdogReset | .capmove .. | .capack .. | .capmoveTimeout | .lend .. | .lendRecall .. => true
  | .quadRetirement .. | .pcmdResumeGroup .. | .pcmdTerminateBlock .. | .pcmdPreemptPartition .. => true
  | .pcmdResumePartition .. | .pcmdDiscardSlice .. | .lviolRead | .evlostRead | .drlostRead .. => true
  | .registerWrite .. | .lockInterfaceRequest .. | .startInterfaceRequest .. | .stopInterfaceRequest .. => true
  | .ideStreamFailure .. | .spdmRequest .. | .deviceReset | .firmwareVerify .. | .lcsGo | .enterFull => true
  | .clockLowering .. | .linkTraining .. => true
  | _ => false

end Sys2Proof
end

