-- ==== Sys2Proof/Decode.lean ====
section
/-! DEFINITION. Words to terms and back (spec/03 R85 to R109, and the encoding tables of chapters 06 to 10). `parse` pulls the
fields out of a word once; `encode` lays a term out; `decode` accepts a word exactly when its term is well formed and encodes
to that word, so that every reserved bit is checked by comparison (step 3 of R108). -/

namespace Sys2Proof

/-! ## Codes of the closed lists -/

/-- SUB[3:0] of SCMP and ICMP (R194). -/
def Cc.code : Cc → Nat
  | .eq => 0 | .ne => 1 | .lt => 2 | .le => 3 | .gt => 4 | .ge => 5 | .ltu => 6 | .leu => 7 | .gtu => 8 | .geu => 9
def Cc.ofCode (n : Nat) : Option Cc :=
  match n with
  | 0 => some .eq | 1 => some .ne | 2 => some .lt | 3 => some .le | 4 => some .gt
  | 5 => some .ge | 6 => some .ltu | 7 => some .leu | 8 => some .gtu | 9 => some .geu
  | _ => none

/-- SUB[2:0] of the integer forms (R199). -/
def ITy.code : ITy → Nat
  | .s32 => 0 | .n32 => 1 | .s64 => 2 | .n64 => 3 | .s8x4 => 4 | .n8x4 => 5
def ITy.ofCode (n : Nat) : Option ITy :=
  match n with
  | 0 => some .s32 | 1 => some .n32 | 2 => some .s64 | 3 => some .n64 | 4 => some .s8x4 | 5 => some .n8x4
  | _ => none

/-- SUB[5:4] of IMUL (R202). -/
def MulPart.code : MulPart → Nat
  | .lo => 0 | .hi => 1 | .wide => 2
def MulPart.ofCode (n : Nat) : Option MulPart :=
  match n with
  | 0 => some .lo | 1 => some .hi | 2 => some .wide
  | _ => none

/-- TY of the float forms (R209). -/
def FTy.code : FTy → Nat
  | .f32 => 0 | .f16x2 => 1 | .bf16x2 => 2
def FTy.ofCode (n : Nat) : Option FTy :=
  match n with
  | 0 => some .f32 | 1 => some .f16x2 | 2 => some .bf16x2
  | _ => none

/-- The rounding field (R209, R217). -/
def Rm.code : Rm → Nat
  | .rn => 0 | .rz => 1 | .ru => 2 | .rd => 3 | .dyn => 4 | .rs => 5
def Rm.ofCode (n : Nat) : Option Rm :=
  match n with
  | 0 => some .rn | 1 => some .rz | 2 => some .ru | 3 => some .rd | 4 => some .dyn | 5 => some .rs
  | _ => none

/-- SUB[3:0] of FCMP (R212). -/
def Fcc.code : Fcc → Nat
  | .eq => 0 | .ne => 1 | .lt => 2 | .le => 3 | .gt => 4 | .ge => 5 | .num => 6 | .nan => 7
def Fcc.ofCode (n : Nat) : Option Fcc :=
  match n with
  | 0 => some .eq | 1 => some .ne | 2 => some .lt | 3 => some .le
  | 4 => some .gt | 5 => some .ge | 6 => some .num | 7 => some .nan
  | _ => none

/-- Type codes of CVT, PACK, UNPACK (R218). -/
def NTy.code : NTy → Nat
  | .s32 => 1 | .n32 => 2 | .f32 => 3 | .f16 => 4 | .bf16 => 5 | .e4m3 => 6 | .e5m2 => 7
  | .s8 => 8 | .n8 => 9 | .s4 => 10 | .n4 => 11 | .e2m1 => 12 | .s64 => 13 | .n64 => 14
def NTy.ofCode (n : Nat) : Option NTy :=
  match n with
  | 1 => some .s32 | 2 => some .n32 | 3 => some .f32 | 4 => some .f16 | 5 => some .bf16 | 6 => some .e4m3
  | 7 => some .e5m2 | 8 => some .s8 | 9 => some .n8 | 10 => some .s4 | 11 => some .n4 | 12 => some .e2m1
  | 13 => some .s64 | 14 => some .n64
  | _ => none

/-- OP of REDG and SCANG (R226). -/
def RedOp.code : RedOp → Nat
  | .add => 0 | .min => 1 | .max => 2 | .and => 3 | .or => 4 | .xor => 5
def RedOp.ofCode (n : Nat) : Option RedOp :=
  match n with
  | 0 => some .add | 1 => some .min | 2 => some .max | 3 => some .and | 4 => some .or | 5 => some .xor
  | _ => none

/-- TY of REDG and SCANG (R226). -/
def RedTy.code : RedTy → Nat
  | .s32 => 0 | .n32 => 1 | .f32 => 2
def RedTy.ofCode (n : Nat) : Option RedTy :=
  match n with
  | 0 => some .s32 | 1 => some .n32 | 2 => some .f32
  | _ => none

/-- OP5[2:0] of ATOM (R238). -/
def AtomOp.code : AtomOp → Nat
  | .add => 0 | .min => 1 | .max => 2 | .and => 3 | .or => 4 | .xor => 5 | .exch => 6
def AtomOp.ofCode (n : Nat) : Option AtomOp :=
  match n with
  | 0 => some .add | 1 => some .min | 2 => some .max | 3 => some .and | 4 => some .or | 5 => some .xor
  | 6 => some .exch
  | _ => none

/-- SUB[1:0] of SHFL (R225). -/
def ShflRule.code : ShflRule → Nat
  | .from => 0 | .lag => 1 | .lead => 2 | .pair => 3
def ShflRule.ofCode (n : Nat) : Option ShflRule :=
  match n with
  | 0 => some .from | 1 => some .lag | 2 => some .lead | 3 => some .pair
  | _ => none

/-- SUB of SMOV (R194). -/
def SmovKind.code : SmovKind → Nat
  | .ss => 0 | .sv => 1 | .vs => 2 | .sl => 3
def SmovKind.ofCode (n : Nat) : Option SmovKind :=
  match n with
  | 0 => some .ss | 1 => some .sv | 2 => some .vs | 3 => some .sl
  | _ => none

/-- SUB of SETEM (R187). -/
def SetemKind.code : SetemKind → Nat
  | .v => 0 | .p => 1 | .s => 2
def SetemKind.ofCode (n : Nat) : Option SetemKind :=
  match n with
  | 0 => some .v | 1 => some .p | 2 => some .s
  | _ => none

/-- SUB of VOTE: [1:0] operation, [3:2] destination (R187). -/
def VoteKind.code : VoteKind → Nat
  | .someP => 0 | .everyP => 1 | .someS => 8 | .everyS => 9 | .bitsV => 6 | .bitsS => 10
def VoteKind.ofCode (n : Nat) : Option VoteKind :=
  match n with
  | 0 => some .someP | 1 => some .everyP | 8 => some .someS | 9 => some .everyS | 6 => some .bitsV | 10 => some .bitsS
  | _ => none

/-- SUB of RBQ (R187). -/
def RbqSel.code : RbqSel → Nat
  | .own => 0 | .pool => 1 | .wait => 2
def RbqSel.ofCode (n : Nat) : Option RbqSel :=
  match n with
  | 0 => some .own | 1 => some .pool | 2 => some .wait
  | _ => none

/-- SUB of MOVI (R201). -/
def MoviTy.code : MoviTy → Nat
  | .s32 => 0 | .n32 => 1 | .f32 => 2 | .raw => 3
def MoviTy.ofCode (n : Nat) : Option MoviTy :=
  match n with
  | 0 => some .s32 | 1 => some .n32 | 2 => some .f32 | 3 => some .raw
  | _ => none

/-- SUB of PMOV (R208). -/
def PmovKind.code : PmovKind → Nat
  | .pp => 0 | .vp => 1 | .pv => 2
def PmovKind.ofCode (n : Nat) : Option PmovKind :=
  match n with
  | 0 => some .pp | 1 => some .vp | 2 => some .pv
  | _ => none

/-- SUB[1:0] of RNG (R228). -/
def RngKind.code : RngKind → Nat
  | .n32 => 0 | .f32 => 1 | .getc => 2 | .setc => 3
def RngKind.ofCode (n : Nat) : Option RngKind :=
  match n with
  | 0 => some .n32 | 1 => some .f32 | 2 => some .getc | 3 => some .setc
  | _ => none

/-- SUB[1:0] of CPY (R249). -/
def CpyMode.code : CpyMode → Nat
  | .g2t => 0 | .t2g => 1 | .t2t => 2
def CpyMode.ofCode (n : Nat) : Option CpyMode :=
  match n with
  | 0 => some .g2t | 1 => some .t2g | 2 => some .t2t
  | _ => none

/-- SUB[2:0] of COLL (R256). -/
def CollKind.code : CollKind → Nat
  | .allreduce => 0 | .redscat => 1 | .allgather => 2 | .bcast => 3 | .barrier => 4
def CollKind.ofCode (n : Nat) : Option CollKind :=
  match n with
  | 0 => some .allreduce | 1 => some .redscat | 2 => some .allgather | 3 => some .bcast | 4 => some .barrier
  | _ => none

/-- SUB[5:3] of COLL (R256). -/
def CollOp.code : CollOp → Nat
  | .addF32 => 0 | .addS32 => 1 | .minF32 => 2 | .maxF32 => 3 | .minS32 => 4 | .maxS32 => 5 | .qaddF32 => 6
def CollOp.ofCode (n : Nat) : Option CollOp :=
  match n with
  | 0 => some .addF32 | 1 => some .addS32 | 2 => some .minF32 | 3 => some .maxF32 | 4 => some .minS32
  | 5 => some .maxS32 | 6 => some .qaddF32
  | _ => none

/-- SUB of TLBINV (R308). -/
def TlbKind.code : TlbKind → Nat
  | .page => 0 | .areg => 1 | .all => 2
def TlbKind.ofCode (n : Nat) : Option TlbKind :=
  match n with
  | 0 => some .page | 1 => some .areg | 2 => some .all
  | _ => none

/-! ## op6 codes (R103) -/

/-- op6 of an R-kind half. -/
def HalfR.code : HalfR → Nat
  | .iadd => 0x01 | .isub => 0x03 | .imin => 0x04 | .imax => 0x05 | .and => 0x06 | .or => 0x08 | .xor => 0x0A
  | .andn => 0x0C | .shl => 0x10 | .shr => 0x11 | .sar => 0x12 | .fadd => 0x15 | .fsub => 0x16 | .fmul => 0x17
  | .fmin => 0x19 | .fmax => 0x1A | .imul => 0x1B
/-- op6 of an I-kind half. -/
def HalfI.code : HalfI → Nat
  | .iadd => 0x02 | .and => 0x07 | .or => 0x09 | .xor => 0x0B | .shl => 0x0D | .shr => 0x0E | .sar => 0x0F
/-- op6 of a U-kind half. -/
def HalfU.code : HalfU → Nat
  | .mov => 0x13 | .popc => 0x1C | .brev => 0x1D
/-- X10[9:8] of an R-kind half (R102). -/
def HalfMode.code : HalfMode → Nat
  | .m0 => 0 | .m1 => 1 | .m2 => 2
def HalfMode.ofCode (n : Nat) : Option HalfMode :=
  match n with
  | 0 => some .m0 | 1 => some .m1 | 2 => some .m2
  | _ => none

/-- What an op6 code names: nothing (unassigned), or a kind (R103). -/
inductive Op6 where
  | nop
  | r (op : HalfR)
  | i (op : HalfI)
  | u (op : HalfU)
  | movi
  | ffma
  deriving DecidableEq, Repr

/-- The op6 table of R103. -/
def Op6.ofCode (n : Nat) : Option Op6 :=
  match n with
  | 0x00 => some .nop
  | 0x01 => some (.r .iadd) | 0x02 => some (.i .iadd) | 0x03 => some (.r .isub) | 0x04 => some (.r .imin)
  | 0x05 => some (.r .imax) | 0x06 => some (.r .and) | 0x07 => some (.i .and) | 0x08 => some (.r .or)
  | 0x09 => some (.i .or) | 0x0A => some (.r .xor) | 0x0B => some (.i .xor) | 0x0C => some (.r .andn)
  | 0x0D => some (.i .shl) | 0x0E => some (.i .shr) | 0x0F => some (.i .sar) | 0x10 => some (.r .shl)
  | 0x11 => some (.r .shr) | 0x12 => some (.r .sar) | 0x13 => some (.u .mov) | 0x14 => some .movi
  | 0x15 => some (.r .fadd) | 0x16 => some (.r .fsub) | 0x17 => some (.r .fmul) | 0x18 => some .ffma
  | 0x19 => some (.r .fmin) | 0x1A => some (.r .fmax) | 0x1B => some (.r .imul) | 0x1C => some (.u .popc)
  | 0x1D => some (.u .brev)
  | _ => none

/-- A half as a number below 2^31 (R101). -/
def halfWord (op d s x : Nat) : Nat := op * 2^25 + d * 2^18 + s * 2^10 + x

/-- The 31 bits of a half (R101 to R103). -/
def Half.encode : Half → Nat
  | .nop => 0
  | .r op m d s t => halfWord op.code d.toNat s.toNat (m.code * 256 + t.toNat)
  | .i op d s k => halfWord op.code d.toNat s.toNat k.toNat
  | .u op d s => halfWord op.code d.toNat s.toNat 0
  | .movi d k => halfWord 0x14 d.toNat 0 k.toNat
  | .ffma d s t => halfWord 0x18 d.toNat s.toNat (256 + t.toNat)

/-- A half's fields; none: no defined combination. -/
def Half.parse (h : Nat) : Option Half :=
  let d := BitVec.ofNat 7 (h / 2^18)
  let s := BitVec.ofNat 8 (h / 2^10)
  let t := BitVec.ofNat 8 h
  let k := BitVec.ofNat 10 h
  match Op6.ofCode (h / 2^25 % 64) with
  | none => none
  | some .nop => some .nop
  | some (.r op) => (HalfMode.ofCode (h / 256 % 4)).map (fun m => .r op m d s t)
  | some (.i op) => some (.i op d s k)
  | some (.u op) => some (.u op d s)
  | some .movi => some (.movi d k)
  | some .ffma => some (.ffma d s t)

/-! ## Format classes (R85 to R93) -/

/-- The header and the body of a full word (R85). -/
def fullWord (opc : Nat) (g : Guard) (body : Nat) : Nat :=
  opc * 2^55 + g.pg.toNat * 2^52 + g.pn.toNat * 2^51 + body

/-- The guard of a full word (R85). -/
def Guard.ofNat (n : Nat) : Guard := ⟨BitVec.ofNat 3 (n / 2^52), n.testBit 51⟩

/-- Format A (R87). -/
def FA.word (opc : Nat) (f : FA) (sub : Nat) : Nat :=
  fullWord opc f.g (f.d.toNat * 2^43 + f.a.toNat * 2^35 + f.b.toNat * 2^27 + f.c.toNat * 2^19 + f.la.toNat * 2^15 +
    f.hs.toNat * 2^13 + f.he.toNat * 2^11 + f.lra.toNat * 2^10 + f.lrb.toNat * 2^9 + f.lrc.toNat * 2^8 + sub)
def FA.ofNat (n : Nat) : FA :=
  ⟨Guard.ofNat n, BitVec.ofNat 8 (n / 2^43), BitVec.ofNat 8 (n / 2^35), BitVec.ofNat 8 (n / 2^27), BitVec.ofNat 8 (n / 2^19),
    BitVec.ofNat 4 (n / 2^15), BitVec.ofNat 2 (n / 2^13), BitVec.ofNat 2 (n / 2^11), n.testBit 10, n.testBit 9, n.testBit 8⟩

/-- Format I (R88). -/
def FI.word (opc : Nat) (f : FI) (sub : Nat) : Nat :=
  fullWord opc f.g (f.d.toNat * 2^43 + f.a.toNat * 2^35 + f.imm.toNat * 2^3 + f.lra.toNat * 2^2 + sub)
def FI.ofNat (n : Nat) : FI :=
  ⟨Guard.ofNat n, BitVec.ofNat 8 (n / 2^43), BitVec.ofNat 8 (n / 2^35), BitVec.ofNat 32 (n / 2^3), n.testBit 2⟩

/-- Layout M.g (R89). -/
def FMg.word (opc : Nat) (f : FMg) (op5 : Nat) : Nat :=
  fullWord opc f.g (f.r.toNat * 2^43 + f.ar.toNat * 2^40 + f.vo.toNat * 2^32 + f.disp.toNat * 2^19 + f.la.toNat * 2^15 +
    f.scope.toNat * 2^12 + f.ord.toNat * 2^10 + f.lrv.toNat * 2^9 + f.lro.toNat * 2^8 + f.sz.toNat * 2^5 + op5)
def FMg.ofNat (n : Nat) : FMg :=
  ⟨Guard.ofNat n, BitVec.ofNat 8 (n / 2^43), BitVec.ofNat 3 (n / 2^40), BitVec.ofNat 8 (n / 2^32), BitVec.ofNat 13 (n / 2^19),
    BitVec.ofNat 4 (n / 2^15), BitVec.ofNat 3 (n / 2^12), BitVec.ofNat 2 (n / 2^10), n.testBit 9, n.testBit 8,
    BitVec.ofNat 3 (n / 2^5)⟩

/-- Layout M.t (R90). -/
def FMt.word (opc : Nat) (f : FMt) (sub : Nat) : Nat :=
  fullWord opc f.g (f.r.toNat * 2^43 + f.th.toNat * 2^37 + f.rk.toNat * 2^35 + f.row.toNat * 2^25 + f.ck.toNat * 2^23 +
    f.col.toNat * 2^11 + f.lrv.toNat * 2^10 + f.lri.toNat * 2^9 + sub)
def FMt.ofNat (n : Nat) : FMt :=
  ⟨Guard.ofNat n, BitVec.ofNat 8 (n / 2^43), BitVec.ofNat 6 (n / 2^37), BitVec.ofNat 2 (n / 2^35), BitVec.ofNat 10 (n / 2^25),
    BitVec.ofNat 2 (n / 2^23), BitVec.ofNat 12 (n / 2^11), n.testBit 10, n.testBit 9⟩

/-- Format C (R91). -/
def FC.word (opc : Nat) (f : FC) (sub : Nat) : Nat :=
  fullWord opc f.g (f.off.toNat * 2^19 + f.ra.toNat * 2^11 + f.xp.toNat * 2^8 + sub)
def FC.ofNat (n : Nat) : FC :=
  ⟨Guard.ofNat n, BitVec.ofNat 32 (n / 2^19), BitVec.ofNat 8 (n / 2^11), BitVec.ofNat 3 (n / 2^8)⟩

/-- Format J (R92). -/
def FJ.word (opc : Nat) (f : FJ) (sub : Nat) : Nat :=
  fullWord opc f.g (f.cb.toNat * 2^47 + f.th.toNat * 2^41 + f.ar.toNat * 2^38 + f.vo.toNat * 2^30 + f.sc.toNat * 2^22 +
    f.scope.toNat * 2^19 + f.stg.toNat * 2^15 + f.stgv.toNat * 2^14 + f.follow.toNat * 2^11 + sub)
def FJ.ofNat (n : Nat) : FJ :=
  ⟨Guard.ofNat n, BitVec.ofNat 4 (n / 2^47), BitVec.ofNat 6 (n / 2^41), BitVec.ofNat 3 (n / 2^38), BitVec.ofNat 8 (n / 2^30),
    BitVec.ofNat 8 (n / 2^22), BitVec.ofNat 3 (n / 2^19), BitVec.ofNat 4 (n / 2^15), n.testBit 14, BitVec.ofNat 3 (n / 2^11)⟩

/-- Format S (R93). -/
def FS.word (opc : Nat) (f : FS) (sub : Nat) : Nat :=
  fullWord opc f.g (f.rd.toNat * 2^43 + f.ra.toNat * 2^35 + f.num.toNat * 2^23 + sub)
def FS.ofNat (n : Nat) : FS :=
  ⟨Guard.ofNat n, BitVec.ofNat 8 (n / 2^43), BitVec.ofNat 8 (n / 2^35), BitVec.ofNat 12 (n / 2^23)⟩

/-! ## Encoding -/

/-- A form with an A code and an I code, each with its SUB (R106). -/
def OpAI.word (o : OpAI) (ka ki : Nat) (sa si : Nat) : Nat :=
  match o with
  | .a f => f.word ka sa
  | .i f => f.word ki si

/-- SCMP and ICMP: the condition in SUB, or in IMM[31:28] (R194, R207). -/
def OpCmp.word (o : OpCmp) (ka ki : Nat) (cc sub : Nat) : Nat :=
  match o with
  | .a f => f.word ka (sub + cc)
  | .i g d va k lra =>
    fullWord ki g (d.toNat * 2^43 + va.toNat * 2^35 + (cc * 2^28 + k.toNat) * 2^3 + lra.toNat * 2^2)

/-- The word of CVT: a format A word whose VB and VC positions hold control bytes (R217). -/
def cvtWord (g : Guard) (d a : BitVec 8) (hsA : Bool) (he : BitVec 2) (lra : Bool) (k : CvtCtl) : Nat :=
  fullWord 0x98 g (d.toNat * 2^43 + a.toNat * 2^35 + k.dst.code * 2^31 + k.src.code * 2^27 + k.f.toNat * 2^23 +
    k.e.toNat * 2^19 + hsA.toNat * 2^13 + he.toNat * 2^11 + lra.toNat * 2^10 + k.ftz.toNat * 16 + k.sat.toNat * 8 + k.rm.code)

/-- SUB of the float arithmetic forms (R209). -/
def FMode.sub (m : FMode) : Nat := m.ftz.toNat * 32 + m.rm.code * 4 + m.ty.code

/-- The number of a full word or dual word; 0 for a row that has no word. -/
def Instr.wordNat : Instr → Nat
  | .nop => 0
  | .dualWord ps h0 h1 => 2^63 + ps.toNat * 2^62 + h0.encode * 2^31 + h1.encode
  | .bra f => f.word 0x01 0
  | .braC f => f.word 0x02 0
  | .brx f => f.word 0x03 0
  | .call f => f.word 0x04 0
  | .callx f => f.word 0x05 0
  | .ret f => f.word 0x06 0
  | .rjoin f => f.word 0x07 0
  | .exit f => f.word 0x08 0
  | .exitJ f => f.word 0xEE 0
  | .loop f imm => f.word 0x09 imm.toNat
  | .lbrk f => f.word 0x0A 0
  | .yield f => f.word 0x0B 0
  | .getem f toS => f.word 0x0C toS.toNat
  | .setem f k => f.word 0x0D k.code
  | .vote f k => f.word 0x0E k.code
  | .getid f id toS => f.word 0x0F (toS.toNat * 16 + id.toNat)
  | .setstage f fromS => f.word 0x10 fromS.toNat
  | .bar f => f.word 0x11 0
  | .bara f => f.word 0x12 0
  | .barw f => f.word 0x13 0
  | .rbtake f => f.word 0x14 0
  | .rbgive f => f.word 0x15 0
  | .rbq f k => f.word 0x16 k.code
  | .smov f k => f.word 0x20 k.code
  | .smovi f => f.word 0x21 0
  | .sadd o => o.word 0x22 0x30 0 0
  | .ssub f => f.word 0x23 0
  | .smul f => f.word 0x24 0
  | .sand o => o.word 0x25 0x31 0 0
  | .sor o => o.word 0x26 0x32 0 0
  | .sxor o => o.word 0x27 0x33 0 0
  | .sshl o => o.word 0x28 0x34 0 0
  | .sshr o ar => o.word 0x29 0x35 ar.toNat ar.toNat
  | .scmp o cc => o.word 0x2A 0x36 cc.code 0
  | .ssel f => f.word 0x2B 0
  | .sld f signed => f.word 0x2C signed.toNat
  | .sbr f z => f.word 0x2D z.toNat
  | .abind f => f.word 0x2E 0
  | .aq f s => f.word 0x2F s.toNat
  | .mov f b64 => f.word 0x40 b64.toNat
  | .movi f t => f.word 0x41 t.code
  | .sel f => f.word 0x42 0
  | .iadd o t sat => o.word 0x43 0x44 (sat.toNat * 8 + t.code) (sat.toNat * 2 + t.code)
  | .iadd3 f t => f.word 0x45 t.code
  | .isub f t sat => f.word 0x46 (sat.toNat * 8 + t.code)
  | .imul o t sat p => o.word 0x47 0x48 (p.code * 16 + sat.toNat * 8 + t.code) (sat.toNat * 2 + t.code)
  | .imad f t sat wide => f.word 0x49 (wide.toNat * 32 + sat.toNat * 8 + t.code)
  | .idiv f t => f.word 0x4A t.code
  | .irem f t => f.word 0x4B t.code
  | .imin f t => f.word 0x4C t.code
  | .imax f t => f.word 0x4D t.code
  | .iabs f t sat => f.word 0x4E (sat.toNat * 8 + t.code)
  | .isad f t => f.word 0x4F t.code
  | .and o b64 => o.word 0x50 0x51 b64.toNat 0
  | .or o b64 => o.word 0x52 0x53 b64.toNat 0
  | .xor o b64 => o.word 0x54 0x55 b64.toNat 0
  | .andn f b64 => f.word 0x56 b64.toNat
  | .shl o => o.word 0x57 0x58 0 0
  | .shr o => o.word 0x59 0x5A 0 0
  | .sar o => o.word 0x5B 0x5C 0 0
  | .rot o => o.word 0x5D 0x5E 0 0
  | .popc f => f.word 0x5F 0
  | .clz f => f.word 0x60 0
  | .brev f => f.word 0x61 0
  | .bfx f signed => f.word 0x62 signed.toNat
  | .bfi f => f.word 0x63 0
  | .icmp o cc b64 => o.word 0x64 0x65 cc.code (b64.toNat * 16)
  | .pand f na nb => f.word 0x68 (nb.toNat * 2 + na.toNat)
  | .por f na nb => f.word 0x69 (nb.toNat * 2 + na.toNat)
  | .pxor f na nb => f.word 0x6A (nb.toNat * 2 + na.toNat)
  | .pnot f => f.word 0x6B 0
  | .pmov f k => f.word 0x6C k.code
  | .fadd o m => o.word 0x80 0x8B m.sub m.ftz.toNat
  | .fsub f m => f.word 0x81 m.sub
  | .fmul o m => o.word 0x82 0x8C m.sub m.ftz.toNat
  | .ffma f m => f.word 0x83 m.sub
  | .fmin f ftz ty => f.word 0x84 (ftz.toNat * 32 + ty.code)
  | .fmax f ftz ty => f.word 0x85 (ftz.toNat * 32 + ty.code)
  | .fcmp f cc ty e1 => f.word 0x86 (e1.toNat * 64 + ty.code * 16 + cc.code)
  | .fclass f ty e1 => f.word 0x87 (e1.toNat * 4 + ty.code)
  | .frnd f m => f.word 0x88 m.sub
  | .fdiv f ftz rm => f.word 0x89 (ftz.toNat * 32 + rm.code * 4)
  | .fsqrt f ftz rm => f.word 0x8A (ftz.toNat * 32 + rm.code * 4)
  | .frcp f => f.word 0x90 0
  | .frsq f => f.word 0x91 0
  | .fsin f => f.word 0x92 0
  | .fcos f => f.word 0x93 0
  | .fexp2 f => f.word 0x94 0
  | .flog2 f => f.word 0x95 0
  | .ftanh f => f.word 0x96 0
  | .cvt g d a hsA he lra k => cvtWord g d a hsA he lra k
  | .pack f t sat rm => f.word 0x99 (t.code * 16 + sat.toNat * 8 + rm.code)
  | .unpack f t h => f.word 0x9A (t.code * 16 + h.toNat * 8)
  | .bpsplit f p => f.word 0x9B p.toNat
  | .bpjoin f q k1 => f.word 0x9C (k1.toNat * 8 + q.toNat)
  | .tagset f tag => f.word 0x9D tag.toNat
  | .tagget f => f.word 0x9E 0
  | .shfl o r ring zf =>
    match o with
    | .a f => f.word 0xA0 (ring.toNat * 8 + zf.toNat * 4 + r.code)
    | .i g d a k lra => FI.word 0xA1 ⟨g, d, a, BitVec.ofNat 32 (zf.toNat * 64 + ring.toNat * 32 + k.toNat), lra⟩ r.code
  | .redg f op ty rm => f.word 0xA2 (rm.code * 32 + ty.code * 8 + op.code)
  | .scang f excl op ty rm => f.word 0xA3 (excl.toNat * 128 + rm.code * 32 + ty.code * 8 + op.code)
  | .rng f k => f.word 0xA4 k.code
  | .rqscale f grp => f.word 0xA5 grp.toNat
  | .rquant f => f.word 0xA6 0
  | .rdeq f => f.word 0xA7 0
  | .ld f k =>
    match k with
    | .reg x tag => f.word 0xB0 (x.toNat * 16 + tag.toNat)
    | .pred => f.word 0xB0 15
  | .st f k =>
    match k with
    | .reg x => f.word 0xB1 (x.toNat * 16)
    | .pred => f.word 0xB1 15
  | .talloc f fromS => f.word 0xB2 fromS.toNat
  | .tfree f => f.word 0xB3 0
  | .tq f s => f.word 0xB4 s.toNat
  | .tld f sz signed => f.word 0xB5 (signed.toNat * 8 + sz.toNat)
  | .tst f sz => f.word 0xB6 sz.toNat
  | .atom f op u nr => f.word 0xB7 (nr.toNat * 16 + u.toNat * 8 + op.code)
  | .cas f => f.word 0xB8 0
  | .ll f tag => f.word 0xB9 tag.toNat
  | .sc f pd => f.word 0xBA pd.toNat
  | .fence f b => f.word 0xBB b.toNat
  | .cpy f mode nb => f.word 0xBC (nb.toNat * 4 + mode.code)
  | .cpyg f e nb => f.word 0xBD (e.toNat * 16 + nb.toNat * 4)
  | .cpys f e nb => f.word 0xBE (e.toNat * 16 + nb.toNat * 4)
  | .cbinit f => f.word 0xBF 0
  | .cbarr f => f.word 0xC0 0
  | .cbwait f => f.word 0xC1 0
  | .cbtest f => f.word 0xC2 0
  | .coll f kind op => f.word 0xC3 (op.code * 8 + kind.code)
  | .mloadb f => f.word 0xD0 0
  | .mswap f => f.word 0xD1 0
  | .mma f pri nb => f.word 0xD2 (pri.toNat * 2 + nb.toNat)
  | .scanl f rm rv pr => f.word 0xD3 (rm.code * 16 + rv.toNat * 8 + pr.toNat)
  | .scanp f rm rv pr => f.word 0xD4 (rm.code * 16 + rv.toNat * 8 + pr.toNat)
  | .autoCfg f => f.word 0xE0 0
  | .autoLdx f => f.word 0xE1 0
  | .autoInf f train nb => f.word 0xE2 (train.toNat * 2 + nb.toNat)
  | .autoFb1 f => f.word 0xE3 0
  | .autoFb2 f => f.word 0xE4 0
  | .autoRd f nb => f.word 0xE5 nb.toNat
  | .autoWr f => f.word 0xE6 0
  | .autoSeed f => f.word 0xE7 0
  | .autoFence f => f.word 0xE7 1
  | .nodemk f => f.word 0xE8 0
  | .nodedel f => f.word 0xE9 0
  | .nodeq f => f.word 0xEA 0
  | .spawn f b o remote aj j => f.word 0xEB (j.toNat * 64 + aj.toNat * 8 + remote.toNat * 4 + o.toNat * 2 + b.toNat)
  | .jinit f => f.word 0xEC 0
  | .jwait f => f.word 0xED 0
  | .estw f tagHi => f.word 0xEF tagHi.toNat
  | .estq f n => f.word 0xF0 n.toNat
  | .estf f => f.word 0xF1 0
  | .ckmark f nb => f.word 0xF2 nb.toNat
  | .cksnap f nb => f.word 0xF3 nb.toNat
  | .ckroll f nb => f.word 0xF4 nb.toNat
  | .ckdrop f nb all unmark => f.word 0xF5 (unmark.toNat * 4 + all.toNat * 2 + nb.toNat)
  | .glaunch f nb => f.word 0xF6 nb.toNat
  | .gcond f => f.word 0xF7 0
  | .trap f => f.word 0xF8 0
  | .eret f => f.word 0xF9 0
  | .mfsr f hi => f.word 0xFA hi.toNat
  | .mtsr f hi => f.word 0xFB hi.toNat
  | .pmap f => f.word 0xFC 0
  | .tlbinv f k => f.word 0xFD k.code
  | .qend f => f.word 0xFE 0
  | .unassignedEncoding w => w.toNat
  | _ => 0

/-- The word of an instruction (R82). -/
def encode (i : Instr) : W64 := BitVec.ofNat 64 i.wordNat

/-! ## Parsing -/

/-- OPC of a full word (R85). -/
def opcOf (n : Nat) : Nat := n / 2^55 % 256

/-- The rounding, flush and type fields of SUB (R209). -/
def parseFMode (n : Nat) : Option FMode :=
  match Rm.ofCode (n / 4 % 8), FTy.ofCode (n % 4) with
  | some rm, some ty => some ⟨n.testBit 5, rm, ty⟩
  | _, _ => none

/-- The type field of an I form (R199). -/
def ityI (n : Nat) : ITy := if n.testBit 0 then .n32 else .s32

/-- Control and group words, 0x00 to 0x16. -/
def parseControl (n : Nat) : Option Instr :=
  match opcOf n with
  | 0x00 => some .nop
  | 0x01 => some (.bra (.ofNat n))
  | 0x02 => some (.braC (.ofNat n))
  | 0x03 => some (.brx (.ofNat n))
  | 0x04 => some (.call (.ofNat n))
  | 0x05 => some (.callx (.ofNat n))
  | 0x06 => some (.ret (.ofNat n))
  | 0x07 => some (.rjoin (.ofNat n))
  | 0x08 => some (.exit (.ofNat n))
  | 0x09 => some (.loop (.ofNat n) (n.testBit 0))
  | 0x0A => some (.lbrk (.ofNat n))
  | 0x0B => some (.yield (.ofNat n))
  | 0x0C => some (.getem (.ofNat n) (n.testBit 0))
  | 0x0D => (SetemKind.ofCode (n % 4)).map (.setem (.ofNat n))
  | 0x0E => (VoteKind.ofCode (n % 16)).map (.vote (.ofNat n))
  | 0x0F => some (.getid (.ofNat n) (BitVec.ofNat 4 n) (n.testBit 4))
  | 0x10 => some (.setstage (.ofNat n) (n.testBit 0))
  | 0x11 => some (.bar (.ofNat n))
  | 0x12 => some (.bara (.ofNat n))
  | 0x13 => some (.barw (.ofNat n))
  | 0x14 => some (.rbtake (.ofNat n))
  | 0x15 => some (.rbgive (.ofNat n))
  | 0x16 => (RbqSel.ofCode (n % 4)).map (.rbq (.ofNat n))
  | _ => none

/-- SCMP and ICMP, I form (R194, R207). -/
def cmpI (n : Nat) : OpCmp :=
  .i (.ofNat n) (BitVec.ofNat 8 (n / 2^43)) (BitVec.ofNat 8 (n / 2^35)) (BitVec.ofNat 28 (n / 2^3)) (n.testBit 2)

/-- Scalar words, 0x20 to 0x36. -/
def parseScalar (n : Nat) : Option Instr :=
  match opcOf n with
  | 0x20 => (SmovKind.ofCode (n % 4)).map (.smov (.ofNat n))
  | 0x21 => some (.smovi (.ofNat n))
  | 0x22 => some (.sadd (.a (.ofNat n)))
  | 0x23 => some (.ssub (.ofNat n))
  | 0x24 => some (.smul (.ofNat n))
  | 0x25 => some (.sand (.a (.ofNat n)))
  | 0x26 => some (.sor (.a (.ofNat n)))
  | 0x27 => some (.sxor (.a (.ofNat n)))
  | 0x28 => some (.sshl (.a (.ofNat n)))
  | 0x29 => some (.sshr (.a (.ofNat n)) (n.testBit 0))
  | 0x2A => (Cc.ofCode (n % 16)).map (.scmp (.a (.ofNat n)))
  | 0x2B => some (.ssel (.ofNat n))
  | 0x2C => some (.sld (.ofNat n) (n.testBit 0))
  | 0x2D => some (.sbr (.ofNat n) (n.testBit 0))
  | 0x2E => some (.abind (.ofNat n))
  | 0x2F => some (.aq (.ofNat n) (BitVec.ofNat 2 n))
  | 0x30 => some (.sadd (.i (.ofNat n)))
  | 0x31 => some (.sand (.i (.ofNat n)))
  | 0x32 => some (.sor (.i (.ofNat n)))
  | 0x33 => some (.sxor (.i (.ofNat n)))
  | 0x34 => some (.sshl (.i (.ofNat n)))
  | 0x35 => some (.sshr (.i (.ofNat n)) (n.testBit 0))
  | 0x36 => (Cc.ofCode (n / 2^31 % 16)).map (.scmp (cmpI n))
  | _ => none

/-- Vector integer and predicate words, 0x40 to 0x6C. -/
def parseVector (n : Nat) : Option Instr :=
  match opcOf n with
  | 0x40 => some (.mov (.ofNat n) (n.testBit 0))
  | 0x41 => (MoviTy.ofCode (n % 4)).map (.movi (.ofNat n))
  | 0x42 => some (.sel (.ofNat n))
  | 0x43 => (ITy.ofCode (n % 8)).map (fun t => .iadd (.a (.ofNat n)) t (n.testBit 3))
  | 0x44 => some (.iadd (.i (.ofNat n)) (ityI n) (n.testBit 1))
  | 0x45 => (ITy.ofCode (n % 8)).map (.iadd3 (.ofNat n))
  | 0x46 => (ITy.ofCode (n % 8)).map (fun t => .isub (.ofNat n) t (n.testBit 3))
  | 0x47 =>
    match ITy.ofCode (n % 8), MulPart.ofCode (n / 16 % 4) with
    | some t, some p => some (.imul (.a (.ofNat n)) t (n.testBit 3) p)
    | _, _ => none
  | 0x48 => some (.imul (.i (.ofNat n)) (ityI n) (n.testBit 1) .lo)
  | 0x49 => (ITy.ofCode (n % 8)).map (fun t => .imad (.ofNat n) t (n.testBit 3) (n.testBit 5))
  | 0x4A => (ITy.ofCode (n % 8)).map (.idiv (.ofNat n))
  | 0x4B => (ITy.ofCode (n % 8)).map (.irem (.ofNat n))
  | 0x4C => (ITy.ofCode (n % 8)).map (.imin (.ofNat n))
  | 0x4D => (ITy.ofCode (n % 8)).map (.imax (.ofNat n))
  | 0x4E => (ITy.ofCode (n % 8)).map (fun t => .iabs (.ofNat n) t (n.testBit 3))
  | 0x4F => (ITy.ofCode (n % 8)).map (.isad (.ofNat n))
  | 0x50 => some (.and (.a (.ofNat n)) (n.testBit 0))
  | 0x51 => some (.and (.i (.ofNat n)) false)
  | 0x52 => some (.or (.a (.ofNat n)) (n.testBit 0))
  | 0x53 => some (.or (.i (.ofNat n)) false)
  | 0x54 => some (.xor (.a (.ofNat n)) (n.testBit 0))
  | 0x55 => some (.xor (.i (.ofNat n)) false)
  | 0x56 => some (.andn (.ofNat n) (n.testBit 0))
  | 0x57 => some (.shl (.a (.ofNat n)))
  | 0x58 => some (.shl (.i (.ofNat n)))
  | 0x59 => some (.shr (.a (.ofNat n)))
  | 0x5A => some (.shr (.i (.ofNat n)))
  | 0x5B => some (.sar (.a (.ofNat n)))
  | 0x5C => some (.sar (.i (.ofNat n)))
  | 0x5D => some (.rot (.a (.ofNat n)))
  | 0x5E => some (.rot (.i (.ofNat n)))
  | 0x5F => some (.popc (.ofNat n))
  | 0x60 => some (.clz (.ofNat n))
  | 0x61 => some (.brev (.ofNat n))
  | 0x62 => some (.bfx (.ofNat n) (n.testBit 0))
  | 0x63 => some (.bfi (.ofNat n))
  | 0x64 => (Cc.ofCode (n % 16)).map (fun cc => .icmp (.a (.ofNat n)) cc (n.testBit 4))
  | 0x65 => (Cc.ofCode (n / 2^31 % 16)).map (fun cc => .icmp (cmpI n) cc false)
  | 0x68 => some (.pand (.ofNat n) (n.testBit 0) (n.testBit 1))
  | 0x69 => some (.por (.ofNat n) (n.testBit 0) (n.testBit 1))
  | 0x6A => some (.pxor (.ofNat n) (n.testBit 0) (n.testBit 1))
  | 0x6B => some (.pnot (.ofNat n))
  | 0x6C => (PmovKind.ofCode (n % 4)).map (.pmov (.ofNat n))
  | _ => none

/-- The word of CVT (R217). -/
def parseCvt (n : Nat) : Option Instr :=
  match NTy.ofCode (n / 2^31 % 16), NTy.ofCode (n / 2^27 % 16), Rm.ofCode (n % 8) with
  | some dst, some src, some rm =>
    some (.cvt (.ofNat n) (BitVec.ofNat 8 (n / 2^43)) (BitVec.ofNat 8 (n / 2^35)) (n.testBit 13) (BitVec.ofNat 2 (n / 2^11))
      (n.testBit 10) ⟨dst, src, BitVec.ofNat 3 (n / 2^23), BitVec.ofNat 3 (n / 2^19), n.testBit 4, n.testBit 3, rm⟩)
  | _, _, _ => none

/-- Float, conversion, cross-lane and quantisation words, 0x80 to 0xA7. -/
def parseFloat (n : Nat) : Option Instr :=
  match opcOf n with
  | 0x80 => (parseFMode n).map (.fadd (.a (.ofNat n)))
  | 0x81 => (parseFMode n).map (.fsub (.ofNat n))
  | 0x82 => (parseFMode n).map (.fmul (.a (.ofNat n)))
  | 0x83 => (parseFMode n).map (.ffma (.ofNat n))
  | 0x84 => (FTy.ofCode (n % 4)).map (.fmin (.ofNat n) (n.testBit 5))
  | 0x85 => (FTy.ofCode (n % 4)).map (.fmax (.ofNat n) (n.testBit 5))
  | 0x86 =>
    match Fcc.ofCode (n % 16), FTy.ofCode (n / 16 % 4) with
    | some cc, some ty => some (.fcmp (.ofNat n) cc ty (n.testBit 6))
    | _, _ => none
  | 0x87 => (FTy.ofCode (n % 4)).map (fun ty => .fclass (.ofNat n) ty (n.testBit 2))
  | 0x88 => (parseFMode n).map (.frnd (.ofNat n))
  | 0x89 => (Rm.ofCode (n / 4 % 8)).map (.fdiv (.ofNat n) (n.testBit 5))
  | 0x8A => (Rm.ofCode (n / 4 % 8)).map (.fsqrt (.ofNat n) (n.testBit 5))
  | 0x8B => some (.fadd (.i (.ofNat n)) ⟨n.testBit 0, .rn, .f32⟩)
  | 0x8C => some (.fmul (.i (.ofNat n)) ⟨n.testBit 0, .rn, .f32⟩)
  | 0x90 => some (.frcp (.ofNat n))
  | 0x91 => some (.frsq (.ofNat n))
  | 0x92 => some (.fsin (.ofNat n))
  | 0x93 => some (.fcos (.ofNat n))
  | 0x94 => some (.fexp2 (.ofNat n))
  | 0x95 => some (.flog2 (.ofNat n))
  | 0x96 => some (.ftanh (.ofNat n))
  | 0x98 => parseCvt n
  | 0x99 =>
    match NTy.ofCode (n / 16 % 16), Rm.ofCode (n % 8) with
    | some t, some rm => some (.pack (.ofNat n) t (n.testBit 3) rm)
    | _, _ => none
  | 0x9A => (NTy.ofCode (n / 16 % 16)).map (fun t => .unpack (.ofNat n) t (n.testBit 3))
  | 0x9B => some (.bpsplit (.ofNat n) (BitVec.ofNat 3 n))
  | 0x9C => some (.bpjoin (.ofNat n) (BitVec.ofNat 3 n) (BitVec.ofNat 3 (n / 8)))
  | 0x9D => some (.tagset (.ofNat n) (BitVec.ofNat 4 n))
  | 0x9E => some (.tagget (.ofNat n))
  | 0xA0 => (ShflRule.ofCode (n % 4)).map (fun r => .shfl (.a (.ofNat n)) r (n.testBit 3) (n.testBit 2))
  | 0xA1 => (ShflRule.ofCode (n % 4)).map (fun r =>
      .shfl (.i (.ofNat n) (BitVec.ofNat 8 (n / 2^43)) (BitVec.ofNat 8 (n / 2^35)) (BitVec.ofNat 5 (n / 2^3)) (n.testBit 2)) r
        (n.testBit 8) (n.testBit 9))
  | 0xA2 =>
    match RedOp.ofCode (n % 8), RedTy.ofCode (n / 8 % 4), Rm.ofCode (n / 32 % 4) with
    | some op, some ty, some rm => some (.redg (.ofNat n) op ty rm)
    | _, _, _ => none
  | 0xA3 =>
    match RedOp.ofCode (n % 8), RedTy.ofCode (n / 8 % 4), Rm.ofCode (n / 32 % 4) with
    | some op, some ty, some rm => some (.scang (.ofNat n) (n.testBit 7) op ty rm)
    | _, _, _ => none
  | 0xA4 => (RngKind.ofCode (n % 4)).map (.rng (.ofNat n))
  | 0xA5 => some (.rqscale (.ofNat n) (n.testBit 0))
  | 0xA6 => some (.rquant (.ofNat n))
  | 0xA7 => some (.rdeq (.ofNat n))
  | _ => none

/-- Memory, tile and copy words, 0xB0 to 0xC3. -/
def parseMemory (n : Nat) : Option Instr :=
  match opcOf n with
  | 0xB0 => some (.ld (.ofNat n) (if n % 32 = 15 then .pred else .reg (n.testBit 4) (BitVec.ofNat 4 n)))
  | 0xB1 => some (.st (.ofNat n) (if n % 32 = 15 then .pred else .reg (n.testBit 4)))
  | 0xB2 => some (.talloc (.ofNat n) (n.testBit 0))
  | 0xB3 => some (.tfree (.ofNat n))
  | 0xB4 => some (.tq (.ofNat n) (BitVec.ofNat 3 n))
  | 0xB5 => some (.tld (.ofNat n) (BitVec.ofNat 3 n) (n.testBit 3))
  | 0xB6 => some (.tst (.ofNat n) (BitVec.ofNat 3 n))
  | 0xB7 => (AtomOp.ofCode (n % 8)).map (fun op => .atom (.ofNat n) op (n.testBit 3) (n.testBit 4))
  | 0xB8 => some (.cas (.ofNat n))
  | 0xB9 => some (.ll (.ofNat n) (BitVec.ofNat 4 n))
  | 0xBA => some (.sc (.ofNat n) (BitVec.ofNat 3 n))
  | 0xBB => some (.fence (.ofNat n) (n.testBit 0))
  | 0xBC => (CpyMode.ofCode (n % 4)).map (fun m => .cpy (.ofNat n) m (n.testBit 2))
  | 0xBD => some (.cpyg (.ofNat n) (BitVec.ofNat 3 (n / 16)) (n.testBit 2))
  | 0xBE => some (.cpys (.ofNat n) (BitVec.ofNat 3 (n / 16)) (n.testBit 2))
  | 0xBF => some (.cbinit (.ofNat n))
  | 0xC0 => some (.cbarr (.ofNat n))
  | 0xC1 => some (.cbwait (.ofNat n))
  | 0xC2 => some (.cbtest (.ofNat n))
  | 0xC3 =>
    match CollKind.ofCode (n % 8), CollOp.ofCode (n / 8 % 8) with
    | some k, some op => some (.coll (.ofNat n) k op)
    | _, _ => none
  | _ => none

/-- Matrix, scan and Burl words, 0xD0 to 0xE7. -/
def parseLathe (n : Nat) : Option Instr :=
  match opcOf n with
  | 0xD0 => some (.mloadb (.ofNat n))
  | 0xD1 => some (.mswap (.ofNat n))
  | 0xD2 => some (.mma (.ofNat n) (BitVec.ofNat 2 (n / 2)) (n.testBit 0))
  | 0xD3 => (Rm.ofCode (n / 16 % 8)).map (fun rm => .scanl (.ofNat n) rm (n.testBit 3) (BitVec.ofNat 3 n))
  | 0xD4 => (Rm.ofCode (n / 16 % 8)).map (fun rm => .scanp (.ofNat n) rm (n.testBit 3) (BitVec.ofNat 3 n))
  | 0xE0 => some (.autoCfg (.ofNat n))
  | 0xE1 => some (.autoLdx (.ofNat n))
  | 0xE2 => some (.autoInf (.ofNat n) (n.testBit 1) (n.testBit 0))
  | 0xE3 => some (.autoFb1 (.ofNat n))
  | 0xE4 => some (.autoFb2 (.ofNat n))
  | 0xE5 => some (.autoRd (.ofNat n) (n.testBit 0))
  | 0xE6 => some (.autoWr (.ofNat n))
  | 0xE7 => if n.testBit 0 then some (.autoFence (.ofNat n)) else some (.autoSeed (.ofNat n))
  | _ => none

/-- Spawn, estate, checkpoint, graph and system words, 0xE8 to 0xFE. -/
def parseSystem (n : Nat) : Option Instr :=
  match opcOf n with
  | 0xE8 => some (.nodemk (.ofNat n))
  | 0xE9 => some (.nodedel (.ofNat n))
  | 0xEA => some (.nodeq (.ofNat n))
  | 0xEB => some (.spawn (.ofNat n) (n.testBit 0) (n.testBit 1) (n.testBit 2) (BitVec.ofNat 3 (n / 8)) (n.testBit 6))
  | 0xEC => some (.jinit (.ofNat n))
  | 0xED => some (.jwait (.ofNat n))
  | 0xEE => some (.exitJ (.ofNat n))
  | 0xEF => some (.estw (.ofNat n) (BitVec.ofNat 4 n))
  | 0xF0 => some (.estq (.ofNat n) (BitVec.ofNat 3 n))
  | 0xF1 => some (.estf (.ofNat n))
  | 0xF2 => some (.ckmark (.ofNat n) (n.testBit 0))
  | 0xF3 => some (.cksnap (.ofNat n) (n.testBit 0))
  | 0xF4 => some (.ckroll (.ofNat n) (n.testBit 0))
  | 0xF5 => some (.ckdrop (.ofNat n) (n.testBit 0) (n.testBit 1) (n.testBit 2))
  | 0xF6 => some (.glaunch (.ofNat n) (n.testBit 0))
  | 0xF7 => some (.gcond (.ofNat n))
  | 0xF8 => some (.trap (.ofNat n))
  | 0xF9 => some (.eret (.ofNat n))
  | 0xFA => some (.mfsr (.ofNat n) (n.testBit 0))
  | 0xFB => some (.mtsr (.ofNat n) (n.testBit 0))
  | 0xFC => some (.pmap (.ofNat n))
  | 0xFD => (TlbKind.ofCode (n % 4)).map (.tlbinv (.ofNat n))
  | 0xFE => some (.qend (.ofNat n))
  | _ => none

/-- The OPCs that the tables of R106 assign. -/
def opcAssigned (k : Nat) : Bool :=
  decide (k ≤ 0x16) || (decide (0x20 ≤ k) && decide (k ≤ 0x36)) || (decide (0x40 ≤ k) && decide (k ≤ 0x65)) ||
    (decide (0x68 ≤ k) && decide (k ≤ 0x6C)) || (decide (0x80 ≤ k) && decide (k ≤ 0x8C)) ||
    (decide (0x90 ≤ k) && decide (k ≤ 0x96)) || (decide (0x98 ≤ k) && decide (k ≤ 0x9E)) ||
    (decide (0xA0 ≤ k) && decide (k ≤ 0xA7)) || (decide (0xB0 ≤ k) && decide (k ≤ 0xC3)) ||
    (decide (0xD0 ≤ k) && decide (k ≤ 0xD4)) || (decide (0xE0 ≤ k) && decide (k ≤ 0xFE))

/-- Step 2 of R108: the OPC is assigned, or both op6 codes are (R106, R109). -/
def assigned (n : Nat) : Bool :=
  if n.testBit 63 then (Op6.ofCode (n / 2^56 % 64)).isSome && (Op6.ofCode (n / 2^25 % 64)).isSome
  else opcAssigned (opcOf n)

/-- The term that a word's fields spell, before the checks. -/
def parse (n : Nat) : Option Instr :=
  if n.testBit 63 then
    match Half.parse (n / 2^31 % 2^31), Half.parse (n % 2^31) with
    | some h0, some h1 => some (.dualWord (n.testBit 62) h0 h1)
    | _, _ => none
  else if opcOf n < 0x20 then parseControl n
  else if opcOf n < 0x40 then parseScalar n
  else if opcOf n < 0x80 then parseVector n
  else if opcOf n < 0xB0 then parseFloat n
  else if opcOf n < 0xD0 then parseMemory n
  else if opcOf n < 0xE8 then parseLathe n
  else parseSystem n

/-- Why a word names no instruction (steps 3 and 4 of R108; step 2 gives the row UNASSIGNED_ENCODING). -/
inductive DecodeError where
  | illegalField
  | illegalPair
  deriving DecidableEq, Repr

/-- The pairing rules hold of every word but a dual word that breaks R104. -/
def Instr.pairs : Instr → Bool
  | .dualWord _ h0 h1 => pairingOk h0 h1
  | _ => true

/-- Steps 2 to 4 of R108, and step 6, which depends on the word alone. -/
def decode (w : W64) : Except DecodeError Instr :=
  if !assigned w.toNat then .ok (.unassignedEncoding w)
  else match parse w.toNat with
    | none => .error .illegalField
    | some i =>
      if i.wf && encode i == w then (if i.pairs then .ok i else .error .illegalPair)
      else .error .illegalField

/-- A word from its 8 bytes in memory order (R82). -/
def wordOfBytes (bs : List Byte) : W64 :=
  BitVec.ofNat 64 (bs.foldr (fun b acc => b.toNat + 256 * acc) 0)

/-- The 8 bytes of a word, lowest address first (R82). -/
def bytesOfWord (w : W64) : List Byte :=
  (List.range 8).map (fun k => BitVec.ofNat 8 (w.toNat / 256^k))

/-- Decode the first 8 bytes of a list and give the rest; none: fewer than 8 bytes. -/
def decodeBytes (bs : List Byte) : Option (Except DecodeError Instr × List Byte) :=
  if bs.length < 8 then none else some (decode (wordOfBytes (bs.take 8)), bs.drop 8)

/-- The instruction that the decoder reads from the table word `w` of `nbits` bits: the bits above `nbits` are 0. -/
def decodeTableWord (nbits w : Nat) : Option Instr :=
  match decodeBytes (bytesOfWord (BitVec.ofNat 64 (w % 2^(min nbits 64)))) with
  | some (.ok i, _) => some i
  | _ => none

end Sys2Proof
end

