-- ==== Sys2Proof/Config.lean ====
section
/-! DEFINITION. What is fixed for the machine and what the spec leaves open. An opaque constant has no body: no proof can see
its value, so a statement holds for every value of it. Each is named in the assumption log. -/

namespace Sys2Proof

/-- Free 32-bit words, one per number (log entry 10): s8 to s23 after BRA.C (R179), contents the spec leaves undefined. -/
opaque Config.freeWord : Nat → W32

/-- Free bits, one per number (log entry 10). -/
opaque Config.freeBit : Nat → Bool

/-- Free choices among alternatives (log entry 11): `Config.freePick n k` is some number; the model takes it modulo `k`. -/
opaque Config.freePick : Nat → Nat → Nat

/-- The hash of a node handle that chooses its home quad (R38, R344; log entry 11). -/
opaque Config.homeHash : W32 → Nat

/-- The hash of (tag, key) that chooses a directory slice (R328; log entry 11). -/
opaque Config.directoryHash : BitVec 16 → W64 → Nat

/-- The identifier of this module in a process-group table (R352; log entry 11). -/
opaque Config.moduleId : W32

/-- The first launch identifier of a partition (R23; log entry 6): identifiers count up from it. -/
opaque Config.firstLaunch : W32

/-- SHA-512, of which the model uses that it is a function of the bytes (R375, R413; log entry 81). -/
opaque Config.sha512 : List Byte → Digest

/-- The device identity key of the root of trust, endorsed at manufacture, and its ECDSA P-521 signature of a digest (R413; log entry
81). -/
opaque Config.identityKey : BitVec 528
opaque Config.ecdsaSign : BitVec 528 → Digest → BitVec 1056

/-- The key that firmware signatures are checked with, and the ECDSA P-521 check of a signature of a digest (R413; log entry 81). -/
opaque Config.firmwareKey : BitVec 1056
opaque Config.ecdsaVerify : BitVec 1056 → Digest → BitVec 1056 → Bool

/-- Logical quads of a die (R3): 10, four cores each. -/
def Config.quadsPerDie : Nat := 10
/-- Dies. -/
def Config.dies : Nat := 8
/-- Cores of a quad. -/
def Config.coresPerQuad : Nat := 4
/-- Memory blocks of 2 GiB (R395). -/
def Config.blocks : Nat := 384
/-- Bytes of a memory block (R395). -/
def Config.blockBytes : Nat := 2^31
/-- Requester ports (R395). -/
def Config.ports : Nat := 96
/-- Memory-side ports, one per channel group (R395). -/
def Config.memPorts : Nat := 64
/-- Virtual functions (R409). -/
def Config.vfs : Nat := 192
/-- Partitions (R396). -/
def Config.partitions : Nat := 40
/-- Granules of the core tile store and of the quad tile store (R243). -/
def Config.coreGranules : Nat := 128
def Config.quadGranules : Nat := 1024
/-- Entries of a block's reconvergence stack (R15, R168). -/
def Config.stackEntries : Nat := 32
/-- Cards a quad job scheduler holds (R248, R347). -/
def Config.cardQueue : Nat := 256
/-- Replay entries of a quad (R369). -/
def Config.replayEntries : Nat := 64
/-- Entries of the Lathe reservation table (R348). -/
def Config.latheTable : Nat := 32
/-- Records of a bin, of a Chuck, node slots of a Chuck (R344). -/
def Config.binRecords : Nat := 256
def Config.chuckRecords : Nat := 2048
def Config.nodeSlots : Nat := 256
/-- Node indices of the table (R285). -/
def Config.nodeIndices : Nat := 1048576
/-- Heartwood blocks of a core, and those of them that form the node reserve (R315, R345). -/
def Config.heartwoodBlocks : Nat := 2048
def Config.nodeReserve : Nat := 34
/-- Resident groups of a core (R45). -/
def Config.residentGroups : Nat := 64
/-- Sapwood of a core (R315): ordinary register blocks and slots, reserve blocks; one slot more is the reserve's. -/
def Config.sapwoodBlocks : Nat := 248
def Config.sapwoodSlots : Nat := 15
def Config.sapwoodReserve : Nat := 8
/-- Entries of an estate directory slice (R315). -/
def Config.directoryEntries : Nat := 16384
/-- Events kept while the event ring is full (R406). -/
def Config.keptEvents : Nat := 1024
/-- Instructions after which the fairness timer exchanges paths (R172). -/
def Config.fairness : Nat := 256
/-- Entries of a group's staging (R379). -/
def Config.stagingEntries : Nat := 256

end Sys2Proof
end

