-- ==== Sys2Proof/Machine/Sparse.lean ====
section
/-! DEFINITION. One canonical form for everything held by a number: a list of key and value pairs, keys strictly rising, no
pair equal to what an unlisted key reads as. Memory, registers, tiles and every table of the machine are lists of this form. -/

namespace Sys2Proof.Machine

/-- The value at key `k`; an unlisted key reads as `d`. -/
def Sparse.get {β : Type} (d : β) : List (Nat × β) → Nat → β
  | [], _ => d
  | (a, v) :: r, k => if a = k then v else Sparse.get d r k

/-- Write `v` at key `k`, keeping the canonical form: writing `d` removes the pair of the key. -/
def Sparse.set {β : Type} [DecidableEq β] (d : β) : List (Nat × β) → Nat → β → List (Nat × β)
  | [], k, v => if v = d then [] else [(k, v)]
  | (a, w) :: r, k, v =>
    if k = a then (if v = d then r.filter (fun x => x.1 != k) else (k, v) :: r)
    else if k < a && decide (v ≠ d) then (k, v) :: (a, w) :: r
    else (a, w) :: Sparse.set d r k v

/-- Keys rise strictly from above `lo`, and no value is `d`. -/
def Sparse.wfFrom {β : Type} [DecidableEq β] (d : β) : Option Nat → List (Nat × β) → Bool
  | _, [] => true
  | lo, (a, v) :: r => (match lo with | none => true | some b => decide (b < a)) && decide (v ≠ d) && Sparse.wfFrom d (some a) r

/-- The canonical form. -/
def Sparse.wf {β : Type} [DecidableEq β] (d : β) (m : List (Nat × β)) : Bool := Sparse.wfFrom d none m

/-- The record at key `k` of a table. -/
def Table.get? {β : Type} : List (Nat × β) → Nat → Option β
  | [], _ => none
  | (a, v) :: r, k => if a = k then some v else Table.get? r k

/-- Put a record at key `k` of a table. -/
def Table.put {β : Type} : List (Nat × β) → Nat → β → List (Nat × β)
  | [], k, v => [(k, v)]
  | (a, w) :: r, k, v =>
    if k < a then (k, v) :: (a, w) :: r
    else if k = a then (k, v) :: r
    else (a, w) :: Table.put r k v

/-- Remove the record at key `k`. -/
def Table.del {β : Type} (m : List (Nat × β)) (k : Nat) : List (Nat × β) := m.filter (fun x => x.1 != k)

/-- Change the record at key `k`, if there is one. -/
def Table.upd {β : Type} : List (Nat × β) → Nat → (β → β) → List (Nat × β)
  | [], _, _ => []
  | (a, w) :: r, k, f => if a = k then (a, f w) :: r else (a, w) :: Table.upd r k f

/-- Change every record. -/
def Table.mapAll {β : Type} (m : List (Nat × β)) (f : Nat → β → β) : List (Nat × β) :=
  m.map (fun x => (x.1, f x.1 x.2))

/-- Keys rise strictly. -/
def Table.wf {β : Type} : List (Nat × β) → Bool
  | [] => true
  | [_] => true
  | (a, _) :: (b, v) :: r => decide (a < b) && Table.wf ((b, v) :: r)

/-- The smallest number from `lo` on that no key of a table takes (tables are searched at most `fuel` deep). -/
def Table.fresh {β : Type} (m : List (Nat × β)) (lo : Nat) : Nat :=
  (m.foldl (fun acc x => max acc (x.1 + 1)) lo)

end Sys2Proof.Machine
end

