-- ==== Sys2Proof/Machine/State.lean ====
section
/-! DEFINITION. The state of the Felward: every piece of state the spec gives it, as plain data, and the machine after reset.
A table is a list of numbered records (Sparse.lean). Fields named "the model's own" are the interface of the step. -/

namespace Sys2Proof.Machine

/-! ## Lanes and groups -/

/-- One vector register in one lane: value and format tag (R18, R117). -/
structure Reg where
  val : W32
  tag : BitVec 4
  deriving DecidableEq, Repr

/-- What an unwritten register reads as: 0, RAW (R18). -/
def Reg.zero : Reg := ⟨0, 0⟩

/-- A will: tag, lifetime, first register, registers (R31, R297). -/
structure Will where
  tag : BitVec 16
  life : Nat
  first : Nat
  count : Nat
  deriving DecidableEq, Repr

/-- An inherited register whose fetch is in flight (R332). -/
structure Pending where
  reg : Nat
  val : Reg
  deriving DecidableEq, Repr

/-- The context of one lane (R18, R31, R39, R162, R299, R332, R389). It moves with the work-item. -/
structure Lane where
  /-- vector registers by number -/
  regs : List (Nat × Reg) := []
  /-- p0 to p7; p0 reads true whatever bit 0 holds (R19) -/
  preds : BitVec 8 := 1
  /-- random stream key and counter (R22) -/
  key : W64 := 0
  ctr : BitVec 48 := 0
  /-- %wid (R8 to R10) -/
  wid : W64 := 0
  will : Option Will := none
  /-- ESTQ records by heir entry (R299) -/
  estq : List (Nat × W32) := []
  /-- join counter address of the record that made the work-item, and whether it came by a remote SPAWN (R39, R296) -/
  join : Option W64 := none
  joinFab : Bool := false
  /-- reserved 16-byte granule of LL (R162) -/
  resv : Option Nat := none
  pend : List Pending := []
  /-- registers in uncorrectable error: number, and 5 in the Sapwood or 6 in the Heartwood (R332, R372) -/
  badRegs : List (Nat × Nat) := []
  /-- predicates in uncorrectable error (R372) -/
  badPreds : List Nat := []
  /-- records this work-item has committed in Solstice mode (R389) -/
  committed : Nat := 0
  deriving DecidableEq, Repr

/-- An address register: virtual base, translated frame, limit (R18, R43). The frame is the base's partition-physical address, a cached
translation (R356): with the bytes of its page (0: no page) and the page's permissions to read and to write. -/
structure AddrReg where
  base : W64 := 0
  frame : W64 := 0
  limit : W32 := 0
  page : Nat := 0
  canR : Bool := false
  canW : Bool := false
  deriving DecidableEq, Repr

/-- A loop counter with its hidden start and end (R18, R183). -/
structure Loop where
  live : Bool := false
  count : W32 := 0
  start : W64 := 0
  stop : W64 := 0
  deriving DecidableEq, Repr

/-- Kinds of the entries that a path can reconverge at (R168). The COMPACT entry is the block's compaction record. -/
inductive EntryKind where
  | br
  | call
  deriving DecidableEq, Repr

/-- An entry of the block reconvergence stack or of a handler segment (R168). `id` orders the pushes; `parent` is the entry that
was current at the push (log entry 19). -/
structure Entry where
  id : Nat
  parent : Option Nat
  kind : EntryKind
  owner : Nat
  rpc : W64
  full : Lanes
  wait : Lanes
  wen : Lanes
  defl : Lanes
  den : Lanes
  dpc : W64
  deriving DecidableEq, Repr

/-- One write of a result that has not landed (R95, R96). -/
inductive Landing where
  | vec (lane reg : Nat) (x : Reg)
  | pred (lane p : Nat) (b : Bool)
  | scalar (reg : Nat) (x : W32)
  deriving DecidableEq, Repr

/-- An open lookahead window: the PC and the path of its instruction, the words left, the result (R95). -/
structure Window where
  pc : W64
  path : Lanes
  left : Nat
  lands : List Landing
  /-- lanes whose data arrived with an uncorrectable error, the lowest one's address and structure (R97, R372) -/
  bad : Option (Lanes × W64 × Nat) := none
  /-- the result lands at a block quantum end: closing the window ends the group's quantum (R386) -/
  atEnd : Bool := false
  deriving DecidableEq, Repr

/-- What a WAITING group waits for (R45). -/
inductive Wait where
  /-- BAR (`bar` true) or BARW on a named barrier -/
  | named (n : Nat) (bar : Bool)
  | copy (n : Nat)
  | autoFence
  | rbtake (n : Nat)
  /-- JWAIT on the counter at `va`, addressed by address register `ar` -/
  | jwait (va : W64) (ar : Nat)
  /-- a SPAWN.b that lacks room, or a SPAWN of Solstice mode; `marks` the registers its last-read marks release (R290, R292) -/
  | spawn (marks : List Nat)
  | braC
  | rjoin
  /-- a vacant participant at the join (R178, R180) -/
  | vacant
  /-- the quantum end of its block (R306, R379) -/
  | quantum
  deriving DecidableEq, Repr

/-- The states of R45. A HALTED group keeps the second fault's PC in `Group.pc`. -/
inductive GroupState where
  | active
  | parked
  | waiting (w : Wait)
  | halted
  | saved (w : Option Wait)
  | retired
  deriving DecidableEq, Repr

/-- A group's view of a named barrier: its phase number P, arrival in the current phase, standing arrival (R190). -/
structure BarView where
  phase : Nat := 0
  arrived : Option Nat := none
  standing : Bool := false
  deriving DecidableEq, Repr

/-- What handler entry saves (R365). -/
structure Saved where
  path : Lanes
  em : Lanes
  pc : W64
  cur : Option Nat
  fair : Nat
  deriving DecidableEq, Repr

/-- Which rank of R364 a due cause has. -/
inductive DueKind where
  /-- a job's MCE_UNCORRECTABLE (R264) -/
  | mce
  /-- the MCE_UNCORRECTABLE of a result in error that has landed (R97) -/
  | landed
  /-- the same, landed as a handler was entered: it waits for the handler's end (log entry 85) -/
  | entered
  | watchdog
  | job
  | wrap
  deriving DecidableEq, Repr

/-- A cause that has fallen due (R97, R361, R364): its mask (none: PATH), ELPC, and the job of an ENGINE_XLATE (R370). -/
structure Due where
  kind : DueKind
  code : Nat
  eaddr : W64 := 0
  einfo : W64 := 0
  mask : Option Lanes := none
  elpc : W64 := 0
  job : Option Nat := none
  deriving DecidableEq, Repr

/-- One staged operation of Solstice mode (R381). -/
inductive Staged where
  /-- writes of bytes at physical addresses, in lane order -/
  | write (cells : List Host.Cell)
  /-- conditional writes of SC: lane, granule, bytes (none: it has failed); the predicate lands at commit -/
  | sc (pd : Nat) (lanes : List (Nat × Nat × List Host.Cell))
  /-- read-modify-writes: lane, address, operand words -/
  | rmw (op : AtomOp) (u nr : Bool) (size : Nat) (scope : Nat) (vr : Nat) (lanes : List (Nat × Nat × Nat))
  | cas (size : Nat) (scope : Nat) (vr : Nat) (lanes : List (Nat × Nat × Nat × Nat))
  /-- decrements of join counters by EXIT.J: lane, address; a counter at 0 stays (R296) -/
  | dec (lanes : List (Nat × Nat))
  /-- bytes of a tile: handle, offset and byte -/
  | tile (h : Nat) (cells : List Host.Cell)
  /-- records in lane order, with the predicate that reports acceptance (none: SPAWN.b, or the accepted records of a commit) -/
  | spawn (pd : Option Nat) (remote : Bool) (recs : List (Nat × Rec))
  /-- wills of lanes that left (R390) -/
  | wills (ws : List (W64 × Will × List (Nat × Reg)))
  /-- a job card that enters the scheduler at commit -/
  | card (job : Nat)
  deriving DecidableEq, Repr

/-- A group and everything of its context (R18, R45, R365). -/
structure Group where
  blk : Nat
  /-- %grp, the index in the block (R23) -/
  grp : Nat := 0
  role : Nat := 0
  stage : Nat := 0
  budget : Nat := 4
  st : GroupState := .active
  /-- the context lies in the Sapwood (R315, R318) -/
  sapwood : Bool := true
  /-- what it holds of the emergency reserve: register blocks, the slot (R315, R322) -/
  resBlocks : Nat := 0
  resSlot : Bool := false
  /-- since when it is in the Sapwood and ACTIVE, or waits there, by `State.ticks` (R350) -/
  since : Nat := 0
  /-- residency slot of its core (R407) -/
  slot : Nat := 0
  /-- birth order on its core (R321) -/
  age : Nat := 0
  supervisor : Bool := false
  /-- occupied mask (R11) -/
  occ : Lanes := 0
  path : Lanes := 0
  em : Lanes := 0
  pc : W64 := 0
  /-- current stack entry (R169) -/
  cur : Option Nat := none
  lanes : List Lane := []
  /-- s0 to s23 -/
  s : List (Nat × W32) := []
  /-- a0 to a7 -/
  a : List (Nat × AddrReg) := []
  /-- lc0 to lc3, and the live ones, innermost first -/
  lc : List (Nat × Loop) := []
  nest : List Nat := []
  fpstat : W32 := 0
  /-- system registers of R24 that belong to the group -/
  epc : W64 := 0
  ecause : W32 := 0
  eaddr : W64 := 0
  emaskf : W32 := 0
  /-- EMASKF at handler entry, which bounds MTSR (R366) -/
  emaskIn : W32 := 0
  einfo : W64 := 0
  elpc : W64 := 0
  qcount : Nat := 0
  /-- fairness count and switch count (R172) -/
  fair : Nat := 0
  switches : Nat := 0
  /-- handler lane set, saved context, handler segment (R365, R366) -/
  hset : Lanes := 0
  saved : Option Saved := none
  hseg : List Entry := []
  /-- the job whose ENGINE_XLATE this handler serves (R370) -/
  serving : Option Nat := none
  bars : List (Nat × BarView) := []
  windows : List Window := []
  /-- hold latch: entry, register and reads left (R99, R325); no read uses it -/
  latch : List (Nat × Nat × Nat) := []
  /-- scalar and address registers in uncorrectable error (R372) -/
  badScal : List Nat := []
  badAddr : List Nat := []
  due : List Due := []
  staged : List Staged := []
  /-- a YIELD holds issue until another group of the core has issued (R186) -/
  yielded : Bool := false
  /-- a context move or a path switch is due (R98) -/
  moveDue : Bool := false
  /-- reached the end of its quantum (R379) -/
  quantumDone : Bool := false
  /-- a cause has ended its wait past the end of its quantum (R387): the handler issues, up to its end or its next wait -/
  past : Bool := false
  deriving DecidableEq, Repr

/-! ## Blocks -/

/-- A tile (R44, R243): rows, bytes a row, level, tag, E2M1 flag, bytes by offset; its 16-byte codewords in uncorrectable error
(R371). -/
structure Tile where
  rows : Nat
  rowBytes : Nat
  quad : Bool
  tag : BitVec 4
  e2m1 : Bool
  data : List Host.Cell := []
  bad : List Nat := []
  deriving DecidableEq, Repr

/-- A copy barrier (R253, R254). -/
structure CopyBar where
  init : Bool := false
  phase : Nat := 0
  expect : Nat := 0
  landed : Nat := 0
  deriving DecidableEq, Repr

/-- A named barrier (R190): phase, arrivals, and the count that the first arrival fixed (0 the default, none: no arrival). -/
structure NamedBar where
  phase : Nat := 0
  arrivals : Nat := 0
  count : Option Nat := none
  deriving DecidableEq, Repr

/-- What a compaction keeps of one participant (R179). -/
structure PartSnap where
  gid : Nat
  s : List (Nat × W32)
  a : List (Nat × AddrReg)
  lc : List (Nat × Loop)
  nest : List Nat
  fpstat : W32
  deriving DecidableEq, Repr

/-- The COMPACT entry of a block (R177 to R181). -/
structure Compact where
  role : Nat
  pc : W64
  target : W64
  join : W64
  budget : Nat
  /-- arrivals of the meeting: group and the lanes whose guard held -/
  arrived : List (Nat × Lanes)
  /-- the meeting has completed -/
  done : Bool := false
  /-- the mixed group's entry is still reserved (R177) -/
  spare : Bool := true
  snaps : List PartSnap := []
  /-- present place of each moved work-item and its original place: ((group, lane), (group, lane)) -/
  places : List ((Nat × Nat) × (Nat × Nat)) := []
  /-- arrivals at the join -/
  joined : List Nat := []
  deriving DecidableEq, Repr

/-- A captured will or an estate (R31, R32, R327 to R329). -/
structure Estate where
  tag : BitVec 16
  wid : W64
  part : Nat
  vf : Nat
  stream : Nat
  estgen : W32
  life : Nat
  regs : List (Nat × Reg)
  core : Nat
  /-- order of willing (R329) -/
  order : Nat
  /-- the giving launch and block -/
  launch : Nat
  blk : Nat
  /-- linear index of the giving block (R390) -/
  index : Nat := 0
  /-- captured: not yet an estate (R327) -/
  captured : Bool
  claimed : Bool := false
  /-- an estate whose directory entry waits for a claimed estate to be consumed (R328) -/
  waits : Bool := false
  /-- the detached slice that holds it (R403) -/
  slice : Option Nat := none
  deriving DecidableEq, Repr

/-- One committed operation list of a block (R380 to R384): the quantum end, the memory effects, released or not. -/
structure Commit where
  quantum : Nat
  ops : List (Nat × Staged)
  released : Bool := false
  deriving DecidableEq, Repr

/-- What a job that has ended or parked tells a group of Solstice mode at the quantum end where the block sees it (R382): the job, its
issuer, the cause, and whether FPSTAT.WR rises (R276). -/
structure Later where
  job : Nat
  gid : Nat
  due : Option Due
  wr : Bool := false
  deriving DecidableEq, Repr

/-- A block (R15, R48). -/
structure Block where
  part : Nat
  core : Nat
  /-- the launch record, or none for a group born from a node -/
  launch : Option Nat
  node : Option Nat := none
  /-- %blk and %nblk (R23) -/
  x : Nat := 0
  y : Nat := 0
  z : Nat := 0
  nx : Nat := 1
  ny : Nat := 1
  nz : Nat := 1
  /-- linear index (R341) -/
  index : Nat := 0
  /-- %launch, %gen, ESTGEN, PARTID.VF (R23, R25, R26) -/
  launchId : W32 := 0
  gen : W32 := 0
  estgen : W32 := 0
  vf : Nat := 0
  seed : W64 := 0
  solstice : Bool := false
  quantum : Nat := 4096
  /-- tags of the kernel's will table (R81, R297) -/
  willTags : List (BitVec 16) := []
  /-- process-group table address (R352) -/
  pgt : Option W64 := none
  /-- Heartwood blocks reserved (R317) -/
  reserved : Nat := 0
  /-- a node-born group whose context home lies in the node reserve (R345) -/
  inReserve : Bool := false
  tiles : List (Nat × Tile) := []
  cbs : List (Nat × CopyBar) := []
  nbs : List (Nat × NamedBar) := []
  stack : List Entry := []
  pool : Nat := 0
  claims : List Nat := []
  compact : Option Compact := none
  bwdog : W32 := 0
  /-- Solstice mode: instructions that the watchdog has counted (R54, R391) -/
  wdog : Nat := 0
  /-- Solstice mode: `retiredCount` at the last quantum end, and the further quantum ends owed to releases and to jobs that have
  completed (R380) -/
  endCount : Nat := 0
  again : Nat := 0
  /-- retired: no group is left and no job is in flight -/
  gone : Bool := false
  /-- the detached slice of a recalled loan that holds it (R403) -/
  detached : Option Nat := none
  /-- Solstice: base memory of the view (a snapshot), commits, quantum ends held, instructions retired, ticket parent -/
  base : Option (List Host.Cell) := none
  commits : List Commit := []
  ends : Nat := 0
  retiredCount : Nat := 0
  /-- the launch at the root of its tree; its place in ticket order: the block index, then for each generation the quantum end
  and the record's place in that commit (R383); its ancestors, each with the counters that the records of its child named -/
  root : Option Nat := none
  ticket : List Nat := []
  ancestors : List (Nat × List W64) := []
  /-- released commits of descendants: the counters that the child's records named, and the operations (R385 item 3) -/
  inbox : List (List W64 × List (Nat × Staged)) := []
  /-- pool and claim queue as of the last quantum end (R193) -/
  poolSeen : Nat := 0
  claimsSeen : List Nat := []
  /-- copy barriers as of the last quantum end (R166, R255) -/
  cbsSeen : List (Nat × CopyBar) := []
  /-- copy barriers that the jobs committed at the last quantum end credit (R382) -/
  cbsBusy : List Nat := []
  /-- what its jobs tell it at the next quantum end (R382) -/
  later : List Later := []
  /-- what NODEQ reports for each handle as of the last quantum end: selectors 0 to 6 (R288) -/
  nodesSeen : List (Nat × List W32) := []
  deriving DecidableEq, Repr

/-! ## Launches, streams, graphs -/

/-- A role of a gang (R16, R81). -/
structure Role where
  entry : W64
  budget : Nat
  groups : Nat
  deriving DecidableEq, Repr

/-- A launch that a packet started, or that waits at its start barrier (R335 to R337, R351). -/
structure Launch where
  part : Nat
  /-- the stream, and the virtual function that owns the launch and PARTID shows (R25) -/
  vf : Nat
  stream : Nat
  owner : Nat
  /-- graph walker it belongs to -/
  walker : Option Nat := none
  launchId : W32
  seq : W32
  gen : W32
  solstice : Bool
  quantum : Nat
  affinity : Nat
  nx : Nat
  ny : Nat
  nz : Nat
  wsize : Nat
  roles : List Role
  gang : Bool
  /-- key function (R8) -/
  k0 : W64
  kx : W64
  ky : W64
  kz : W64
  kt : W64
  wills : List (BitVec 16 × Nat)
  heirs : List (BitVec 16)
  argBase : W64
  argSize : Nat
  seed : W64
  spillBase : W64
  spillSize : Nat
  spillNext : Nat := 0
  compl : W64
  pgt : Option W64
  /-- first block, one past the last, next to place (R341, R343) -/
  lo : Nat
  hi : Nat
  nextBlk : Nat
  /-- blocks not yet retired, among those placed -/
  live : Nat := 0
  overlap : Bool
  /-- blocks held for a preferred core: index, core, whether the affinity window is over (R331) -/
  held : List (Nat × Nat × Bool) := []
  /-- start barrier (R351): modules that must arrive, ranks that have, done -/
  nmod : Nat := 0
  arrivals : List Nat := []
  started : Bool := true
  finished : Bool := false
  made : Nat := 0
  inherited : Nat := 0
  spilled : Nat := 0
  discarded : Nat := 0
  terminated : Nat := 0
  /-- wills captured, staged or formed: block, tag, key (R36, R390) -/
  willed : List (Nat × BitVec 16 × W64) := []
  /-- estates that its work-items have claimed: tag and key (R34) -/
  took : List (BitVec 16 × W64) := []
  /-- Solstice: memory when the launch started (R385) -/
  base : Option (List Host.Cell) := none
  deriving DecidableEq, Repr

/-- A stream of a virtual function (R334, R26, R351). -/
structure Stream where
  base : W64 := 0
  size : Nat := 0
  tail : Nat := 0
  head : Nat := 0
  seq : W32 := 0
  lastGen : Option W32 := none
  /-- the launch that holds the stream, the most recent launch, a graph that holds it -/
  last : Option Nat := none
  walker : Option Nat := none
  /-- counts of spills and discards for the next launch (R336) -/
  owedSpilled : Nat := 0
  owedDiscarded : Nat := 0
  deriving DecidableEq, Repr

/-- A graph walker (R339). Graph streams are streams of virtual function 192 + die. -/
structure Walker where
  part : Nat
  vf : Nat
  stream : Nat
  owner : Nat
  desc : W64
  node : Nat
  counts : List (Nat × Nat) := []
  /-- start barrier of a replicated graph packet (R351): modules that must arrive, GEN, ranks that have, done -/
  nmod : Nat := 0
  gen : W32 := 0
  arrivals : List Nat := []
  started : Bool := true
  kernels : Nat := 0
  launches : List Nat := []
  /-- completion record of the packet that named the graph -/
  record : Option W64
  /-- the commit that carried the GLAUNCH card, by block and quantum end: the entry node waits for its release (R304, R384) -/
  after : Option (Nat × Nat) := none
  deriving DecidableEq, Repr

/-! ## Nodes -/

/-- Where a record of Solstice mode comes from (R383, R385, R388): the spawning block with its root and ancestors, the quantum end
that committed it, its place in ticket order, the block's retired instructions there, and the block's view at that quantum end. -/
structure Batch where
  blk : Nat
  k : Nat
  root : Option Nat
  ancestors : List (Nat × List W64)
  ticket : List Nat
  since : Nat
  view : List Host.Cell
  deriving DecidableEq, Repr

/-- A record held by a node, with its number among those accepted (R9, R39). -/
structure Held where
  r : Rec
  serial : W32
  batch : Option Batch := none
  /-- an event of its batch has come (R388): the number of the group in which it launches -/
  due : Option Nat := none
  /-- in the overflow region: system address, and the first of the free words that stand there (R286) -/
  place : Option (Nat × Nat) := none
  deriving DecidableEq, Repr

/-- A node (R38, R285). -/
structure Node where
  part : Nat
  /-- virtual function of the group that made it, which PARTID of its groups shows -/
  vf : Nat := 0
  gen : Nat
  live : Bool
  /-- the handle is current: reserved until the last record has launched (R287) -/
  launchId : W32
  entry : W64
  budget : Nat
  count : Nat
  ordered : Bool
  keyWord : Option Nat
  npay : Nat
  tags : List (BitVec 4)
  timer : Nat
  timeout : Nat
  ovfBase : W64
  ovfSize : Nat
  seed : W64
  argBase : W64
  argSize : Nat
  homeQuad : Nat
  /-- records accepted (the next serial) and sent to the dead-record area -/
  accepted : W32 := 0
  dead : W32 := 0
  bin : List Held := []
  /-- overflow records by segment, oldest first; a segment with its closed flag (R346) -/
  segments : List (Bool × List Held) := []
  timerOn : Bool := false
  /-- a launch is due that no core could take (R345) -/
  owed : Bool := false
  inSlot : Bool := false
  swapped : Bool := false
  /-- changes of `swapped` by records of Solstice mode, oldest first: the value before, and the block and quantum end of the commit,
  which NODEQ shows once the commit is released (R387) -/
  swaps : List (Bool × Nat × Nat) := []
  /-- order of the last record's arrival (R344) -/
  lastUse : Nat := 0
  /-- remote records that wait for room (R291) -/
  remote : List Rec := []
  deriving DecidableEq, Repr

/-! ## Quads, cores, jobs -/

/-- One element of a panel: the aligned significand or integer, and its class: 0 finite and nonzero, 1 finite, nonzero and
negative, 2 zero, 3 +infinity, 4 -infinity, 5 NaN (R132, R260). -/
structure PCell where
  q : Int
  cls : Nat
  deriving DecidableEq, Repr

/-- A panel in matrix mode (R259, R260): attributes, elements by column * K + k, EB by column * (K / 32) + block. The reset of `lm` and
`fmt` is the model's (log entry 114). -/
structure Panel where
  id : Nat := 0
  lm : Nat := 0
  fmt : Nat := 0
  cells : List (Nat × PCell) := []
  eb : List (Nat × Int) := []
  /-- columns with a cell in uncorrectable error (R264) -/
  bad : List Nat := []
  deriving DecidableEq, Repr

/-- The Lathe of a quad (R259). -/
structure Lathe where
  burl : Bool := false
  active : Panel := {}
  shadow : Panel := {}
  clauses : Nat := 0
  literals : Nat := 0
  classes : Nat := 0
  vote : Nat := 0
  init : Nat := 0
  tab1 : List W32 := [0, 0, 0, 0]
  tab2 : List W32 := [0, 0, 0, 0]
  /-- Burl cells: the value of an unlisted cell, and the cells that differ -/
  fill : Nat := 0
  ctrs : List (Nat × Nat) := []
  /-- 16-cell codewords in uncorrectable error (R264) -/
  bad : List Nat := []
  /-- input slots: bytes by slot * 4096 + byte, and the codewords of 16 bytes in uncorrectable error, by slot * 256 + codeword -/
  slots : List Host.Cell := []
  badSlots : List Nat := []
  seed : W64 := 0
  fbc : BitVec 48 := 0
  deriving DecidableEq, Repr

/-- A quad of the package, by %quad. -/
structure Quad where
  lathe : Lathe := {}
  /-- jobs that hold a replay entry, by entry number (R369) -/
  replay : List (Nat × Nat) := []
  /-- jobs in the Lathe reservation table, oldest first (R348) -/
  table : List Nat := []
  droopy : Bool := false
  /-- partition last served (R404) -/
  served : Option Nat := none
  deriving DecidableEq, Repr

/-- A core, by %core (R342). -/
structure Core where
  hot : Bool := false
  threshold : Nat := 95
  /-- the highest reading of its sensor over the last 50 us, in degrees Celsius -/
  temp : Nat := 0
  /-- next age of a group born on it (R321) -/
  nextAge : Nat := 0
  deriving DecidableEq, Repr

/-- Lathe regions (R263). -/
inductive LatheReg where
  | active
  | shadow
  | config
  | stream
  | cells
  deriving DecidableEq, Repr

/-- A region that a card declares (R157, R158, R263, R303). -/
inductive Region where
  /-- virtual addresses lo to hi - 1 of the partition -/
  | mem (lo hi : Nat)
  /-- rows lo to hi - 1 of a tile of a block -/
  | tile (blk h lo hi : Nat)
  | lathe (r : LatheReg)
  /-- the marked region of a checkpoint slot of the partition -/
  | mark (slot : Nat)
  deriving DecidableEq, Repr

/-- What a job does, with the operands its card gave it. -/
inductive JobKind where
  | cpy (mode : CpyMode) (h hs row0 rows srow0 : Nat) (addr pitch rowBytes : Nat)
  | gather (scatter : Bool) (h row0 e rowBytes : Nat) (lanes : List (Nat × Nat))
  | coll (kind : CollKind) (op : CollOp) (comm n : Nat) (src dst : Nat)
  | mloadb (h id lm fmt : Nat) (scb : Bool) (j0 cnt row0 : Nat)
  | mswap (id : Nat)
  | mma (ha hc id lm kind fmt kp : Nat) (bop sca acc : Bool) (rows arow0 wn wj crow0 pri : Nat)
  | autoCfg (addr : Nat)
  | autoSeed (seed : W64) (fbc : W32)
  | autoLdx (h row0 cnt s0 : Nat)
  | autoInf (train : Bool) (h s0 cnt row0 : Nat)
  | autoFb (second : Bool) (pc pol slot cnt c0 : Nat)
  | autoRd (h c0 cnt row0 l0 : Nat)
  | autoWr (h c0 cnt row0 l0 : Nat)
  | ckmark (addr granules slot : Nat)
  | cksnap (slot snap : Nat)
  | ckroll (slot snap : Nat)
  | ckdrop (slot snap : Nat) (all unmark : Bool)
  | glaunch (addr : Nat)
  deriving DecidableEq, Repr

/-- Where a job stands (R347, R369, R381). A completed job leaves the table. -/
inductive JobState where
  /-- its card is staged, not yet committed -/
  | staged
  /-- a follow-on command whose copy has not completed (R251) -/
  | following
  | queued
  | running
  /-- parked on a translation fault with its replay entry, or waiting for a free one -/
  | parked (entry : Option Nat)
  /-- held by quiescence (R374) -/
  | held (entry : Option Nat)
  deriving DecidableEq, Repr

/-- A job (R157 to R161, R248, R369). -/
structure Job where
  kind : JobKind
  part : Nat
  quad : Nat
  gid : Nat
  blk : Nat
  /-- PC and stage of its card -/
  pc : W64
  stg : Option Nat
  scope : Nat
  /-- copy barrier and phase that it credits (R253) -/
  credit : Option (Nat × Nat)
  reads : List Region
  writes : List Region
  /-- jobs with an edge to this one (R158) -/
  preds : List Nat := []
  /-- feedback jobs: barriers and phases that the issuing group has arrived at since, groups that have waited for one (R281) -/
  arrivals : List (Nat × Nat) := []
  seenBy : List Nat := []
  /-- the copy whose follow-on it is (R251) -/
  after : Option Nat := none
  st : JobState := .queued
  /-- units landed, of `total` -/
  off : Nat := 0
  total : Nat := 0
  /-- fault address and whether it was a permission fault (R252) -/
  fault : Option (Nat × Bool) := none
  /-- COLL: the parameters have been exchanged; the result words (R256, R257) -/
  result : Option (List W32) := none
  /-- order of acceptance by its engine, for the Lathe's table (R348) and for feedback order -/
  order : Nat := 0
  /-- Solstice: the block's quantum end that committed it (R385) -/
  quantum : Option Nat := none
  deriving DecidableEq, Repr

/-! ## Partition and device -/

/-- A snapshot of a marked region: order of taking, the granules copied to the pool and their old bytes (R302). -/
structure Snap where
  order : Nat
  copied : List Nat
  old : List Host.Cell
  deriving DecidableEq, Repr

/-- A marked region: its 256-byte granules by physical address, and its snapshots by index (R302). -/
structure Marked where
  /-- virtual range that CKMARK named (R303) -/
  lo : Nat
  hi : Nat
  granules : List Nat
  snaps : List (Nat × Snap) := []
  deriving DecidableEq, Repr

/-- A cached translation (R356): the page's first virtual address, its bytes, its partition-physical address, its permissions. -/
structure Cached where
  va : Nat
  bytes : Nat
  pp : Nat
  r : Bool
  w : Bool
  x : Bool
  deriving DecidableEq, Repr

/-- Life of a partition (R374 to R376, R405). -/
inductive PartState where
  | running
  /-- issue has stopped (R374 steps 1 to 3) -/
  | quiescing
  | saved
  | suspended
  deriving DecidableEq, Repr

/-- A detached slice (R403): the quads it was saved from, in order, with their state. -/
structure Slice where
  id : Nat
  quads : List (Nat × Quad)
  deriving DecidableEq, Repr

/-- A partition: registers of R357 and R408, checkpoint slots, life (R302, R374). -/
structure Part where
  savebase : W64 := 0
  drbase : W64 := 0
  drsize : W64 := 0
  drnext : W64 := 0
  drlost : W64 := 0
  hostmem : Bool := true
  rank : Nat := 0
  bmin : Nat := 0
  qmin : Nat := 2
  hvec : W64 := 0
  wdogdef : W32 := 0
  nodemax : Nat := 16384
  troot : W64 := 0
  ftwbase : W64 := 0
  ftwsize : W64 := 0
  poolbase : W64 := 0
  poolsize : W64 := 0
  poolnext : W64 := 0
  tlbsd : Bool := false
  /-- the translations that its TLBs hold (R356) -/
  tlb : List Cached := []
  marks : List (Nat × Marked) := []
  /-- the digest of its last save, on the base die (R375) -/
  digest : Option Digest := none
  /-- granules that the checkpoint pool can hold (R302), set by the supervisor; 0 until then (log entry 116) -/
  ckpool : Nat := 0
  nextSnap : Nat := 0
  /-- tags and keys that the estate directory maps to "spilled" (R328) -/
  spilled : List (BitVec 16 × W64) := []
  st : PartState := .running
  /-- while it is SAVED: the quads it was saved from, in order, with their state (R50, R376) -/
  savedQuads : List (Nat × Quad) := []
  slices : List Slice := []
  /-- launch identifiers given so far, launches and nodes together (R23) -/
  nextLaunch : W32 := 0
  /-- marks are ignored until a core is eligible again (R342) -/
  override : Bool := false
  deriving DecidableEq, Repr

/-- TDISP states (R411). -/
inductive Tdisp where
  | unlocked
  | locked
  | run
  | error
  deriving DecidableEq, Repr

/-- A virtual function (R334, R402, R410, R411). -/
structure Vf where
  streams : List (Nat × Stream) := []
  bind : Nat := 0xFF
  tdisp : Tdisp := .unlocked
  capreq : W64 := 0
  capack : Bool := false
  deriving DecidableEq, Repr

/-- States of the layout journal (R398, R399). -/
inductive Journal where
  | done
  | prepared
  | flipped
  deriving DecidableEq, Repr

/-- Life-cycle states (R415). -/
inductive Life where
  | cold
  | thaw
  | full
  deriving DecidableEq, Repr

/-- A CAPMOVE in progress (R402). -/
structure CapMove where
  donor : Nat
  receiver : Nat
  n : Nat
  deriving DecidableEq, Repr

/-- A loan (R403): `slice` and `kept` are the lender's work that was saved from the quads, and their state (R404). -/
structure Loan where
  lender : Nat
  borrower : Nat
  quads : List Nat
  deadline : Nat
  slice : Nat
  kept : List (Nat × Quad) := []
  deriving DecidableEq, Repr

/-- One partition event (R406). -/
structure Event where
  code : Nat
  part : Nat
  vf : Nat := 0xFF
  core : Nat := 0xFFFF
  grp : Nat := 0
  slot : Nat := 0xFF
  launch : W32 := 0
  detail : W32 := 0
  epc1 : W64 := 0
  cause1 : Nat := 0
  epc2 : W64 := 0
  cause2 : Nat := 0
  eaddr : W64 := 0
  einfo : W64 := 0
  deriving DecidableEq, Repr

/-- The root of trust's answer to an SPDM request (R413): the digest of a measurement and its signature. -/
structure Answer where
  vf : Nat
  index : Nat
  digest : Digest
  sig : BitVec 1056
  deriving DecidableEq, Repr

/-- The device's own registers (R398 to R416). -/
structure Device where
  life : Life := .cold
  go : Bool := false
  trained : Bool := false
  /-- active and shadow layout (R398): rows of the matrix, owners, block map -/
  cm : List (Nat × W64) := []
  scm : List (Nat × W64) := []
  pown : List (Nat × Nat) := []
  spown : List (Nat × Nat) := []
  /-- block entries as index * 256 + owner -/
  bmap : List (Nat × Nat) := []
  sbmap : List (Nat × Nat) := []
  jseq : W32 := 0
  jerr : Nat := 0
  journal : Journal := .done
  lviol : W64 := 0
  /-- the supervisor holds a signed measurement of the active layout (R411, R413) -/
  attested : Bool := false
  capmove : Option CapMove := none
  capto : W64 := 1000
  capstat : Nat := 0
  loans : List Loan := []
  evbase : W64 := 0
  evsize : Nat := 0
  evtail : Nat := 0
  evhead : Nat := 0
  evlost : W64 := 0
  /-- events kept while the ring is full, oldest first -/
  kept : List Event := []
  pcmdstat : Nat := 0
  /-- failed-bank marks: array and bank (R371) -/
  failed : List (Sram × Nat) := []
  /-- the repair record (R416), the self-repair map that measurement 3 shows, and the logical quads that are absent -/
  repairs : List Repair := []
  remaps : List Repair := []
  absent : List Nat := []
  /-- the verified firmware: the root of trust's image, the management processor's (R413); the last SPDM answer -/
  firmware : Option (List Byte × List Byte) := none
  spdm : Option Answer := none
  /-- clocks of the islands in MHz (R2), and the port's rate and width (R409) -/
  clocks : List (Nat × Nat) := []
  linkRate : Nat := 128
  linkWidth : Nat := 16
  /-- retirements that wait for the journal (R401) -/
  retiring : List (Nat × Bool) := []
  deriving DecidableEq, Repr

/-! ## The state -/

/-- State that no instruction consumes and that an uncorrectable error takes (R373): the context header of a group, an estate by
its order of willing, a Chuck's record by node index and serial. -/
inductive Lost where
  | header (g : Nat)
  | estate (order : Nat)
  | record (n : Nat) (serial : W32)
  deriving DecidableEq, Repr

/-- Where an uncorrectable error of R372 strikes: codeword `k` of memory, in DRAM or in the L2; a register of a lane; a scalar or an
address register of a group, a predicate of a lane, in the Sapwood; codeword `k`
of a tile; a column of a panel, codeword `k` of the Burl cells or of the input slots, of a quad's Lathe. -/
inductive Struck where
  | memory (k : Nat) (l2 : Bool)
  | register (g l r : Nat)
  | scalar (g r : Nat)
  | address (g r : Nat)
  | pred (g l p : Nat)
  | tile (b h k : Nat)
  | column (q : Nat) (shadow : Bool) (j : Nat)
  | cells (q k : Nat)
  | slots (q k : Nat)
  deriving DecidableEq, Repr

/-- What software or another module tells the device by no instruction and by no row of the opcode table (the model's own). -/
inductive Order where
  /-- the supervisor gives the checkpoint pool of partition `p` room for `n` granules (R302) -/
  | ckpool (p n : Nat)
  /-- the supervisor sets the temperature threshold of core `c` (R342) -/
  | threshold (c t : Nat)
  /-- the highest reading of the sensor of core `c` over the last 50 us has become `t` (R342) -/
  | sensor (c t : Nat)
  /-- the host creates a node of the partition of VF `v` from the node descriptor at `a` (R38; log entry 93) -/
  | hostNode (v : Nat) (a : W64)
  /-- a replicated packet for stream `n` of VF `v` arrives over the Ramnar Link (R351) -/
  | replicated (v n : Nat) (bs : List Byte)
  deriving DecidableEq, Repr

/-- Which agent acts at the next step (the model's own). -/
inductive Turn where
  | group (g : Nat)
  | event (i : Instr)
  /-- an uncorrectable error strikes a codeword (R371) -/
  | upset (x : Struck)
  /-- an uncorrectable error takes state that no instruction consumes (R373) -/
  | lost (x : Lost)
  /-- what stands in `Order` -/
  | order (x : Order)
  deriving DecidableEq, Repr

/-- The state of the machine. -/
structure State where
  /-- memory by system address: device memory below 2^51, host memory from 2^51 on (R354) -/
  mem : List Host.Cell
  /-- 16-byte codewords of memory in uncorrectable error, by system address / 16, and whether in the L2 (R371, R372) -/
  badCw : List (Nat × Bool)
  groups : List (Nat × Group)
  blocks : List (Nat × Block)
  jobs : List (Nat × Job)
  launches : List (Nat × Launch)
  walkers : List (Nat × Walker)
  nodes : List (Nat × Node)
  /-- generation last given to each node index (R37) -/
  nodeGens : List (Nat × Nat)
  estates : List Estate
  /-- next order of willing (R329) -/
  nextWill : Nat
  /-- next push of a stack entry (R169) -/
  nextEntry : Nat
  /-- counts node arrivals and job dispatches, for "longest ago" and "first" (R344, R348) -/
  ticks : Nat
  quads : List (Nat × Quad)
  cores : List (Nat × Core)
  parts : List (Nat × Part)
  vfs : List (Nat × Vf)
  dev : Device
  /-- translation and protection faults that prefetches have suppressed, a performance counter (R19) -/
  prefetchFaults : Nat
  /-- the model's own: what acts next; with nothing listed, group `cur` issues -/
  agenda : List Turn
  /-- the model's own: the group that an instruction's meaning acts on -/
  cur : Nat
  /-- the model's own: free values taken so far -/
  free : Nat
  deriving DecidableEq, Repr

/-- The machine right after a device reset (R414, R415): COLD, every store wiped, no partition. -/
def State.reset : State :=
  { mem := [], badCw := [], groups := [], blocks := [], jobs := [], launches := [], walkers := [], nodes := [], nodeGens := [],
    estates := [], nextWill := 0, nextEntry := 0, ticks := 0, quads := [], cores := [], parts := [], vfs := [], dev := {},
    prefetchFaults := 0, agenda := [], cur := 0, free := 0 }

/-- Why the machine stops. No step of a machine whose `cur` names a group raises one, and no instruction's meaning does by itself. -/
inductive Fault where
  /-- An instruction's meaning was asked to act although no group is there for it to act on: raised when `exec` is called on an
  instruction with a word and the state's `cur` names no group. Safe: the hardware has no such situation. -/
  | noGroup
  deriving DecidableEq, Repr

/-- Why an instruction has no meaning. -/
inductive Refusal where
  /-- raised by `exec` for an instruction that is not modelled yet. Safe: nothing is claimed about it. -/
  | notModelled (mnemonic : String)
  deriving DecidableEq, Repr

end Sys2Proof.Machine
end

