-- ==== Sys2Proof/Machine/Operands.lean ====
section
/-! DEFINITION. Reading and writing a group's registers, and what each form names: its guard, its vector sources with the tags
they accept, its vector destination, whether it is scalar-pipe work, supervisor-only, group-wide (R12, R20, R87, R100, R108). -/

namespace Sys2Proof.Machine

/-! ## Lane sets -/

/-- Lanes of a set, ascending. -/
def lanesOf (m : Lanes) : List Nat := (List.range 32).filter (fun l => m.getLsbD l)

/-- The set of the lanes that `p` admits. -/
def maskOf (p : Nat → Bool) : Lanes :=
  BitVec.ofNat 32 ((List.range 32).foldr (fun l acc => if p l then acc + 2^l else acc) 0)

/-- The lowest lane of a set. -/
def lowest (m : Lanes) : Option Nat := (lanesOf m).head?

/-! ## Registers -/

/-- Format tags (R117). -/
def tagRAW : BitVec 4 := 0
def tagI32 : BitVec 4 := 1
def tagN32 : BitVec 4 := 2
def tagF32 : BitVec 4 := 3
def tagF16x2 : BitVec 4 := 4
def tagBF16x2 : BitVec 4 := 5
def tagE4M3x4 : BitVec 4 := 6
def tagE5M2x4 : BitVec 4 := 7
def tagI8x4 : BitVec 4 := 8
def tagN8x4 : BitVec 4 := 9
def tagI4x8 : BitVec 4 := 10
def tagBP8 : BitVec 4 := 11
def tagI64 : BitVec 4 := 13

/-- A vector register of a lane; v0 is 0, RAW (R19). -/
def Lane.reg (x : Lane) (r : Nat) : Reg := if r = 0 then Reg.zero else Sparse.get Reg.zero x.regs r

/-- Write a vector register of a lane: v0 discards; the write cancels a fetch of the register (R19, R332). -/
def Lane.setReg (x : Lane) (r : Nat) (v : Reg) : Lane :=
  if r = 0 then x
  else { x with regs := Sparse.set Reg.zero x.regs r v
                pend := x.pend.filter (fun p => p.reg != r)
                badRegs := x.badRegs.filter (·.1 != r) }

/-- Write consecutive registers. -/
def Lane.setRegs (x : Lane) (r : Nat) : List Reg → Lane
  | [] => x
  | v :: vs => (x.setReg r v).setRegs (r + 1) vs

/-- The 64-bit value of a pair, low word in the lower register (R114, R119). -/
def Lane.pair (x : Lane) (r : Nat) : W64 := (x.reg (r + 1)).val ++ (x.reg r).val

/-- A 64-bit result in a pair. -/
def pairRegs (v : W64) (tag : BitVec 4) : List Reg :=
  [⟨BitVec.ofNat 32 v.toNat, tag⟩, ⟨BitVec.ofNat 32 (v.toNat / 2^32), tag⟩]

/-- A predicate of a lane; p0 is true (R19). -/
def Lane.pred (x : Lane) (p : Nat) : Bool := p == 0 || x.preds.getLsbD p

/-- Write a predicate: p0 discards (R19); the write cures an error of the predicate (R372). -/
def Lane.setPred (x : Lane) (p : Nat) (b : Bool) : Lane :=
  if p = 0 then x
  else if b then { x with preds := x.preds ||| BitVec.ofNat 8 (2^p), badPreds := x.badPreds.filter (· != p) }
  else { x with preds := x.preds &&& ~~~(BitVec.ofNat 8 (2^p)), badPreds := x.badPreds.filter (· != p) }

/-- The context of a lane. -/
def Group.lane (g : Group) (l : Nat) : Lane := g.lanes.getD l {}

/-- Change the lanes of a set. -/
def Group.mapLanes (g : Group) (m : Lanes) (f : Nat → Lane → Lane) : Group :=
  { g with lanes := (List.range 32).map (fun l => if m.getLsbD l then f l (g.lane l) else g.lane l) }

/-- Write one register in the lanes of a set (R198). -/
def Group.writeV (g : Group) (m : Lanes) (d : Nat) (f : Nat → Lane → Reg) : Group :=
  g.mapLanes m (fun l x => x.setReg d (f l x))

/-- Write one predicate in the lanes of a set (R198). -/
def Group.writeP (g : Group) (m : Lanes) (p : Nat) (f : Nat → Lane → Bool) : Group :=
  g.mapLanes m (fun l x => x.setPred p (f l x))

/-- A scalar register (R18); a write cures an error of the register (R372). -/
def Group.sreg (g : Group) (n : Nat) : W32 := Sparse.get 0 g.s n
def Group.setS (g : Group) (n : Nat) (v : W32) : Group :=
  { g with s := Sparse.set 0 g.s n v, badScal := g.badScal.filter (· != n) }

/-- A 64-bit value of two scalar registers, high word in the upper (R196). -/
def Group.spair (g : Group) (n : Nat) : W64 := g.sreg (n + 1) ++ g.sreg n

/-- An address register (R18). -/
def Group.areg (g : Group) (n : Nat) : AddrReg := Sparse.get {} g.a n
def Group.setA (g : Group) (n : Nat) (v : AddrReg) : Group :=
  { g with a := Sparse.set {} g.a n v, badAddr := g.badAddr.filter (· != n) }

/-- A loop counter (R18). -/
def Group.loop (g : Group) (n : Nat) : Loop := Sparse.get {} g.lc n
def Group.setLoop (g : Group) (n : Nat) (v : Loop) : Group := { g with lc := Sparse.set {} g.lc n v }

/-- The lane set that a converged path fills: the occupied mask, in a handler the handler's lane set (R167, R366). -/
def Group.whole (g : Group) : Lanes := if g.supervisor then g.hset else g.occ

/-- Converged (R167). -/
def Group.converged (g : Group) : Bool := g.path == g.whole

/-- The active lanes under a guard (R12, R66). -/
def Group.active (g : Group) (gd : Guard) : Lanes :=
  maskOf (fun l => g.em.getLsbD l && ((g.lane l).pred gd.pg.toNat != gd.pn))

/-! ## What a form names -/

/-- A vector source: first register, registers, tags accepted beside RAW (none: any tag), last-read mark (R100, R118). -/
structure Src where
  reg : Nat
  n : Nat := 1
  tags : Option (List (BitVec 4)) := none
  mark : Bool := false
  deriving DecidableEq, Repr

/-- What an instruction names. -/
structure Use where
  guard : Guard := ⟨0, false⟩
  srcs : List Src := []
  /-- vector destination: first register and registers -/
  dst : List (Nat × Nat) := []
  /-- registers named for the budget check only -/
  also : List (Nat × Nat) := []
  /-- registers with a last-read mark that no check reads (a prefetch's index, R100) -/
  marks : List Nat := []
  /-- scalar-pipe work (step 8 of R108) -/
  scalar : Bool := false
  /-- supervisor-only (step 5 of R108) -/
  sup : Bool := false
  deriving DecidableEq, Repr

/-- Tags of 32-bit integer sources. -/
def ints : Option (List (BitVec 4)) := some [tagI32, tagN32]
def only (t : BitVec 4) : Option (List (BitVec 4)) := some [t]

/-- Registers an element of an integer type takes; tags; result tag (R199). -/
def ityRegs (t : ITy) : Nat := if t.pair then 2 else 1
def ityTags (t : ITy) : Option (List (BitVec 4)) :=
  match t with
  | .s32 | .n32 => ints
  | .s64 | .n64 => only tagI64
  | .s8x4 => only tagI8x4
  | .n8x4 => only tagN8x4
def ityTag (t : ITy) : BitVec 4 :=
  match t with
  | .s32 => tagI32 | .n32 => tagN32 | .s64 | .n64 => tagI64 | .s8x4 => tagI8x4 | .n8x4 => tagN8x4

/-- Tag of a float type (R209). -/
def ftyTag (t : FTy) : BitVec 4 :=
  match t with
  | .f32 => tagF32 | .f16x2 => tagF16x2 | .bf16x2 => tagBF16x2

/-- Tag written for a number type, and tags read (R218). -/
def ntyTag (t : NTy) : BitVec 4 :=
  match t with
  | .s32 => tagI32 | .n32 => tagN32 | .f32 => tagF32 | .f16 => tagF16x2 | .bf16 => tagBF16x2 | .e4m3 => tagE4M3x4
  | .e5m2 => tagE5M2x4 | .s8 => tagI8x4 | .n8 => tagN8x4 | .s4 | .n4 | .e2m1 => tagI4x8 | .s64 | .n64 => tagI64
def ntyTags (t : NTy) : Option (List (BitVec 4)) :=
  match t with
  | .s32 | .n32 => ints
  | t => only (ntyTag t)

/-- A source of format A or I. -/
def FA.srcA (f : FA) (tags : Option (List (BitVec 4))) (n : Nat := 1) : Src := ⟨f.a.toNat, n, tags, f.lra⟩
def FA.srcB (f : FA) (tags : Option (List (BitVec 4))) (n : Nat := 1) : Src := ⟨f.b.toNat, n, tags, f.lrb⟩
def FA.srcC (f : FA) (tags : Option (List (BitVec 4))) (n : Nat := 1) : Src := ⟨f.c.toNat, n, tags, f.lrc⟩
def FI.srcA (f : FI) (tags : Option (List (BitVec 4))) : Src := ⟨f.a.toNat, 1, tags, f.lra⟩

/-- Vector forms of class A: destination of `nd` registers and sources. -/
def useA (f : FA) (nd : Nat) (srcs : List Src) : Use := { guard := f.g, srcs := srcs, dst := [(f.d.toNat, nd)] }
/-- Forms of class A that write no vector register. -/
def useP (f : FA) (srcs : List Src) : Use := { guard := f.g, srcs := srcs }
/-- Scalar-pipe forms of class A, I, J, S. -/
def useS (g : Guard) : Use := { guard := g, scalar := true }

/-- A two-source integer form. -/
def useI2 (f : FA) (t : ITy) : Use :=
  useA f (ityRegs t) [Sys2Proof.Machine.FA.srcA f (ityTags t) (ityRegs t), Sys2Proof.Machine.FA.srcB f (ityTags t) (ityRegs t)]

/-- A logic form: any tag, pairs under .b64. -/
def useLogic (o : OpAI) (b64 : Bool) : Use :=
  let n := if b64 then 2 else 1
  match o with
  | .a f => useA f n [⟨f.a.toNat, n, none, f.lra⟩, ⟨f.b.toNat, n, none, f.lrb⟩]
  | .i f => { guard := f.g, srcs := [⟨f.a.toNat, 1, none, f.lra⟩], dst := [(f.d.toNat, 1)] }

/-- A shift form: `ta` the tags of the value. -/
def useShift (o : OpAI) (ta : Option (List (BitVec 4))) : Use :=
  match o with
  | .a f => useA f 1 [⟨f.a.toNat, 1, ta, f.lra⟩, ⟨f.b.toNat, 1, ints, f.lrb⟩]
  | .i f => { guard := f.g, srcs := [⟨f.a.toNat, 1, ta, f.lra⟩], dst := [(f.d.toNat, 1)] }

/-- A float form with `k` sources of one type. -/
def useF (f : FA) (t : FTy) (k : Nat) : Use :=
  let s (x : BitVec 8) (m : Bool) : Src := ⟨x.toNat, 1, only (ftyTag t), m⟩
  useA f 1 (([s f.a f.lra, s f.b f.lrb, s f.c f.lrc]).take k)

/-- Registers of an access of size code SZ (R233). -/
def szRegs (sz : BitVec 3) : Nat :=
  match sz.toNat with
  | 3 => 2
  | 4 => 4
  | _ => 1
/-- Bytes of an access of size code SZ (R89). -/
def szBytes (sz : BitVec 3) : Nat := 2^sz.toNat

/-- The offset register of an M.g access (R230). -/
def voSrc (f : FMg) : List Src := if f.vo = 0 then [] else [⟨f.vo.toNat, 1, ints, f.lro⟩]

/-- A prefetch (R237): LD to v0 and LD.p to p0. -/
def isPrefetch (f : FMg) : Bool := f.r == 0

/-- The vector index registers of a tile access (R90, R246). -/
def idxSrcs (f : FMt) : List Src :=
  (if f.rk = 1 then [⟨f.row.toNat, 1, ints, f.lri⟩] else []) ++ (if f.ck = 1 then [⟨f.col.toNat, 1, ints, f.lri⟩] else [])

/-- A tile access with a scalar index is scalar-pipe work (R246). -/
def idxScalar (f : FMt) : Bool := f.rk == 2 || f.ck == 2

/-- Registers and tags of one half of a dual word, as the named full form has them (R103). -/
def halfUse (g : Guard) (h : Half) : Use :=
  let r (x : BitVec 8) (t : Option (List (BitVec 4))) : Src := ⟨x.toNat, 1, t, false⟩
  match h with
  | .nop => {}
  | .r op m d s t =>
    let (x, y) : BitVec 8 × BitVec 8 :=
      match m with
      | .m0 => (d.zeroExtend 8, s)
      | .m1 => (s, t)
      | .m2 => (t, s)
    let (tx, ty) : Option (List (BitVec 4)) × Option (List (BitVec 4)) :=
      match op with
      | .iadd | .isub | .imin | .imax | .imul => (ints, ints)
      | .and | .or | .xor | .andn => (none, none)
      | .shl | .shr => (none, ints)
      | .sar => (only tagI32, ints)
      | .fadd | .fsub | .fmul | .fmin | .fmax => (only tagF32, only tagF32)
    { guard := g, srcs := [r x tx, r y ty], dst := [(d.toNat, 1)] }
  | .i op d s _ =>
    let t : Option (List (BitVec 4)) :=
      match op with
      | .iadd => ints
      | .sar => only tagI32
      | _ => none
    { guard := g, srcs := [r s t], dst := [(d.toNat, 1)] }
  | .u _ d s => { guard := g, srcs := [r s none], dst := [(d.toNat, 1)] }
  | .movi d _ => { guard := g, dst := [(d.toNat, 1)] }
  | .ffma d s t =>
    { guard := g, srcs := [r s (only tagF32), r t (only tagF32), r (d.zeroExtend 8) (only tagF32)], dst := [(d.toNat, 1)] }

/-- The guard of a dual word (R101). -/
def dualGuard (ps : Bool) : Guard := if ps then ⟨1, false⟩ else ⟨0, false⟩

/-- Access of a system register by level (R24): none, read only, read and write. -/
inductive SysAccess where
  | no
  | ro
  | rw
  deriving DecidableEq, Repr

/-- R24's user and supervisor columns. -/
def sysAccess (sup : Bool) (n : Nat) : SysAccess :=
  match n with
  | 0x000 | 0x003 | 0x040 => if sup then .rw else .no
  | 0x001 | 0x002 | 0x004 | 0x005 | 0x006 => if sup then .ro else .no
  | 0x010 => .rw
  | 0x020 | 0x030 | 0x031 => .ro
  | _ => .no

/-- What each instruction names. -/
def useOf : Instr → Use
  | .nop => {}
  -- the checks of a dual word are made half by half (R105): Machine/Dual.lean
  | .dualWord ps _ _ => { guard := dualGuard ps }
  | .bra f | .braC f | .call f | .ret f | .exit f | .exitJ f => { guard := f.g }
  | .brx f | .callx f => { guard := f.g, srcs := [⟨f.ra.toNat, 2, only tagI64, false⟩] }
  | .rjoin _ | .yield _ | .bar _ | .bara _ | .barw _ => {}
  | .loop _ _ | .lbrk _ | .sbr _ _ => { scalar := true }
  | .getem f toS => if toS then useS f.g else useA f 1 []
  | .setem f k =>
    match k with
    | .v => useP f [⟨f.a.toNat, 1, none, f.lra⟩]
    | .p => {}
    | .s => { scalar := true }
  | .vote f k =>
    match k with
    | .someP | .everyP => useP f []
    | .bitsV => useA f 1 []
    | _ => useS f.g
  | .getid f id toS => if toS then useS f.g else useA f (if id = 10 then 2 else 1) []
  | .setstage _ fromS => { scalar := fromS }
  | .rbtake _ | .rbgive _ => {}
  | .rbq .. => { scalar := true }
  | .smov f k =>
    match k with
    | .sv => { guard := f.g, scalar := true, srcs := [⟨f.a.toNat, 1, none, f.lra⟩] }
    | .vs => { guard := f.g, scalar := true, dst := [(f.d.toNat, 1)] }
    | _ => { scalar := true }
  | .smovi _ | .sadd _ | .ssub _ | .smul _ | .sand _ | .sor _ | .sxor _ | .sshl _ | .sshr .. | .scmp .. | .ssel _ => { scalar := true }
  | .sld .. | .abind _ | .aq .. => { scalar := true }
  | .mov f b64 => let n := if b64 then 2 else 1; useA f n [⟨f.a.toNat, n, none, f.lra⟩]
  | .movi f _ => { guard := f.g, dst := [(f.d.toNat, 1)] }
  | .sel f => useA f 1 [⟨f.a.toNat, 1, none, f.lra⟩, ⟨f.b.toNat, 1, none, f.lrb⟩]
  | .iadd o t _ =>
    match o with
    | .a f => useI2 f t
    | .i f => { guard := f.g, srcs := [⟨f.a.toNat, 1, ints, f.lra⟩], dst := [(f.d.toNat, 1)] }
  | .isub f t _ | .imin f t | .imax f t | .idiv f t | .irem f t => useI2 f t
  | .iadd3 f _ => useA f 1 [⟨f.a.toNat, 1, ints, f.lra⟩, ⟨f.b.toNat, 1, ints, f.lrb⟩, ⟨f.c.toNat, 1, ints, f.lrc⟩]
  | .imul o _ _ part =>
    match o with
    | .a f => useA f (if part = .wide then 2 else 1) [⟨f.a.toNat, 1, ints, f.lra⟩, ⟨f.b.toNat, 1, ints, f.lrb⟩]
    | .i f => { guard := f.g, srcs := [⟨f.a.toNat, 1, ints, f.lra⟩], dst := [(f.d.toNat, 1)] }
  | .imad f _ _ wide =>
    useA f (if wide then 2 else 1) [⟨f.a.toNat, 1, ints, f.lra⟩, ⟨f.b.toNat, 1, ints, f.lrb⟩,
      if wide then ⟨f.c.toNat, 2, only tagI64, f.lrc⟩ else ⟨f.c.toNat, 1, ints, f.lrc⟩]
  | .iabs f t _ => useA f (ityRegs t) [⟨f.a.toNat, ityRegs t, ityTags t, f.lra⟩]
  | .isad f t => useA f 1 [⟨f.a.toNat, 1, ityTags t, f.lra⟩, ⟨f.b.toNat, 1, ityTags t, f.lrb⟩, ⟨f.c.toNat, 1, ints, f.lrc⟩]
  | .and o b64 | .or o b64 | .xor o b64 => useLogic o b64
  | .andn f b64 => useLogic (.a f) b64
  | .shl o | .shr o | .rot o => useShift o none
  | .sar o => useShift o (only tagI32)
  | .popc f | .clz f | .brev f | .tagget f | .tagset f _ => useA f 1 [⟨f.a.toNat, 1, none, f.lra⟩]
  | .bfx f _ => useA f 1 [⟨f.a.toNat, 1, none, f.lra⟩, ⟨f.b.toNat, 1, ints, f.lrb⟩]
  | .bfi f => useA f 1 [⟨f.a.toNat, 1, none, f.lra⟩, ⟨f.b.toNat, 1, none, f.lrb⟩, ⟨f.c.toNat, 1, ints, f.lrc⟩]
  | .icmp o _ b64 =>
    match o with
    | .a f =>
      let n := if b64 then 2 else 1
      let t := if b64 then only tagI64 else ints
      useP f [⟨f.a.toNat, n, t, f.lra⟩, ⟨f.b.toNat, n, t, f.lrb⟩]
    | .i g _ va _ lra => { guard := g, srcs := [⟨va.toNat, 1, ints, lra⟩] }
  | .pand f _ _ | .por f _ _ | .pxor f _ _ | .pnot f => useP f []
  | .pmov f k =>
    match k with
    | .pp => useP f []
    | .vp => useA f 1 []
    | .pv => useP f [⟨f.a.toNat, 1, none, f.lra⟩]
  | .fadd o m | .fmul o m =>
    match o with
    | .a f => useF f m.ty 2
    | .i f => { guard := f.g, srcs := [⟨f.a.toNat, 1, only tagF32, f.lra⟩], dst := [(f.d.toNat, 1)] }
  | .fsub f m => useF f m.ty 2
  | .ffma f m => useF f m.ty 3
  | .fmin f _ ty | .fmax f _ ty => useF f ty 2
  | .fcmp f _ ty _ => useP f [⟨f.a.toNat, 1, only (ftyTag ty), f.lra⟩, ⟨f.b.toNat, 1, only (ftyTag ty), f.lrb⟩]
  | .fclass f ty _ => useF f ty 1
  | .frnd f m => useF f m.ty 1
  | .fdiv f _ _ => useF f .f32 2
  | .fsqrt f _ _ => useF f .f32 1
  | .frcp f | .frsq f | .fsin f | .fcos f | .fexp2 f | .flog2 f | .ftanh f => useF f .f32 1
  | .cvt g d va _ _ lra k =>
    { guard := g, dst := [(d.toNat, if k.dst.pair then 2 else 1)]
      srcs := ⟨va.toNat, if k.src.pair then 2 else 1, ntyTags k.src, lra⟩ ::
        (if decide (2 ≤ k.dst.count) then [⟨d.toNat, 1, only (ntyTag k.dst), false⟩] else []) }
  | .pack f t _ _ =>
    let ts := if t.isFloat then only tagF32 else ints
    useA f 1 (if t.count = 2 then [⟨f.a.toNat, 1, ts, f.lra⟩, ⟨f.b.toNat, 1, ts, f.lrb⟩]
      else if t.count = 4 then [⟨f.a.toNat, 4, ts, f.lra⟩]
      else [⟨f.a.toNat, 4, ts, f.lra⟩, ⟨f.b.toNat, 4, ts, f.lrb⟩])
  | .unpack f t _ => useA f (if t.count = 2 then 2 else 4) [⟨f.a.toNat, 1, ntyTags t, f.lra⟩]
  | .bpsplit f _ => useA f 1 [⟨f.a.toNat, 4, some [tagI8x4, tagN8x4], f.lra⟩, ⟨f.b.toNat, 4, some [tagI8x4, tagN8x4], f.lrb⟩]
  | .bpjoin f _ k1 => useA f 1 [⟨f.a.toNat, k1.toNat + 1, only tagBP8, f.lra⟩]
  | .shfl o _ _ _ =>
    match o with
    | .a f => useA f 1 [⟨f.a.toNat, 1, none, f.lra⟩, ⟨f.b.toNat, 1, ints, f.lrb⟩]
    | .i g d va _ lra => { guard := g, srcs := [⟨va.toNat, 1, none, lra⟩], dst := [(d.toNat, 1)] }
  | .redg f _ ty _ | .scang f _ _ ty _ => useA f 1 [⟨f.a.toNat, 1, if ty = .f32 then only tagF32 else ints, f.lra⟩]
  | .rng f k =>
    match k with
    | .n32 | .f32 => useA f 1 []
    | .getc => useA f 2 []
    | .setc => useP f [⟨f.a.toNat, 2, none, f.lra⟩]
  | .rqscale f _ => useA f 1 [⟨f.a.toNat, 1, only tagF32, f.lra⟩, ⟨f.c.toNat, 1, only tagI32, f.lrc⟩]
  | .rquant f => useA f 2 [⟨f.a.toNat, 1, only tagF32, f.lra⟩, ⟨f.b.toNat, 1, only tagI32, f.lrb⟩]
  | .rdeq f => useA f 1 [⟨f.a.toNat, 2, only tagI64, f.lra⟩, ⟨f.b.toNat, 1, only tagI32, f.lrb⟩]
  | .scanl f _ _ _ => useA f 1 [⟨f.a.toNat, 1, only tagF32, f.lra⟩, ⟨f.c.toNat, 1, only tagF32, f.lrc⟩]
  | .scanp f _ _ _ =>
    useA f 1 [⟨f.a.toNat, 1, only tagF32, f.lra⟩, ⟨f.b.toNat, 1, only tagF32, f.lrb⟩, ⟨f.c.toNat, 1, only tagF32, f.lrc⟩]
  | .ld f k =>
    match k with
    | .pred =>
      { guard := f.g, srcs := if isPrefetch f then [] else voSrc f, also := [(f.vo.toNat, 1)],
        marks := if isPrefetch f && f.lro then [f.vo.toNat] else [] }
    | .reg _ _ =>
      if isPrefetch f then { guard := f.g, also := [(f.vo.toNat, 1)], marks := if f.lro then [f.vo.toNat] else [] }
      else { guard := f.g, srcs := voSrc f, dst := [(f.r.toNat, szRegs f.sz)] }
  | .st f k =>
    match k with
    | .pred => { guard := f.g, srcs := voSrc f }
    | .reg _ => { guard := f.g, srcs := ⟨f.r.toNat, szRegs f.sz, none, f.lrv⟩ :: voSrc f }
  | .atom f op _ nr =>
    let t : Option (List (BitVec 4)) :=
      match op with
      | .add | .min | .max => if f.sz = 3 then only tagI64 else ints
      | _ => none
    { guard := f.g, srcs := ⟨f.r.toNat, szRegs f.sz, t, false⟩ :: voSrc f, dst := if nr then [] else [(f.r.toNat, szRegs f.sz)] }
  | .cas f => { guard := f.g, srcs := ⟨f.r.toNat, 2 * szRegs f.sz, none, false⟩ :: voSrc f, dst := [(f.r.toNat, szRegs f.sz)] }
  | .ll f _ => { guard := f.g, srcs := voSrc f, dst := [(f.r.toNat, szRegs f.sz)] }
  | .sc f _ => { guard := f.g, srcs := ⟨f.r.toNat, szRegs f.sz, none, f.lrv⟩ :: voSrc f }
  | .fence .. => {}
  | .talloc _ fromS => { scalar := fromS }
  | .tfree _ => {}
  | .tq .. => { scalar := true }
  | .tld f sz _ => { guard := f.g, srcs := idxSrcs f, dst := [(f.r.toNat, szRegs sz)], scalar := idxScalar f }
  | .tst f sz => { guard := f.g, srcs := ⟨f.r.toNat, szRegs sz, none, f.lrv⟩ :: idxSrcs f, scalar := idxScalar f }
  | .cpy .. | .cbinit _ | .cbarr _ | .coll .. => { scalar := true }
  | .cpyg f .. | .cpys f .. => { guard := f.g, scalar := true, srcs := [⟨f.vo.toNat, 1, ints, false⟩] }
  | .cbwait _ => {}
  | .cbtest f => { guard := f.g }
  | .mloadb _ | .mswap _ | .mma .. | .autoCfg _ | .autoSeed _ | .autoLdx _ | .autoInf .. | .autoFb1 _ | .autoFb2 _ => { scalar := true }
  | .autoRd .. | .autoWr _ => { scalar := true }
  | .autoFence _ => {}
  | .nodemk _ | .nodedel _ | .nodeq _ | .jinit _ | .gcond _ => { scalar := true }
  | .jwait _ => {}
  | .spawn f _ o remote _ _ =>
    { guard := f.g
      srcs := [⟨f.a.toNat, if remote then 2 else 1, ints, f.lra⟩] ++ (if f.b = 0 then [] else [⟨f.b.toNat, 4, none, f.lrb⟩]) ++
        (if o then [⟨f.c.toNat, 1, ints, f.lrc⟩] else []) }
  | .estw f _ => { guard := f.g, also := [(f.ra.toNat, f.rd.toNat % 16 + 1)] }
  | .estq f _ => useA f 1 []
  | .estf f => { guard := f.g }
  | .ckmark .. | .cksnap .. | .ckroll .. | .ckdrop .. | .glaunch .. => { scalar := true }
  | .qend _ => {}
  | .trap f => { guard := f.g }
  | .eret _ | .pmap _ | .tlbinv .. => { scalar := true, sup := true }
  | .mfsr .. | .mtsr .. => { scalar := true }
  | _ => {}

/-! ## Scalar, address and predicate registers that a form reads (R372) -/

/-- Scalar sources of a form of class A or I. -/
def OpAI.scalars : OpAI → List Nat
  | .a f => [f.a.toNat, f.b.toNat]
  | .i f => [f.a.toNat]

/-- The scalar words of a card (R248), `n` without a follow-on command and `k` with one (R251). -/
def FJ.words (f : FJ) (n : Nat) (k : Nat := n) : List Nat :=
  (List.range (if f.follow = 0 then n else k)).map (f.sc.toNat + ·)

/-- The scalar index registers of a tile access (R90). -/
def idxScalars (f : FMt) : List Nat :=
  (if f.rk = 2 then [f.row.toNat] else []) ++ (if f.ck = 2 then [f.col.toNat] else [])

/-- The scalar offset register of a group-wide access (R195). -/
def voScalar (f : FMg) : List Nat := if f.vo = 0 then [] else [f.vo.toNat]

/-- Scalar registers that an instruction reads. -/
def scalarReads : Instr → List Nat
  | .setem f .s | .smov f .ss | .smov f .vs => [f.a.toNat]
  | .setstage f true | .talloc f true => [f.a.toNat]
  | .loop f false | .sbr f _ => [f.ra.toNat]
  | .sadd o | .sand o | .sor o | .sxor o | .sshl o | .sshr o _ => Sys2Proof.Machine.OpAI.scalars o
  | .ssub f | .smul f => [f.a.toNat, f.b.toNat]
  | .scmp o _ => match o with | .a f => [f.a.toNat, f.b.toNat] | .i _ _ a _ _ => [a.toNat]
  | .ssel f => [f.a.toNat, f.b.toNat, f.c.toNat]
  | .sld f _ => voScalar f
  | .abind f => [f.a.toNat, f.a.toNat + 1, f.b.toNat]
  | .tld f _ _ | .tst f _ => idxScalars f
  | .cpy f _ _ => Sys2Proof.Machine.FJ.words f 3 6
  | .cpyg f _ _ => Sys2Proof.Machine.FJ.words f 2 6
  | .cpys f _ _ | .mloadb f | .autoInf f _ _ | .autoFb1 f | .autoFb2 f | .autoRd f _ | .autoWr f | .glaunch f _ =>
    Sys2Proof.Machine.FJ.words f 2
  | .coll f _ _ => Sys2Proof.Machine.FJ.words f 4
  | .mma f _ _ | .autoSeed f | .ckmark f _ => Sys2Proof.Machine.FJ.words f 3
  | .cbinit f | .cbarr f | .mswap f | .autoCfg f | .autoLdx f | .cksnap f _ | .ckroll f _ | .ckdrop f _ _ _ =>
    Sys2Proof.Machine.FJ.words f 1
  | .jinit f | .gcond f => [f.r.toNat]
  | .nodedel f | .nodeq f | .mtsr f _ => [f.ra.toNat]
  | .pmap f | .tlbinv f .page => [f.ra.toNat, f.ra.toNat + 1]
  | _ => []

/-- Address registers that an instruction reads. -/
def addrReads : Instr → List Nat
  | .sld f _ | .ld f _ | .st f _ | .atom f _ _ _ | .cas f | .ll f _ | .sc f _ | .nodemk f | .jinit f | .jwait f | .gcond f => [f.ar.toNat]
  | .aq f _ => [f.a.toNat]
  | .cpy f .g2t _ | .cpy f .t2g _ | .cpyg f _ _ | .cpys f _ _ | .coll f _ _ | .autoCfg f | .ckmark f _ | .glaunch f _ => [f.ar.toNat]
  | .spawn _ _ _ _ aj true => [aj.toNat]
  | _ => []

/-- Predicates that an instruction reads as operands, the guard apart. -/
def predReads : Instr → List Nat
  | .vote f _ | .setem f .p | .pnot f | .pmov f .pp | .pmov f .vp => [f.a.toNat]
  | .sel f => [f.c.toNat]
  | .pand f _ _ | .por f _ _ | .pxor f _ _ => [f.a.toNat, f.b.toNat]
  | .st f .pred => [f.r.toNat]
  | _ => []

/-- PRIV at step 5 of R108: a supervisor-only form, or a system register that R24 marks "-" at this level. -/
def privFails (g : Group) (i : Instr) : Bool :=
  match i with
  | .mfsr f _ | .mtsr f _ => sysAccess g.supervisor f.num.toNat == .no
  | _ => (useOf i).sup && !g.supervisor

/-- Every vector register an instruction names: first and number. -/
def namedRegs (u : Use) : List (Nat × Nat) := u.srcs.map (fun x => (x.reg, x.n)) ++ u.dst ++ u.also

/-- Step 7 of R108: a named register beyond the budget (R20). -/
def regUnclaimed (g : Group) (u : Use) : Bool := (namedRegs u).any (fun x => decide (8 * g.budget < x.1 + x.2))

/-- A source's tag is accepted in a lane (R118). -/
def tagOk (tags : Option (List (BitVec 4))) (t : BitVec 4) : Bool :=
  match tags with
  | none => true
  | some ts => t == tagRAW || ts.contains t

/-- A source is accepted in a lane: each of its registers carries an accepted tag (R118, R119). -/
def Src.okIn (x : Src) (ln : Lane) : Bool := (List.range x.n).all (fun k => tagOk x.tags (ln.reg (x.reg + k)).tag)

/-- The active lanes in which some source's tag fails (step 9 of R108). -/
def tagFails (g : Group) (act : Lanes) (srcs : List Src) : Lanes :=
  maskOf (fun l => act.getLsbD l && srcs.any (fun x => !x.okIn (g.lane l)))

/-- Registers that last-read marks release at retirement (R100): marked sources, not destinations, not v0. -/
def released (u : Use) : List Nat :=
  let ds := u.dst.flatMap (fun x => (List.range x.2).map (x.1 + ·))
  ((u.srcs.filter (·.mark)).flatMap (fun x => (List.range x.n).map (x.reg + ·)) ++ u.marks).filter (fun r => r != 0 && !ds.contains r)

/-- Release registers in every lane (R100). -/
def Group.release (g : Group) (rs : List Nat) : Group :=
  if rs.isEmpty then g
  else { g with lanes := g.lanes.map (fun x => rs.foldl (fun x r => x.setReg r Reg.zero) x) }

end Sys2Proof.Machine
end

