-- ==== Sys2Proof/Machine/Flags.lean ====
section
/-! DEFINITION. FPSTAT: flags, trap enables, rounding mode (R127 to R129), and the exact integer results written with or without
.sat (R114, R200). -/

namespace Sys2Proof.Machine

/-- A set of flags, numbered as the sticky bits of FPSTAT (R127). -/
abbrev FlagSet := BitVec 7

def flNV : FlagSet := 1
def flDZ : FlagSet := 2
def flOF : FlagSet := 4
def flUF : FlagSet := 8
def flNX : FlagSet := 16
def flSAT : FlagSet := 32
def flWR : FlagSet := 64

/-- FPSTAT with the flags set (R128). -/
def fpSet (fp : W32) (f : FlagSet) : W32 := fp ||| f.zeroExtend 32

/-- Writable bits of FPSTAT: RM, the enables, the flags (R127). -/
def fpMask : W32 := 0xDFFF

/-- RM of FPSTAT (R127). -/
def fpRm (fp : W32) : Nat := fp.toNat / 2^14 % 4

/-- Enables TNV to TNX (R127, R129). -/
def fpTraps (fp : W32) : FlagSet := BitVec.ofNat 7 (fp.toNat / 2^7 % 32)

/-- TWR. -/
def fpTwr (fp : W32) : Bool := fp.getLsbD 12

/-- Causes of R129 in rank order with the flag of each. -/
def fpCauses : List (FlagSet × Nat) := [(flNV, 0x101), (flDZ, 0x102), (flOF, 0x103), (flUF, 0x104), (flNX, 0x105)]

/-- The highest-ranked cause among raised flags whose enables are set (R129). -/
def fpCause (fp : W32) (raised : FlagSet) : Option (FlagSet × Nat) :=
  fpCauses.find? (fun c => raised &&& fpTraps fp &&& c.1 != 0)

/-- Flags of a list of lanes together. -/
def allFlags (ls : List (Nat × FlagSet)) : FlagSet := ls.foldl (fun acc x => acc ||| x.2) 0

/-- The lanes that raised a flag. -/
def flagLanes (ls : List (Nat × FlagSet)) (f : FlagSet) : Lanes :=
  maskOf (fun l => ls.any (fun x => x.1 == l && x.2 &&& f != 0))

/-- Width of an element of an integer type, and its range (R199). -/
def ityBits (t : ITy) : Nat :=
  match t with
  | .s32 | .n32 => 32 | .s64 | .n64 => 64 | .s8x4 | .n8x4 => 8
def itySigned (t : ITy) : Bool :=
  match t with
  | .s32 | .s64 | .s8x4 => true
  | _ => false

/-- Range of a two's complement or binary number of `w` bits (R114). -/
def intMin (w : Nat) (signed : Bool) : Int := if signed then -(2^(w - 1) : Int) else 0
def intMax (w : Nat) (signed : Bool) : Int := if signed then (2^(w - 1) : Int) - 1 else (2^w : Int) - 1

/-- The value of `w` bits (R114). -/
def intOf (w : Nat) (signed : Bool) (v : Nat) : Int :=
  if signed && decide (2^(w - 1) ≤ v) then (v : Int) - (2^w : Int) else v

/-- The low `w` bits of an exact integer. -/
def wrapTo (w : Nat) (y : Int) : Nat := (y % (2^w : Int)).toNat

/-- clamp of R130. -/
def clampInt (lo hi y : Int) : Int := min (max y lo) hi

/-- An exact result written in a width, wrapping or clamped with SAT (R114, R200). -/
def writeInt (w : Nat) (signed sat : Bool) (y : Int) : Nat × FlagSet :=
  if sat then
    let c := clampInt (intMin w signed) (intMax w signed) y
    (wrapTo w c, if c = y then 0 else flSAT)
  else (wrapTo w y, 0)

end Sys2Proof.Machine
end

