-- ==== Sys2Proof/Machine/Paths.lean ====
section
/-! DEFINITION. Paths of a group: settling, splitting, the entries of a stack (R167 to R171), the loop-end step (R184), lookahead
windows and landings (R95, R96). Everything here is about one group and the list of its own entries. -/

namespace Sys2Proof.Machine

/-! ## Stack entries -/

/-- The current entry (R169): the most recently pushed of a group's entries whose FULL contains PATH. -/
def curOf : List Entry → Lanes → Option Nat
  | [], _ => none
  | e :: r, path =>
    let c := curOf r path
    if path &&& ~~~e.full = 0 then
      match c with
      | some k => some (max k e.id)
      | none => some e.id
    else c

/-- The entry with a number. -/
def entryAt (es : List Entry) (c : Option Nat) : Option Entry := es.find? (fun e => some e.id == c)

/-- Replace an entry. -/
def putEntry (es : List Entry) (e : Entry) : List Entry := es.map (fun x => if x.id = e.id then e else x)

/-- The fairness count of a group whose path was `g0`'s: it restarts at every path change (R172; log entry 105). -/
def Group.restart (g g0 : Group) : Group := { g with fair := if g.path = g0.path then g0.fair else 0 }

/-- Settle (R170): `n` bounds the turns of the loop; each turn starts a deferred path or frees an entry. -/
def settleLoop : Nat → Group → List Entry → Group × List Entry
  | 0, g, es => (g, es)
  | n + 1, g, es =>
    match entryAt es g.cur with
    | none => (g, es)
    | some e =>
      if g.path = 0 || g.pc = e.rpc then
        let e : Entry := { e with wait := e.wait ||| g.path, wen := e.wen ||| g.em }
        if e.defl != 0 then
          let g := { g with path := e.defl, em := e.den, pc := e.dpc }
          let es := putEntry es { e with defl := 0, den := 0, dpc := 0 }
          settleLoop n { g with cur := curOf es g.path } es
        else
          let es := es.filter (fun x => x.id != e.id)
          let g := { g with path := e.wait, em := e.wen, pc := e.rpc }
          settleLoop n { g with cur := if g.path = 0 then e.parent else curOf es g.path } es
      else (g, es)

/-- Settle with enough turns: two for each entry. -/
def settle (g : Group) (es : List Entry) : Group × List Entry :=
  let x := settleLoop (2 * es.length + 1) g es
  (x.1.restart g, x.2)

/-- A split needs an entry (R171). -/
def splitPushes (g : Group) (t : Lanes) (tpc fpc : W64) (kind : EntryKind) : Bool :=
  !(kind == .br && (g.path &&& ~~~t == 0 || tpc == fpc || t == 0))

/-- split (R171); `id` numbers the entry that it may push. -/
def split (id own : Nat) (g : Group) (es : List Entry) (t : Lanes) (tpc fpc rpc : W64) (kind : EntryKind) : Group × List Entry :=
  let f := g.path &&& ~~~t
  if kind = .br && (f = 0 || tpc = fpc) then ({ g with pc := tpc }, es)
  else if kind = .br && t = 0 then ({ g with pc := fpc }, es)
  else
    let paths : List (Lanes × Lanes × W64) := [(f, g.em &&& f, fpc), (t, g.em &&& t, tpc)]
    let parked := paths.filter (fun x => x.1 != 0 && x.2.2 == rpc)
    let rest := paths.filter (fun x => x.1 != 0 && x.2.2 != rpc)
    let e : Entry :=
      { id := id, parent := g.cur, kind := kind, owner := own, rpc := rpc, full := g.path
        wait := parked.foldl (fun acc x => acc ||| x.1) 0, wen := parked.foldl (fun acc x => acc ||| x.2.1) 0
        defl := 0, den := 0, dpc := 0 }
    let (g', e) : Group × Entry :=
      match rest with
      | [] => ({ g with path := 0, em := 0 }, e)
      | [x] => ({ g with path := x.1, em := x.2.1, pc := x.2.2 }, e)
      | x :: y :: _ => ({ g with path := x.1, em := x.2.1, pc := x.2.2 }, { e with defl := y.1, den := y.2.1, dpc := y.2.2 })
    let es := es ++ [e]
    let x := settle { g' with cur := some id } es
    (x.1.restart g, x.2)

/-- Lanes leave every mask of an entry (R176). -/
def Entry.without (e : Entry) (a : Lanes) : Entry :=
  { e with full := e.full &&& ~~~a, wait := e.wait &&& ~~~a, wen := e.wen &&& ~~~a, defl := e.defl &&& ~~~a, den := e.den &&& ~~~a }

/-- CUR's chain outward (R172, R174): CUR and each older entry of the group whose FULL contains the one before. -/
def chainOf (es : List Entry) (cur : Option Nat) : List Entry :=
  match entryAt es cur with
  | none => []
  | some e => e :: (es.reverse.filter (fun x => decide (x.id < e.id) && e.full &&& ~~~x.full == 0))

/-! ## Advancing -/

/-- The loop-end step (R184) on the live loops, innermost first, for an advance to `nx`. -/
def stepLoops (g : Group) (nx : W64) : List Nat → Group
  | [] => { g with pc := nx }
  | n :: r =>
    let l := g.loop n
    if l.stop ≠ nx then stepLoops g nx r
    else if 1 < l.count.toNat then { g.setLoop n { l with count := l.count - 1 } with pc := l.start }
    else stepLoops { g.setLoop n {} with nest := g.nest.filter (· != n) } nx r

/-- Advance in sequence: PC + 8 with the loop-end step (R82, R184). -/
def Group.advance (g : Group) : Group := stepLoops g (g.pc + 8) g.nest

/-- The path goes on in sequence after some of its lanes have left it (R82, R184); with none left it advances nowhere, and PC + 8
stands until the path is another (R176). -/
def Group.goOn (g : Group) : Group := if g.path = 0 then { g with pc := g.pc + 8 } else g.advance

/-- The word at PC is the last of a live loop's body (R184). -/
def Group.atLoopEnd (g : Group) : Bool := g.nest.any (fun n => (g.loop n).stop == g.pc + 8)

/-- An instruction issues (R172): outside Solstice mode the fairness count takes it here, and in Solstice mode (`sol`) when it
retires. A group that issues has no YIELD just before it (R186, R349). -/
def Group.countIssue (g : Group) (sol : Bool) : Group := { g with fair := if sol then g.fair else g.fair + 1, yielded := false }

/-! ## Landings -/

/-- One landing (R96): the value and its tag replace the destination. -/
def Group.landOne (g : Group) : Landing → Group
  | .vec l r x => g.mapLanes (BitVec.ofNat 32 (2^l)) (fun _ y => y.setReg r x)
  | .pred l p b => g.mapLanes (BitVec.ofNat 32 (2^l)) (fun _ y => y.setPred p b)
  | .scalar r x => g.setS r x

/-- A result lands; data in error leaves its destinations and raises MCE_UNCORRECTABLE (R97): at the next boundary, or at the
instruction whose issue has landed it (`State.issue`). -/
def Group.land (g : Group) (w : Window) : Group :=
  let g := if w.atEnd then { g with quantumDone := true, past := false } else g
  match w.bad with
  | none => w.lands.foldl Group.landOne g
  | some (m, a, k) =>
    let d : Due := { kind := .landed, code := 0x280, eaddr := a, einfo := BitVec.ofNat 64 k, mask := some m, elpc := w.pc }
    { g with due := g.due ++ [d] }

/-- Every open result lands, in issue order (R95, R96). -/
def Group.landAll (g : Group) : Group := { g.windows.foldl Group.land g with windows := [] }

/-- The instruction on path `p` is in the window (log entry 15). -/
def Window.holds (p : Lanes) (w : Window) : Bool := w.path &&& p != 0

/-- The windows that a transfer on the running path is in close (R95, event 2). -/
def Group.landPath (g : Group) : Group :=
  let here := g.windows.filter (Window.holds g.path)
  { here.foldl Group.land g with windows := g.windows.filter (fun w => !w.holds g.path) }

/-- An instruction on path `p` retires: the windows that it is in count it, and those that it closes land (R95, event 1). -/
def Group.countWindows (g : Group) (p : Lanes) : Group :=
  let ws := g.windows.map (fun w => if w.holds p then { w with left := w.left - 1 } else w)
  { (ws.filter (fun w => w.left == 0)).foldl Group.land g with windows := ws.filter (fun w => w.left != 0) }

/-! ## Entering and leaving a handler -/

/-- A cause as an instruction meets it: code, mask (none: PATH), EADDR, EINFO (none: the word), ELPC, job of an ENGINE_XLATE. -/
structure Trap where
  code : Nat
  mask : Option Lanes := none
  eaddr : W64 := 0
  einfo : Option W64 := some 0
  elpc : W64 := 0
  job : Option Nat := none
  deriving DecidableEq, Repr

/-- A result in error that stands at handler entry waits for the handler's end (log entry 85). -/
def Due.entering (d : Due) : Due := if d.kind = .landed then { d with kind := .entered } else d

/-- The group enters its handler (R365). -/
def Group.enter (g : Group) (t : Trap) (epc evec info : W64) : Group :=
  let g := g.landAll
  let m := t.mask.getD g.path
  { g with
    latch := [], lanes := g.lanes.map (fun x => { x with resv := none }), due := g.due.map Due.entering
    saved := some { path := g.path, em := g.em, pc := g.pc, cur := g.cur, fair := g.fair }
    ecause := BitVec.ofNat 32 t.code, emaskf := m, emaskIn := m, epc := epc, eaddr := t.eaddr, einfo := info, elpc := t.elpc
    hset := m, path := m, em := m, pc := evec, supervisor := true, hseg := [], cur := none, fair := 0, serving := t.job }

/-- The handler ends (R310, R366): the saved path, EM and current entry return, PC := EPC; the PC is 8-byte aligned (R13), so an
EPC that MTSR has written loses its low bits (log entry 84). -/
def Group.leave (g : Group) : Group :=
  match g.saved with
  | none => g
  | some v =>
    { g with path := v.path, em := v.em, pc := g.epc &&& ~~~7, cur := v.cur, fair := v.fair, saved := none, supervisor := false
             hset := 0, hseg := [], emaskf := 0, latch := [], serving := none, past := false }

end Sys2Proof.Machine
end

