-- ==== Sys2Proof/Machine/Mem.lean ====
section
/-! DEFINITION. Memory: bytes by system address, the partition's blocks (R395, R396), the page walk (R353 to R355), writes with
what they do to checkpoints (R302) and reservations (R162), and the view a block's reads take their values from (R385). -/

namespace Sys2Proof.Machine

/-- What an unlisted address of memory reads as (log entry 12): DRAM is wiped at every reset (R414). -/
def memDefault : Byte := 0

/-- The canonical form of memory: addresses strictly rising, no listed byte equal to `memDefault`. -/
def Memory.wf (m : List Host.Cell) : Bool := Sparse.wf memDefault m

/-- One byte of memory. -/
def readByte (m : List Host.Cell) (a : Nat) : Byte := Sparse.get memDefault m a

/-- Write one byte of memory. -/
def writeByte (m : List Host.Cell) (a : Nat) (b : Byte) : List Host.Cell := Sparse.set memDefault m a b

/-- `n` bytes from address `a` upward. -/
def readBytes (m : List Host.Cell) (a : Nat) : Nat → List Byte
  | 0 => []
  | n + 1 => readByte m a :: readBytes m (a + 1) n

/-- Write bytes from address `a` upward. -/
def writeBytes (m : List Host.Cell) (a : Nat) : List Byte → List Host.Cell
  | [] => m
  | b :: bs => writeBytes (writeByte m a b) (a + 1) bs

/-- Write a list of single bytes, in order. -/
def writeCells (m : List Host.Cell) : List Host.Cell → List Host.Cell
  | [] => m
  | (a, b) :: r => writeCells (writeByte m a b) r

/-- The number that bytes spell, lowest address first (R4, R234). -/
def natOfBytes : List Byte → Nat
  | [] => 0
  | b :: bs => b.toNat + 256 * natOfBytes bs

/-- The `n` low bytes of a number, lowest address first. -/
def bytesOfNat : Nat → Nat → List Byte
  | 0, _ => []
  | n + 1, v => BitVec.ofNat 8 v :: bytesOfNat n (v / 256)

/-- The cells of bytes from address `a` upward. -/
def cellsOf (a : Nat) : List Byte → List Host.Cell
  | [] => []
  | b :: bs => (a, b) :: cellsOf (a + 1) bs

/-- The `n`-byte number at address `a`. -/
def readNat (m : List Host.Cell) (a n : Nat) : Nat := natOfBytes (readBytes m a n)

/-! ## Partition-physical addresses -/

/-- First system address of host memory: bit 51 of an entry (R354). -/
def hostBase : Nat := 2^51

/-- Entry of the active block map (R398): index * 256 + owner. -/
def bmapEntry (d : Device) (k : Nat) : Nat := Sparse.get 0xFF d.bmap k

/-- Physical blocks that partition `p` owns, with their partition indices (R396). -/
def partBlocks (d : Device) (p : Nat) : List (Nat × Nat) :=
  (d.bmap.filter (fun x => x.2 % 256 == p)).map (fun x => (x.2 / 256, x.1))

/-- Bytes of device memory granted to partition `p`. -/
def granted (d : Device) (p : Nat) : Nat := (partBlocks d p).length * Config.blockBytes

/-- Bytes of L2 that are memory in THAW (R415). -/
def thawBytes : Nat := 2^29

/-- The system address of a partition-physical address (R354, R396); none: beyond the granted memory, which in THAW is L2. -/
def sysAddr (d : Device) (p pp : Nat) : Option Nat :=
  if pp / 2^51 % 2 = 1 then some (hostBase + pp % 2^51)
  else if d.life == .thaw && decide (thawBytes ≤ pp) then none
  else
    match (partBlocks d p).find? (fun x => x.1 == pp / Config.blockBytes) with
    | some x => some (x.2 * Config.blockBytes + pp % Config.blockBytes)
    | none => none

/-! ## The page walk -/

/-- A valid leaf (R354): system address of the page, its bytes, its partition-physical address, permissions. -/
structure Page where
  addr : Nat
  bytes : Nat
  pp : Nat
  r : Bool
  w : Bool
  x : Bool
  deriving DecidableEq, Repr

/-- Where a walk ends (R355, R363): a page, or the level it stopped at and whether the entry was malformed. -/
inductive Walk where
  | page (p : Page)
  | stop (level : Nat) (mal : Bool)
  deriving DecidableEq, Repr

/-- Lowest address bit of a level's index, and index bits (R353). -/
def levelShift (l : Nat) : Nat := if l = 0 then 16 else 12 + 9 * l
def levelBits (l : Nat) : Nat := if l = 0 then 5 else 9

/-- A canonical virtual address (R42): bits 63:57 equal bit 56. -/
def canonical (a : W64) : Bool := decide (a.toNat < 2^56) || decide (2^64 - 2^56 ≤ a.toNat)

/-- The index of a virtual address at a level. -/
def levelIndex (va l : Nat) : Nat := va / 2^levelShift l % 2^levelBits l

/-- Reserved bits of an entry that must be 0 (R354). -/
def entryReserved (e : Nat) : Bool := decide (e / 2^52 ≠ 0) || decide (e / 64 % 4 ≠ 0) || decide (e / 4 % 2 ≠ 0)

/-- Partition-physical address of a table or page in an entry. -/
def entryAddr (e : Nat) : Nat := e % 2^52 / 256 * 256

/-- A valid entry at level `l` is malformed (R354). -/
def entryMalformed (d : Device) (p l e : Nat) : Bool :=
  let leaf := e.testBit 1
  let size := if leaf then 2^levelShift l else if l = 1 then 256 else 4096
  entryReserved e || (leaf && decide (3 ≤ l)) || (!leaf && l == 0) || decide (entryAddr e % size ≠ 0) ||
    (sysAddr d p (entryAddr e)).isNone

/-- The walk from a table at level `l` (R353, R355). -/
def walkFrom (m : List Host.Cell) (d : Device) (p va : Nat) : Nat → Nat → Walk
  | l, table =>
    match sysAddr d p table with
    | none => .stop l true
    | some t =>
      let e := readNat m (t + 8 * levelIndex va l) 8
      if !e.testBit 0 then .stop l false
      else if entryMalformed d p l e then .stop l true
      else if e.testBit 1 then
        match sysAddr d p (entryAddr e) with
        | none => .stop l true
        | some a => .page ⟨a, 2^levelShift l, entryAddr e, e.testBit 3, e.testBit 4, e.testBit 5⟩
      else
        match l with
        | 0 => .stop 0 true
        | k + 1 => walkFrom m d p va k (entryAddr e)

/-- The record of a partition. -/
def State.part (s : State) (p : Nat) : Part := (Table.get? s.parts p).getD {}

/-- The walk of a canonical virtual address in the tables of partition `p` as they stand (R353). -/
def State.tableWalk (s : State) (p : Nat) (va : W64) : Walk :=
  walkFrom s.mem s.dev p va.toNat 4 (s.part p).troot.toNat

/-- A cached translation is of the page that holds `va`. -/
def Cached.covers (c : Cached) (va : W64) : Bool := decide (c.va ≤ va.toNat) && decide (va.toNat < c.va + c.bytes)

/-- A cached translation as a leaf; none: the block map grants its page no longer. -/
def Cached.page (c : Cached) (d : Device) (p : Nat) : Option Page := (sysAddr d p c.pp).map (fun a => ⟨a, c.bytes, c.pp, c.r, c.w, c.x⟩)

/-- The cached translation of `va` in partition `p` (R356). -/
def State.cachedPage (s : State) (p : Nat) (va : W64) : Option Page :=
  ((s.part p).tlb.find? (·.covers va)).bind (fun c => c.page s.dev p)

/-- The translation of a canonical virtual address in partition `p` (R355, R356): a cached one stands until a shootdown removes it,
whatever becomes of its entry; no cache holds an invalid or a malformed walk. -/
def State.walk (s : State) (p : Nat) (va : W64) : Walk :=
  match s.cachedPage p va with
  | some pg => .page pg
  | none => s.tableWalk p va

/-- A leaf as the TLBs cache it. -/
def Page.cached (pg : Page) (va : W64) : Cached :=
  { va := va.toNat / pg.bytes * pg.bytes, bytes := pg.bytes, pp := pg.pp, r := pg.r, w := pg.w, x := pg.x }

/-- An agent of partition `p` translates `va` through the TLBs, which cache the walk when it ends at a leaf (R356; log entry 103). -/
def State.cache (s : State) (p : Nat) (va : W64) : State :=
  if !canonical va || (s.cachedPage p va).isSome || (Table.get? s.parts p).isNone then s
  else
    match s.tableWalk p va with
    | .page pg => { s with parts := Table.upd s.parts p (fun r => { r with tlb := pg.cached va :: r.tlb }) }
    | .stop .. => s

/-- The same for every page of the `n` bytes from `va` on. -/
def State.cacheRange (s : State) (p : Nat) (va : W64) (n : Nat) : State :=
  if n = 0 then s
  else (List.range ((n - 1) / 2^16 + 2)).foldl (fun s i => s.cache p (va + BitVec.ofNat 64 (min (2^16 * i) (n - 1)))) s

/-- The system address of `va` within a page that a walk found. -/
def Page.at (pg : Page) (va : W64) : Nat := pg.addr + va.toNat % pg.bytes

/-! ## Writes -/

/-- Change every lane of every group. -/
def State.mapLanes (s : State) (f : Nat → Nat → Lane → Lane) : State :=
  { s with groups := Table.mapAll s.groups (fun g r => { r with lanes := r.lanes.mapIdx (fun l x => f g l x) }) }

/-- The 16-byte granule of a system address (R162). -/
def granule (a : Nat) : Nat := a / 16

/-- The block runs in Solstice mode. -/
def State.isSolstice (s : State) (b : Nat) : Bool :=
  match Table.get? s.blocks b with
  | some r => r.solstice
  | none => false

/-- The bytes from `a` on touch the granule `k`. -/
def touchesGranule (a n k : Nat) : Bool := decide (0 < n) && decide (granule a ≤ k) && decide (k ≤ granule (a + n - 1))

/-- Clear a group's reservations on the granules that a write of `n` bytes at `a` touches, except the writing lane's (R162). -/
def Group.breakResv (g : Group) (a n : Nat) (own : Option Nat) : Group :=
  { g with lanes := g.lanes.mapIdx (fun l x =>
      match x.resv with
      | none => x
      | some k => if touchesGranule a n k && own != some l then { x with resv := none } else x) }

/-- Clear the reservations on the granules that a write touches, except the writing lane's own (R162). In Solstice mode only the
commits of a lane's own block clear its reservation (R166, R386). -/
def State.breakResv (s : State) (a n : Nat) (own : Option (Nat × Nat)) : State :=
  { s with groups := Table.mapAll s.groups (fun k r =>
      if s.isSolstice r.blk then r
      else r.breakResv a n (match own with | some (g, l) => if g = k then some l else none | none => none)) }

/-- Bytes of a checkpoint granule (R302). -/
def ckBytes : Nat := 256

/-- Copy the granule `k` into a snapshot before the first write to it (R302). -/
def Snap.copy (m : List Host.Cell) (k : Nat) (sn : Snap) : Snap :=
  if sn.copied.contains k then sn
  else { sn with copied := k :: sn.copied, old := writeBytes sn.old (k * ckBytes) (readBytes m (k * ckBytes) ckBytes) }

/-- What a write to granule `k` does to a marked region. -/
def Marked.copy (m : List Host.Cell) (k : Nat) (r : Marked) : Marked :=
  if r.granules.contains k then { r with snaps := Table.mapAll r.snaps (fun _ sn => sn.copy m k) } else r

/-- What a write to granule `k` does to the checkpoints of every partition. -/
def State.ckCopy (s : State) (k : Nat) : State :=
  { s with parts := Table.mapAll s.parts (fun _ p => { p with marks := Table.mapAll p.marks (fun _ r => r.copy s.mem k) }) }

/-- The bytes from `a` on touch a codeword in uncorrectable error (R372). -/
def State.isBad (s : State) (a n : Nat) : Bool :=
  s.badCw.any (fun k => decide (a < 16 * k.1 + 16) && decide (16 * k.1 < a + n))

/-- STRUCT of the first such codeword: 1 DRAM, 2 L2 (R372). -/
def State.structOf (s : State) (a n : Nat) : Nat :=
  match s.badCw.find? (fun k => decide (a < 16 * k.1 + 16) && decide (16 * k.1 < a + n)) with
  | some (_, true) => 2
  | _ => 1

/-- A write of the bytes from `a` on consumes a codeword in error: it covers only part of it (R372). -/
def State.isBadPart (s : State) (a n : Nat) : Bool :=
  s.badCw.any (fun k => decide (a < 16 * k.1 + 16) && decide (16 * k.1 < a + n) &&
    !(decide (a ≤ 16 * k.1) && decide (16 * k.1 + 16 ≤ a + n)))

/-- A write of bytes at a system address by an agent: snapshots first, then the bytes, then the reservations. A write that covers
a whole codeword cures it (R372). -/
def State.store (s : State) (a : Nat) (bs : List Byte) (own : Option (Nat × Nat)) : State :=
  let k0 := a / ckBytes
  let k1 := (a + bs.length - 1) / ckBytes
  let s := if bs.isEmpty then s else
    (List.range (k1 - k0 + 1)).foldl (fun s i => s.ckCopy (k0 + i)) s
  let cured (k : Nat) : Bool := decide (a ≤ 16 * k) && decide (16 * k + 16 ≤ a + bs.length)
  ({ s with mem := writeBytes s.mem a bs, badCw := s.badCw.filter (fun k => !cured k.1) }).breakResv a bs.length own

/-- Writes of single bytes in order. -/
def State.storeCells (s : State) (cs : List Host.Cell) (own : Option (Nat × Nat)) : State :=
  cs.foldl (fun s c => s.store c.1 [c.2] own) s

/-! ## Read-modify-writes -/

/-- The value of a `8 * n`-bit number read as two's complement. -/
def signedOf (n v : Nat) : Int := if v < 2^(8 * n - 1) then v else (v : Int) - 2^(8 * n)

/-- The new value of an ATOM on `n` bytes (R238): add wraps, min and max are signed unless .u. -/
def atomApply (op : AtomOp) (u : Bool) (n old v : Nat) : Nat :=
  match op with
  | .add => (old + v) % 2^(8 * n)
  | .min => if u then min old v else if signedOf n old ≤ signedOf n v then old else v
  | .max => if u then max old v else if signedOf n old ≤ signedOf n v then v else old
  | .and => old &&& v
  | .or => old ||| v
  | .xor => old ^^^ v
  | .exch => v

/-! ## Views -/

/-- A read-modify-write on a memory: lane, address, operand. -/
def rmwOn (op : AtomOp) (u : Bool) (n : Nat) (m : List Host.Cell) (x : Nat × Nat × Nat) : List Host.Cell :=
  writeBytes m x.2.1 (bytesOfNat n (atomApply op u n (readNat m x.2.1 n) x.2.2))

/-- A compare-and-swap on a memory: lane, address, compare value, new value. -/
def casOn (n : Nat) (m : List Host.Cell) (x : Nat × Nat × Nat × Nat) : List Host.Cell :=
  if readNat m x.2.1 n = x.2.2.1 then writeBytes m x.2.1 (bytesOfNat n x.2.2.2) else m

/-- One decrement of EXIT.J on a memory (R296): a counter at 0 stays. -/
def decOn (m : List Host.Cell) (a : Nat) : List Host.Cell :=
  if readNat m a 8 = 0 then m else writeBytes m a (bytesOfNat 8 (readNat m a 8 - 1))

/-- What a staged operation does to the memory of a view (R381, R385). -/
def Staged.onView (m : List Host.Cell) : Staged → List Host.Cell
  | .write cs => writeCells m cs
  | .sc _ ls => ls.foldl (fun m x => writeCells m x.2.2) m
  | .rmw op u _ n _ _ ls => ls.foldl (rmwOn op u n) m
  | .cas n _ _ ls => ls.foldl (casOn n) m
  | .dec ls => ls.foldl (fun m x => decOn m x.2) m
  | _ => m

/-- The memory that a group's reads take their values from (R385): its block's view under its staged operations in Solstice
mode, memory otherwise. -/
def State.view (s : State) (g : Group) : List Host.Cell :=
  match Table.get? s.blocks g.blk with
  | some b =>
    match b.base with
    | some v => g.staged.foldl Staged.onView v
    | none => s.mem
  | none => s.mem

end Sys2Proof.Machine
end

