-- ==== Sys2Proof/Machine/Retire.lean ====
section
/-! DEFINITION. The end of things: partition events (R406), completion records (R336, R434), estates formed, evicted and expired
(R35, R300, R327 to R329), blocks retired and terminated (R48, R367). -/

namespace Sys2Proof.Machine

/-! ## Records of the tables -/

def State.group? (s : State) (g : Nat) : Option Group := Table.get? s.groups g
def State.setGroup (s : State) (g : Nat) (r : Group) : State := { s with groups := Table.put s.groups g r }
def State.updGroup (s : State) (g : Nat) (f : Group → Group) : State := { s with groups := Table.upd s.groups g f }
def State.block? (s : State) (b : Nat) : Option Block := Table.get? s.blocks b
def State.setBlock (s : State) (b : Nat) (r : Block) : State := { s with blocks := Table.put s.blocks b r }
def State.updBlock (s : State) (b : Nat) (f : Block → Block) : State := { s with blocks := Table.upd s.blocks b f }
def State.job? (s : State) (j : Nat) : Option Job := Table.get? s.jobs j
def State.setJob (s : State) (j : Nat) (r : Job) : State := { s with jobs := Table.put s.jobs j r }
def State.updJob (s : State) (j : Nat) (f : Job → Job) : State := { s with jobs := Table.upd s.jobs j f }
def State.launch? (s : State) (l : Nat) : Option Launch := Table.get? s.launches l
def State.walker? (s : State) (w : Nat) : Option Walker := Table.get? s.walkers w
def State.updLaunch (s : State) (l : Nat) (f : Launch → Launch) : State := { s with launches := Table.upd s.launches l f }
def State.node? (s : State) (n : Nat) : Option Node := Table.get? s.nodes n
def State.setNode (s : State) (n : Nat) (r : Node) : State := { s with nodes := Table.put s.nodes n r }
def State.updNode (s : State) (n : Nat) (f : Node → Node) : State := { s with nodes := Table.upd s.nodes n f }
def State.vf (s : State) (v : Nat) : Vf := (Table.get? s.vfs v).getD {}
def State.updVf (s : State) (v : Nat) (f : Vf → Vf) : State := { s with vfs := Table.put s.vfs v (f (s.vf v)) }
def State.stream (s : State) (v n : Nat) : Stream := (Table.get? (s.vf v).streams n).getD {}
def State.updStream (s : State) (v n : Nat) (f : Stream → Stream) : State :=
  s.updVf v (fun r => { r with streams := Table.put r.streams n (f ((Table.get? r.streams n).getD {})) })
def State.quad (s : State) (q : Nat) : Quad := (Table.get? s.quads q).getD {}
def State.updQuad (s : State) (q : Nat) (f : Quad → Quad) : State := { s with quads := Table.put s.quads q (f (s.quad q)) }
def State.core (s : State) (c : Nat) : Core := (Table.get? s.cores c).getD {}
def State.updCore (s : State) (c : Nat) (f : Core → Core) : State := { s with cores := Table.put s.cores c (f (s.core c)) }
def State.updPart (s : State) (p : Nat) (f : Part → Part) : State := { s with parts := Table.put s.parts p (f (s.part p)) }

/-- %quad of a core, %die of a quad (R23). -/
def quadOf (core : Nat) : Nat := core / Config.coresPerQuad
def dieOf (quad : Nat) : Nat := quad / Config.quadsPerDie

/-- The next launch identifier of a partition (R23). -/
def State.launchName (s : State) (p : Nat) : W32 := Config.firstLaunch + (s.part p).nextLaunch

/-- The next free value's number (log entry 10). -/
def State.takeFree (s : State) (k : Nat) : Nat × State := (s.free, { s with free := s.free + k })

/-! ## Virtual writes of the device itself -/

/-- Write bytes at a virtual address of partition `p`; none: no translation, no write permission, or an uncorrectable error
(R434). -/
def State.deviceWrite (s : State) (p : Nat) (va : W64) (bs : List Byte) : Option State :=
  if !canonical va then none
  else
    match s.walk p va with
    | .page pg =>
      if pg.w && decide (va.toNat % pg.bytes + bs.length ≤ pg.bytes) && !s.isBadPart (pg.at va) bs.length then
        some (s.store (pg.at va) bs none)
      else none
    | .stop .. => none

/-! ## Partition events -/

/-- The 64 bytes of an event record (R406). -/
def eventBytes (e : Event) : List Byte :=
  bytesOfNat 2 e.code ++ bytesOfNat 1 e.part ++ bytesOfNat 1 e.vf ++ bytesOfNat 2 e.core ++ bytesOfNat 1 e.grp ++
    bytesOfNat 1 e.slot ++ bytesOfNat 4 e.launch.toNat ++ bytesOfNat 4 e.detail.toNat ++ bytesOfNat 8 e.epc1.toNat ++
    bytesOfNat 8 e.cause1 ++ bytesOfNat 8 e.epc2.toNat ++ bytesOfNat 8 e.cause2 ++ bytesOfNat 8 e.eaddr.toNat ++
    bytesOfNat 8 e.einfo.toNat

/-- The ring has room (R406; log entry 20: one slot stays free, as tells a full ring from an empty one). -/
def ringFree (d : Device) : Bool := decide (2 ≤ d.evsize) && (d.evtail + 1) % d.evsize != d.evhead

/-- Write one event to the ring. -/
def State.ringWrite (s : State) (e : Event) : State :=
  let s := s.store (hostBase + s.dev.evbase.toNat % 2^51 + 64 * s.dev.evtail) (eventBytes e) none
  { s with dev := { s.dev with evtail := (s.dev.evtail + 1) % s.dev.evsize } }

/-- Report a partition event: in the ring, kept while the ring is full, or counted (R406). -/
def State.event (s : State) (e : Event) : State :=
  if ringFree s.dev && s.dev.kept.isEmpty then s.ringWrite e
  else if s.dev.kept.length < Config.keptEvents then { s with dev := { s.dev with kept := s.dev.kept ++ [e] } }
  else { s with dev := { s.dev with evlost := s.dev.evlost + 1 } }

/-- Move kept events to the ring while it has room. -/
def State.drainEvents (s : State) : Nat → State
  | 0 => s
  | n + 1 =>
    match s.dev.kept with
    | [] => s
    | e :: r => if ringFree s.dev then ({ s with dev := { s.dev with kept := r } }.ringWrite e).drainEvents n else s

/-! ## Estates -/

/-- The stream's most recently started launch whose record has not been written (R336); launches are numbered in the order in
which they start. -/
def State.countingLaunch (s : State) (v n : Nat) : Option Nat :=
  ((s.launches.filter (fun l => l.2.vf == v && l.2.stream == n && l.2.started && !l.2.finished)).getLast?).map (·.1)

/-- Count a spill or a discard in the record that counts it (R336). -/
def State.countEstate (s : State) (v n : Nat) (spilled : Bool) : State :=
  match s.countingLaunch v n with
  | some l => s.updLaunch l (fun r =>
      if spilled then { r with spilled := r.spilled + 1 } else { r with discarded := r.discarded + 1 })
  | none => s.updStream v n (fun r =>
      if spilled then { r with owedSpilled := r.owedSpilled + 1 } else { r with owedDiscarded := r.owedDiscarded + 1 })

/-- The 128 bytes of a spilled estate (R300). -/
def estateBytes (e : Estate) (reason : Nat) : List Byte :=
  let pad (k : Nat) (l : List Byte) : List Byte := (l ++ List.replicate k 0).take k
  bytesOfNat 8 e.wid.toNat ++ bytesOfNat 2 e.tag.toNat ++ bytesOfNat 1 e.regs.length ++ bytesOfNat 1 reason ++
    bytesOfNat 4 e.estgen.toNat ++ pad 16 (e.regs.map (fun r => BitVec.ofNat 8 r.1)) ++
    pad 16 (e.regs.map (fun r => r.2.tag.zeroExtend 8)) ++ pad 64 (e.regs.flatMap (fun r => bytesOfNat 4 r.2.val.toNat)) ++
    List.replicate 16 0

/-- Write an estate to its giving launch's spill region (R300): the state and whether it was spilled. -/
def State.spillEstate (s : State) (e : Estate) (reason : Nat) : State × Bool :=
  match s.launch? e.launch with
  | none => (s, false)
  | some l =>
    if l.spillSize < l.spillNext + 128 then (s, false)
    else
      match s.deviceWrite l.part (l.spillBase + BitVec.ofNat 64 l.spillNext) (estateBytes e reason) with
      | none => (s, false)
      | some s' => (s'.updLaunch e.launch (fun r => { r with spillNext := r.spillNext + 128 }), true)

/-- The directory entry of an estate becomes "spilled" (R328); a captured will has none. -/
def State.noteSpilled (s : State) (e : Estate) : State :=
  if e.captured || e.waits then s
  else s.updPart e.part (fun p => { p with spilled := p.spilled.filter (· != (e.tag, e.wid)) ++ [(e.tag, e.wid)] })

/-- An estate or captured will leaves its slot: for its giving launch's spill region, or for nothing (R300, R328, R329). -/
def State.giveUp (s : State) (e : Estate) (reason : Nat) : State × Bool :=
  let s := { s with estates := s.estates.filter (fun x => x.order != e.order) }
  match s.spillEstate e reason with
  | (s, true) => (s.noteSpilled e, true)
  | (s, false) => (s, false)

/-- Evict an estate or captured will under pressure: REASON 2, counted in the giving stream's counting launch (R329, R336). -/
def State.evict (s : State) (e : Estate) : State :=
  let (s, sp) := s.giveUp e 2
  s.countEstate e.vf e.stream sp

/-- The least-recently-willed of a list of estates (R329). -/
def oldest : List Estate → Option Estate
  | [] => none
  | e :: r =>
    match oldest r with
    | none => some e
    | some x => if e.order < x.order then some e else some x

/-- The owner of a quad port in the active layout (R398). -/
def ownerOf (d : Device) (q : Nat) : Nat := Sparse.get 0xFF d.pown q

/-- The partition that a quad serves: its owner, or the borrower of a loan (R398, R403). -/
def holderOf (d : Device) (q : Nat) : Nat :=
  match d.loans.find? (fun l => l.quads.contains q) with
  | some l => l.borrower
  | none => ownerOf d q

/-- Logical quads that serve a partition, ascending (R396, R398, R403); an absent one serves none (R416). -/
def partQuads (d : Device) (p : Nat) : List Nat :=
  ((d.pown.map (·.1)).filter (fun q => decide (q < 80) && holderOf d q == p && !d.absent.contains q))

/-- Cores of a partition, ascending. -/
def partCores (d : Device) (p : Nat) : List Nat :=
  (partQuads d p).flatMap (fun q => (List.range Config.coresPerQuad).map (q * Config.coresPerQuad + ·))

/-- The partition is on chip: neither SAVED nor suspended (R374). -/
def State.onChip (s : State) (p : Nat) : Bool :=
  match (s.part p).st with
  | .running | .quiescing => true
  | _ => false

/-- The block is on its core: its partition is on chip, and it is in no detached slice (R374, R403). -/
def State.resides (s : State) (b : Block) : Bool := s.onChip b.part && b.detached.isNone

/-- Estates and captured wills that a core holds (R32, R327). -/
def State.estatesOn (s : State) (c : Nat) : List Estate :=
  s.estates.filter (fun e => e.core == c && s.onChip e.part && e.slice.isNone)

/-- Heartwood blocks of a core that estates and captured wills take (R327). -/
def State.estateBlocks (s : State) (c : Nat) : Nat := ((s.estatesOn c).length + 7) / 8

/-- Heartwood blocks of a core that reservations hold (R317). -/
def State.reservedBlocks (s : State) (c : Nat) : Nat :=
  (s.blocks.filter (fun b => b.2.core == c && !b.2.gone && s.resides b.2)).foldl (fun acc b => acc + b.2.reserved) 0

/-- Heartwood blocks of a core outside the node reserve that nothing holds (R317). -/
def State.freeHeart (s : State) (c : Nat) : Nat :=
  Config.heartwoodBlocks - Config.nodeReserve - s.reservedBlocks c - s.estateBlocks c

/-- Capture a will in a slot of its core (R327): with no slot and no free block, the least-recently-willed unclaimed estate of
the core gives up its slot, which may be the new one. -/
def State.captureWill (s : State) (e : Estate) : State :=
  let e := { e with order := s.nextWill }
  let mine := s.estatesOn e.core
  let s := { s with nextWill := s.nextWill + 1, estates := s.estates ++ [e] }
  if mine.length % 8 != 0 || decide (0 < Config.heartwoodBlocks - Config.nodeReserve - s.reservedBlocks e.core - mine.length / 8) then s
  else
    match oldest (List.filter (fun (x : Estate) => !x.claimed) (mine ++ [e])) with
    | some x => s.evict x
    | none => s

/-- Same directory key in one partition (R328). -/
def sameKey (a b : Estate) : Bool := a.part == b.part && a.tag == b.tag && a.wid == b.wid

/-- Directory slice of an estate among the cores of its partition (R328). -/
def State.sliceOf (s : State) (e : Estate) : Nat := Config.directoryHash e.tag e.wid % max 1 (partCores s.dev e.part).length

/-- Take an estate or captured will out of the machine, counted as discarded (R390). -/
def State.discard (s : State) (e : Estate) : State :=
  ({ s with estates := s.estates.filter (fun x => x.order != e.order) }).countEstate e.vf e.stream false

/-- Change an estate. -/
def State.updEstate (s : State) (k : Nat) (f : Estate → Estate) : State :=
  { s with estates := s.estates.map (fun e => if e.order = k then f e else e) }

/-- The entries of the directory slice of an estate (R328): claimed estates keep theirs; spilled ones take none (log entry 96). -/
def State.sliceEntries (s : State) (e : Estate) : List Estate :=
  s.estates.filter (fun x => !x.captured && !x.waits && x.slice.isNone && x.part == e.part && s.sliceOf x == s.sliceOf e)

/-- The directory entry of an estate is written (R328): not while its tag and key name a claimed estate; a full slice gives up its
least-recently-willed estate, and has no room where all of its estates are claimed (log entry 96). -/
def State.enterEstate (s : State) (e : Estate) : State :=
  let write (s : State) : State :=
    let s := s.updEstate e.order (fun x => { x with waits := false })
    if !(s.part e.part).spilled.contains (e.tag, e.wid) then s
    else s.updPart e.part (fun p => { p with spilled := p.spilled.filter (· != (e.tag, e.wid)) })
  if s.estates.any (fun x => x.claimed && sameKey x e) then s
  else if (s.sliceEntries e).length < Config.directoryEntries then write s
  else
    match oldest ((s.sliceEntries e).filter (fun x => !x.claimed)) with
    | some old => write (s.evict old)
    | none => s

/-- Estates whose entries wait, in the order of their wills, are entered where that can be (R328). -/
def State.enterWaiting (s : State) : State := (s.estates.filter (·.waits)).foldl (fun s e => s.enterEstate e) s

/-- The lifetime of an estate ends with the launch of its stream whose sequence number is `seq`, a later one than its giver (R35). -/
def Estate.endsWith (e : Estate) (l : Nat) (r : Launch) : Bool :=
  e.part == r.part && e.vf == r.vf && e.stream == r.stream && r.seq == e.estgen + BitVec.ofNat 32 e.life && decide (e.launch < l)

/-- The launch with which the lifetime of an estate ends has finished (R35). -/
def State.lapsed (s : State) (e : Estate) : Bool := s.launches.any (fun l => l.2.finished && e.endsWith l.1 l.2)

/-- An estate is made of a captured will (R48, R336). Where launch g + n has finished already it expires at once; the record of that
launch is written, so the counting launch counts it (R35, R336; log entry 97). -/
def State.makeEstate (s : State) (e : Estate) : State :=
  let s := s.updEstate e.order (fun x => { x with captured := false, waits := true })
  let s := s.updLaunch e.launch (fun r => { r with made := r.made + 1 })
  let e : Estate := { e with captured := false, waits := true }
  if s.lapsed e then
    let (s, sp) := s.giveUp e 1
    s.countEstate e.vf e.stream sp
  else s.enterEstate e

/-- A captured will becomes an estate at its block's retirement (R48, R327, R328, R36). Of two of one launch, which only Solstice
mode admits, the one of the earlier block stands (R390). -/
def State.formEstate (s : State) (e : Estate) : State :=
  match s.estates.find? (fun x => !x.captured && !x.claimed && sameKey x e) with
  | none => s.makeEstate e
  | some old =>
    if old.launch = e.launch then
      if old.index < e.index then s.discard e
      else ((s.discard old).updLaunch e.launch (fun r => { r with made := r.made - 1 })).makeEstate e
    else (s.evict old).makeEstate e

/-- Estates whose lifetime ends with launch `l` expire (R35): REASON 1, counted in its record. -/
def State.expire (s : State) (l : Nat) (r : Launch) : State :=
  let due := s.estates.filter (fun e => !e.captured && !e.claimed && e.endsWith l r)
  due.foldl (fun s e =>
    let (s, sp) := s.giveUp e 1
    s.updLaunch l (fun r => if sp then { r with spilled := r.spilled + 1 } else { r with discarded := r.discarded + 1 })) s

/-! ## Launches end -/

/-- The 64 bytes of a completion record (R336). -/
def recordBytes (status : Nat) (seq : W32) (made inh sp di te field : Nat) : List Byte :=
  bytesOfNat 4 status ++ bytesOfNat 4 seq.toNat ++ bytesOfNat 4 made ++ bytesOfNat 4 inh ++ bytesOfNat 4 sp ++ bytesOfNat 4 di ++
    bytesOfNat 4 te ++ bytesOfNat 4 field ++ List.replicate 32 0

/-- The number of a stream in DETAIL of COMPL_FAULT: graph streams of a die have bit 4 (R434). -/
def streamDetail (v n : Nat) : Nat := if v < Config.vfs then n else n + 16

/-- Write a completion record, or report COMPL_FAULT (R336, R434). -/
def State.writeRecord (s : State) (p v n : Nat) (compl : W64) (status : Nat) (bs : List Byte) : State :=
  match s.deviceWrite p compl bs with
  | some s' => s'
  | none => s.event { code := 0x20A, part := p, vf := if v < Config.vfs then v else 0xFF,
                      detail := BitVec.ofNat 32 (streamDetail v n + 256 * status), eaddr := compl }

/-- The lowest blocks of a launch that have not been placed: those held, and the next (R331, R341). -/
def Launch.unplaced (r : Launch) : List Nat := r.held.map (·.1) ++ (if r.nextBlk < r.hi then [r.nextBlk] else [])

/-- Every commit of a Solstice launch and of its descendants has been released (R384, R430): no block of its tree is left, and no
record that a node holds will be a child of it. -/
def State.allReleased (s : State) (l : Nat) : Bool :=
  s.blocks.all (fun b => b.2.root != some l || (b.2.gone && b.2.commits.all (·.released))) &&
    s.nodes.all (fun n => (n.2.bin ++ n.2.segments.flatMap (·.2)).all (fun h => h.batch.bind (·.root) != some l))

/-- A launch whose blocks have all retired finishes (R337): estates expire, the record is written. -/
def State.finishLaunch (s : State) (l : Nat) : State :=
  match s.launch? l with
  | none => s
  | some r =>
    if r.finished || !r.started || !r.unplaced.isEmpty || r.live != 0 || (r.solstice && !s.allReleased l) then s
    else
      let s := s.expire l r
      let s := s.updLaunch l (fun r => { r with finished := true })
      match s.launch? l with
      | none => s
      | some r =>
        let status := if r.terminated = 0 then 0 else 5
        s.writeRecord r.part r.vf r.stream r.compl status
          (recordBytes status r.seq r.made r.inherited r.spilled r.discarded r.terminated 0)

/-! ## Blocks end -/

/-- A copy barrier's credit of `n` bytes in the phase of a card (R253, R159): the landed count saturates. -/
def CopyBar.credit (c : CopyBar) (phase n : Nat) : CopyBar :=
  if c.phase = phase then { c with landed := min (c.landed + n) (2^32 - 1) } else c

/-- The phase is complete (R253). -/
def CopyBar.complete (c : CopyBar) : Bool := decide (c.expect ≤ c.landed)

/-- Groups of a block that have not retired. -/
def State.liveGroups (s : State) (b : Nat) : List (Nat × Group) :=
  s.groups.filter (fun g => g.2.blk == b && g.2.st != .retired)

/-- The residency of a block ends: its groups and its record leave the tables; with unreleased commits the record stays. -/
def State.dropBlock (s : State) (b : Nat) : State :=
  { s with groups := s.groups.filter (fun g => g.2.blk != b)
           blocks :=
             match s.block? b with
             | some r =>
               if r.commits.all (·.released) then Table.del s.blocks b
               else Table.upd s.blocks b (fun r => { r with gone := true, tiles := [], reserved := 0 })
             | none => s.blocks }

/-- A launch of Solstice mode at the root of a tree finishes, if it can now (R384, R430). -/
def State.finishRoot (s : State) : Option Nat → State
  | some l => s.finishLaunch l
  | none => s

/-- One block is over: of a launch, or a child in the tree of one. -/
def State.blockOver (s : State) (r : Block) : State :=
  match r.launch with
  | some l => (s.updLaunch l (fun x => { x with live := x.live - 1 })).finishLaunch l
  | none => s.finishRoot r.root

/-- A staged operation holds a translation (R358). -/
def Staged.mem : Staged → Bool
  | .write _ | .sc .. | .rmw .. | .cas .. | .dec _ => true
  | _ => false

/-- Some staged access of the partition has not committed (R358). -/
def State.stagedIn (s : State) (p : Nat) : Bool :=
  s.groups.any (fun g => (match s.block? g.2.blk with | some b => b.part == p | none => false) && g.2.staged.any Staged.mem)

/-- A shootdown of TLBSD is complete when no staged access of the partition is left (R357, R358). -/
def State.shootdown (s : State) (p : Nat) : State :=
  if (s.part p).tlbsd && !s.stagedIn p then s.updPart p (fun r => { r with tlbsd := false }) else s

/-- A block retires when all its groups have retired and every job it issued has completed (R48), and in Solstice mode when it has seen
what they tell it (R382). -/
def State.retireBlock (s : State) (b : Nat) : State :=
  match s.block? b with
  | none => s
  | some r =>
    if r.gone || !(s.liveGroups b).isEmpty || s.groups.any (fun g => g.2.blk == b && !g.2.staged.isEmpty) || s.jobs.any (fun j => j.2.blk == b) ||
        !r.later.isEmpty then s
    else
      let wills := s.estates.filter (fun e => e.captured && e.blk == b)
      let s := wills.foldl (fun s e => s.formEstate e) s
      (s.dropBlock b).blockOver r

/-- Free the replay entry and the table place of a job. -/
def Quad.dropJob (q : Quad) (j : Nat) : Quad :=
  { q with replay := q.replay.filter (fun x => x.2 != j), table := q.table.filter (· != j) }

/-- A feedback job that has started (R276, R279). -/
def Job.feeds (j : Job) : Bool :=
  match j.kind with
  | .autoFb .. => j.st == .running
  | _ => false

/-- Stop every job of a block (R367): stopped jobs count as complete for edges, a feedback job that has started for FBC (log entry
91). -/
def State.stopJobs (s : State) (b : Nat) : State :=
  let mine := (s.jobs.filter (fun j => j.2.blk == b)).map (·.1)
  let fed (q : Nat) : Nat := (s.jobs.filter (fun j => j.2.blk == b && j.2.quad == q && j.2.feeds)).length
  { s with jobs := s.jobs.filter (fun j => j.2.blk != b)
           quads := Table.mapAll s.quads (fun k q =>
             let q : Quad := mine.foldl (fun q j => q.dropJob j) q
             { q with lathe := { q.lathe with fbc := q.lathe.fbc + BitVec.ofNat 48 (fed k) } }) }

/-- Block termination (R367): `code`, `epc` the first cause; `g` the group. -/
def State.terminateBlock (s : State) (b g : Nat) (code : Nat) (epc eaddr einfo : W64) : State :=
  match s.block? b with
  | none => s
  | some r =>
    let gr := (s.group? g).getD { blk := b }
    let s := s.stopJobs b
    let s := { s with estates := s.estates.filter (fun e => !(e.captured && e.blk == b)) }
    let s :=
      match r.launch with
      | some l => s.updLaunch l (fun x => { x with terminated := x.terminated + 1, willed := x.willed.filter (fun w => w.1 != b) })
      | none => s
    let s := (s.dropBlock b).shootdown r.part
    let s := s.event { code := 0x204, part := r.part, vf := r.vf, core := r.core, grp := gr.grp, slot := gr.slot,
                       launch := r.launchId, epc1 := epc, cause1 := code, eaddr := eaddr, einfo := einfo }
    s.blockOver r

/-- A block is terminated from outside (R403, R407, R412): the cause and the addresses are those that its first group last saved
(log entry 59). -/
def State.killBlock (s : State) (b : Nat) : State :=
  match s.liveGroups b with
  | (g, r) :: _ => s.terminateBlock b g r.ecause.toNat r.epc r.eaddr r.einfo
  | [] => s.terminateBlock b 0 0 0 0 0

/-! ## The end of a virtual function's launches -/

/-- A started launch ends early (R411, R412): its blocks terminate, and those not placed yet count as terminated (log entry 59). -/
def State.endLaunch (s : State) (l : Nat) : State :=
  match s.launch? l with
  | none => s
  | some r =>
    if r.finished then s
    else
    let left := r.held.length + (r.hi - r.nextBlk)
    let s := s.updLaunch l (fun r => { r with held := [], nextBlk := r.hi, terminated := r.terminated + left })
    let mine := (s.blocks.filter (fun b => b.2.launch == some l && !b.2.gone)).map (·.1)
    (mine.foldl State.killBlock s).finishLaunch l

/-- A record of STATUS 6 (R351, R336). -/
def State.barrierRecord (s : State) (p v n : Nat) (compl : W64) : State :=
  s.writeRecord p v n compl 6 (recordBytes 6 (s.stream v n).seq 0 0 0 0 0 0)

/-- A launch that waits at its start barrier ends with STATUS 6 (R351), and so does the graph of a packet, which writes no completion
word (log entry 98). -/
def State.barrierFails (s : State) (l : Nat) : State :=
  match s.launch? l with
  | some r =>
    if r.started || r.finished then s
    else (s.updLaunch l (fun r => { r with finished := true })).barrierRecord r.part r.vf r.stream r.compl
  | none =>
    match s.walker? l with
    | none => s
    | some r =>
      if r.started then s
      else
        let s := ({ s with walkers := Table.del s.walkers l }).updStream r.vf r.stream (fun x => { x with walker := none })
        match r.record with
        | some compl => s.barrierRecord r.part r.vf r.stream compl
        | none => s

/-- Every launch and graph of a virtual function ends (R411, R412): a graph ends without its completion word (log entry 59). -/
def State.endVf (s : State) (v : Nat) : State :=
  let s := (s.walkers.filter (fun w => w.2.owner == v && !w.2.started)).foldl (fun s w => s.barrierFails w.1) s
  let mine := s.walkers.filter (fun w => w.2.owner == v)
  let s : State := { s with walkers := s.walkers.filter (fun w => w.2.owner != v) }
  let s := mine.foldl (fun s w => s.updStream w.2.vf w.2.stream (fun r => { r with walker := none })) s
  let ls := (s.launches.filter (fun l => l.2.owner == v && !l.2.finished)).map (·.1)
  ls.foldl (fun s l => (s.barrierFails l).endLaunch l) s

/-- A locked interface moves to ERROR (R411): its running launches are terminated (R412). -/
def State.vfError (s : State) (v : Nat) : State :=
  match (s.vf v).tdisp with
  | .locked | .run => (s.updVf v (fun r => { r with tdisp := .error })).endVf v
  | _ => s

/-- A DOUBLE_FAULT or MCE_CONTEXT in a partition moves its locked interfaces to ERROR, unless the supervisor holds an attestation
of the layout (R411). -/
def State.suspect (s : State) (p : Nat) : State :=
  if s.dev.attested then s
  else ((s.vfs.filter (fun v => v.2.bind == p)).map (·.1)).foldl State.vfError s

end Sys2Proof.Machine
end

