-- ==== Sys2Proof/Machine/Sapwood.lean ====
section
/-! DEFINITION. Where a group's context lies: residency on a core (R45, R407), the room of the Sapwood and its emergency reserve
(R30, R315, R321 to R323), contexts that enter and leave it (R318 to R320). -/

namespace Sys2Proof.Machine

/-- The partition and the core of a group. -/
def State.partOf (s : State) (g : Group) : Nat := match s.block? g.blk with | some b => b.part | none => 0
def State.coreOf (s : State) (g : Group) : Nat := match s.block? g.blk with | some b => b.core | none => 0

/-- The group occupies a residency slot (R407). -/
def Group.resident (g : Group) : Bool :=
  match g.st with
  | .retired | .saved _ => false
  | _ => true

/-- Groups resident on a core. -/
def State.onCore (s : State) (c : Nat) : List (Nat × Group) :=
  s.groups.filter (fun g => g.2.resident && (match s.block? g.2.blk with | some b => b.core == c && s.resides b | none => false))

/-- A group has its context in the Sapwood. -/
def Group.inSapwood (g : Group) : Bool :=
  match g.st with
  | .active => true
  | .waiting _ | .halted => g.sapwood
  | _ => false

/-- The group holds a part of the emergency reserve. -/
def Group.inReserve (g : Group) : Bool := decide (0 < g.resBlocks) || g.resSlot

/-- Contexts in the Sapwood of a core. -/
def State.seated (s : State) (c : Nat) : List (Nat × Group) := (s.onCore c).filter (fun g => g.2.inSapwood)

/-- Ordinary register blocks that contexts take in the Sapwood of a core (R315). -/
def State.ordinaryUsed (s : State) (c : Nat) : Nat := (s.seated c).foldl (fun acc g => acc + (g.2.budget - g.2.resBlocks)) 0

/-- Room in the Sapwood of core `c` for a context of budget `b` (R315, R322): the reserve blocks that it takes beside the ordinary
ones, and whether it takes the reserve slot; none: it does not fit. Only a reserve-eligible group takes of the reserve, and only
what the ordinary room lacks (log entry 87). -/
def State.seatFor (s : State) (c b : Nat) (eligible : Bool) : Option (Nat × Bool) :=
  let xs := s.seated c
  let reserve := xs.foldl (fun acc g => acc + g.2.resBlocks) 0
  let slots := (xs.filter (fun g => !g.2.resSlot)).length
  let more := b - (Config.sapwoodBlocks - s.ordinaryUsed c)
  if Config.sapwoodSlots ≤ slots && (!eligible || xs.any (fun g => g.2.resSlot)) then none
  else if 0 < more && (!eligible || decide (Config.sapwoodReserve < reserve + more)) then none
  else some (more, decide (Config.sapwoodSlots ≤ slots))

/-- The oldest of a list of groups (R321). -/
def eldest : List (Nat × Group) → Option (Nat × Group)
  | [] => none
  | x :: r =>
    match eldest r with
    | none => some x
    | some y => if y.2.age < x.2.age then some y else some x

/-- The oldest resident group of a core (R321). -/
def State.oldestOn (s : State) (c : Nat) : Option Nat := (eldest (s.onCore c)).map (·.1)

/-- R321's priority of a group: 1 in a handler, 2 the oldest of its core, 3 born from a node; 4: not reserve-eligible (R30). -/
def State.rankOf (s : State) (gid : Nat) (g : Group) : Nat :=
  if g.supervisor then 1
  else if s.oldestOn (s.coreOf g) == some gid then 2
  else
    match s.block? g.blk with
    | some b => if b.node.isSome then 3 else 4
    | none => 4

/-- A context leaves the Sapwood: the latch is empty, what it held of the reserve is free, its reservations are cleared (R46, R99,
R162), but not in Solstice mode (`sol`, R320). -/
def Group.toHeart (g : Group) (sol : Bool) : Group :=
  { g with sapwood := false, resBlocks := 0, resSlot := false, latch := []
           lanes := if sol then g.lanes else g.lanes.map (fun x => { x with resv := none }) }

def State.toHeart (s : State) (gid : Nat) (sol : Bool) : State := s.updGroup gid (fun g => g.toHeart sol)

/-- No estate fetch of the group is in flight (R319, R326). -/
def fetchesLanded (g : Group) : Bool := g.lanes.all (fun x => x.pend.isEmpty)

/-- A context that is to leave the Sapwood leaves it when no estate fetch of the group is in flight (R319). -/
def Group.toHeartFree (g : Group) (sol : Bool) : Group := if fetchesLanded g then g.toHeart sol else g

/-- The group enters WAITING (R45); one that holds a part of the reserve leaves the Sapwood at once (R323). -/
def Group.waits (g : Group) (w : Wait) (sol : Bool) : Group :=
  let g : Group := { g with st := .waiting w }
  if g.inReserve then g.toHeart sol else g

/-- The group's context enters the Sapwood (R322): a PARKED group becomes ACTIVE; a WAITING one is there to take a cause, or to
try its SPAWN.b again. -/
def Group.moveIn (g : Group) : Group :=
  match g.st with
  | .parked => { g with st := .active, sapwood := true }
  | _ => { g with sapwood := true }

/-- A context takes a seat of the Sapwood. -/
def State.seatIn (s : State) (gid : Nat) (seat : Nat × Bool) : State :=
  { s.updGroup gid (fun g => { g.moveIn with resBlocks := seat.1, resSlot := seat.2, since := s.ticks }) with ticks := s.ticks + 1 }

end Sys2Proof.Machine
end

