-- ==== Sys2Proof/Machine/Ops.lean ====
section
/-! DEFINITION. The operations that every meaning is made of: settling a group (R170), its end (R28, R46, R180), meetings (R177 to
R182), taking a cause and leaving a handler (R361 to R368, R310), and the frame around an instruction: the checks of R108, what it
does, its retirement (R95, R99, R100, R172, R378). -/

namespace Sys2Proof.Machine

/-! ## Entries in the machine -/

/-- Entries in use of a block's 32 (R15, R168, R177): the stack, the COMPACT entry, the mixed group's reserved entry. -/
def Block.entries (b : Block) : Nat :=
  b.stack.length + (match b.compact with | none => 0 | some c => if c.spare then 2 else 1)

/-- The entries of group `gid`: its handler segment inside a handler (R366), else its own in the block stack. -/
def State.ownEntries (s : State) (gid : Nat) (g : Group) : List Entry :=
  if g.supervisor then g.hseg
  else
    match s.block? g.blk with
    | some b => b.stack.filter (fun e => e.owner == gid)
    | none => []

/-- Put a group and its entries back. -/
def State.putPath (s : State) (gid : Nat) (x : Group × List Entry) : State :=
  if x.1.supervisor then s.setGroup gid { x.1 with hseg := x.2 }
  else (s.setGroup gid x.1).updBlock x.1.blk (fun b => { b with stack := b.stack.filter (fun e => e.owner != gid) ++ x.2 })

/-- No entry is free for a push by group `g` (R168, R366). -/
def State.stackFull (s : State) (g : Group) : Bool :=
  if g.supervisor then decide (4 ≤ g.hseg.length)
  else
    match s.block? g.blk with
    | some b => decide (Config.stackEntries ≤ b.entries)
    | none => true

/-- Count one retired instruction of a group, up to its quantum (R378), and of its block (R388). QCOUNT stays 0 outside Solstice mode. -/
def State.bump (s : State) (gid : Nat) : State :=
  match s.group? gid with
  | none => s
  | some g =>
    if s.isSolstice g.blk then
      let q := match s.block? g.blk with | some b => b.quantum | none => 0
      (s.updGroup gid (fun g => { g with qcount := min (g.qcount + 1) q })).updBlock g.blk
        (fun b => { b with retiredCount := b.retiredCount + 1 })
    else s

/-- A wait is over at time `t`: the group is ACTIVE from then on where its context lies in the Sapwood, and PARKED otherwise (R46,
R350). -/
def Group.wake (g : Group) (t : Nat) : Group :=
  { g with st := if g.sapwood then .active else .parked, since := if g.sapwood then t else g.since }

/-- A WAITING group resumes: its instruction has completed and retires, and the group advances. The fairness count has taken the
instruction at its issue, in Solstice mode it takes it now (R172). -/
def State.wakeDone (s : State) (gid : Nat) : State :=
  let s' := s.updGroup gid (fun g => { g.wake s.ticks with fair := if s.isSolstice g.blk then g.fair + 1 else g.fair }.advance)
  { s' with ticks := s'.ticks + 1 }.bump gid

/-! ## Budgets and barriers -/

/-- Registers from `lo` on, `n` of them, read as 0, RAW in a lane; their fetches are cancelled (R28, R332). -/
def Lane.zeroRegs (x : Lane) (lo n : Nat) : Lane :=
  let out (r : Nat) : Bool := decide (r < lo) || decide (lo + n ≤ r)
  { x with regs := x.regs.filter (fun p => out p.1), pend := x.pend.filter (fun p => out p.reg), badRegs := x.badRegs.filter (fun p => out p.1) }

/-- A claim of `n` register blocks is served (R191). -/
def Group.claimed (g : Group) (n : Nat) : Group :=
  { g with budget := g.budget + n, lanes := g.lanes.map (fun x => x.zeroRegs (8 * g.budget) (8 * n)) }

/-- The Sapwood has no room for the growth of a context there by `n` blocks (R315, R318). -/
def State.outgrows (s : State) (g : Group) (n : Nat) : Bool :=
  g.sapwood && decide (Config.sapwoodBlocks < s.ordinaryUsed (s.coreOf g) + n)

/-- The claim of group `h` is served; a context whose growth the Sapwood has no room for goes to the Heartwood (R315, R318). -/
def State.serveClaim (s : State) (h n : Nat) : State :=
  s.updGroup h (fun g => if s.outgrows g n then (g.claimed n).toHeart (s.isSolstice g.blk) else g.claimed n)

/-- Serve the claim queue of a block from its head, at most `k` claims (R191). A context that has to move for its claim waits for its
estate fetches (R319; log entry 106). -/
def State.serveClaims (s : State) (b : Nat) : Nat → State
  | 0 => s
  | k + 1 =>
    match s.block? b with
    | none => s
    | some r =>
      match r.claims with
      | [] => s
      | h :: rest =>
        match s.group? h with
        | none => s
        | some g =>
          match g.st with
          | .waiting (.rbtake n) =>
            if n ≤ r.pool && !(s.outgrows g n && !fetchesLanded g) then
              let s := s.updBlock b (fun r => { r with pool := r.pool - n, claims := rest })
              ((s.serveClaim h n).wakeDone h).serveClaims b k
            else s
          | _ => s

/-- Serve every claim of a block that can be served. -/
def State.serveAll (s : State) (b : Nat) : State :=
  match s.block? b with
  | none => s
  | some r => s.serveClaims b r.claims.length

/-- A named barrier whose arrivals reach E completes its phase (R190): the default E counts `live` groups. -/
def NamedBar.check (n : NamedBar) (live : Nat) : NamedBar :=
  match n.count with
  | none => n
  | some c => if (if c = 0 then live else c) ≤ n.arrivals then { phase := n.phase + 1, arrivals := 0, count := none } else n

/-- Complete every barrier phase of a block that is complete. -/
def State.checkBars (s : State) (b : Nat) : State :=
  let live := (s.liveGroups b).length
  s.updBlock b (fun r => { r with nbs := Table.mapAll r.nbs (fun _ n => n.check live) })

/-! ## Causes that fall due -/

/-- A job's cause (R364): its translation fault, its MCE_UNCORRECTABLE, its RNG_WRAP. -/
def DueKind.ofJob : DueKind → Bool
  | .job | .mce | .wrap => true
  | .watchdog | .landed | .entered => false

/-- The group is in WAITING. -/
def Group.isWaiting (g : Group) : Bool := match g.st with | .waiting _ => true | _ => false

/-- WATCHDOG falls due in every ACTIVE, PARKED and WAITING group of a block (R54). -/
def State.watchdogDue (s : State) (b : Nat) : State :=
  let hit (g : Group) : Bool := g.blk == b && (g.st == .active || g.st == .parked || g.isWaiting)
  { s with groups := Table.mapAll s.groups (fun _ g =>
      if hit g then { g with due := g.due ++ [{ kind := .watchdog, code := 0x141 }] } else g) }

/-- A cause falls due for group `gid`; a retired issuer's goes to the lowest group of the block (R364); none left: unresolved. -/
def State.post (s : State) (gid b : Nat) (d : Due) : State :=
  let here : Bool :=
    match s.group? gid with
    | some g => g.blk == b && g.st != .retired
    | none => false
  if here then s.updGroup gid (fun g => { g with due := g.due ++ [d] })
  else
    match s.liveGroups b with
    | (k, _) :: _ => s.updGroup k (fun g => { g with due := g.due ++ [d] })
    | [] => s.terminateBlock b gid d.code (match s.group? gid with | some g => g.pc | none => 0) d.eaddr d.einfo

/-! ## The end of a group -/

/-- A group retires (R28, R46): its budget enters the pool, its entries are free, its due job causes pass on, and outside Solstice
mode claims and barriers are looked at again. -/
def State.retireGroup (s : State) (gid : Nat) : State :=
  match s.group? gid with
  | none => s
  | some g =>
    let s := s.setGroup gid { g with st := .retired, path := 0, em := 0, occ := 0, windows := [], latch := [], due := [] }
    let s := s.updBlock g.blk (fun b => { b with pool := b.pool + g.budget, stack := b.stack.filter (fun e => e.owner != gid) })
    let s := (g.due.filter (fun d => d.kind.ofJob)).foldl (fun s d => s.post gid g.blk d) s
    let s := if s.isSolstice g.blk then s else (s.serveAll g.blk).checkBars g.blk
    s.retireBlock g.blk

/-! ## Meetings -/

/-- Ceiling of a quotient by 32. -/
def groupsFor (n : Nat) : Nat := (n + 31) / 32

/-- The lane context of a work-item that moves: its reservation is cleared (R49, R179). -/
def movedLane (s : State) (p : Nat × Nat) : Lane :=
  match s.group? p.1 with
  | some g => { g.lane p.2 with resv := none }
  | none => {}

/-- Where the meeting places the work-items `t` (taken) and `f` of `k` participants (R178): (participant, lane) of each. -/
def placeItems (k : Nat) (t f : List (Nat × Nat)) : List ((Nat × Nat) × (Nat × Nat)) × List ((Nat × Nat) × (Nat × Nat)) :=
  let gt := groupsFor t.length
  let gf := groupsFor f.length
  let pt := t.mapIdx (fun i x => ((i / 32, i % 32), x))
  let pf :=
    if gt + gf ≤ k then f.mapIdx (fun i x => ((k - gf + i / 32, i % 32), x))
    else
      let n := 32 * (k - gt)
      let base := t.length - 32 * (gt - 1)
      f.mapIdx (fun i x => if i < n then ((gt + i / 32, i % 32), x) else ((gt - 1, base + (i - n)), x))
  (pt, pf)

/-- Lanes that a placement fills in participant `j`. -/
def placedIn (ps : List ((Nat × Nat) × (Nat × Nat))) (j : Nat) : Lanes :=
  maskOf (fun l => ps.any (fun x => x.1 == (j, l)))

/-- Group-level state of a repacked group (R179): s0 to s7, address registers, loops, rounding and enables from the first
participant, the flags of all; s8 to s23 are free values from number `k` on (log entry 10). -/
def Group.repack (g g0 : Group) (flags : W32) (k : Nat) : Group :=
  let s := (List.range 16).foldl (fun acc i => Sparse.set 0 acc (8 + i) (Config.freeWord (k + i))) (g0.s.filter (fun x => decide (x.1 < 8)))
  { g with s := s, a := g0.a, lc := g0.lc, nest := g0.nest, fpstat := (g0.fpstat &&& 0xFF80) ||| flags, stage := g0.stage }

/-- One participant after the placement (R178, R179): `j` its position, its lanes, what it holds and where it goes; its older entries
stay, a vacant one's too, until RJOIN or its retirement (log entry 107), and R169 gives the current one. -/
def meetOne (s : State) (c : Compact) (g0 : Group) (flags : W32) (pt pf : List ((Nat × Nat) × (Nat × Nat))) (target : W64)
    (j gid : Nat) : State :=
  match s.group? gid with
  | none => s
  | some g =>
    let tm := placedIn pt j
    let fm := placedIn pf j
    let (k, s) := s.takeFree 16
    let g := (g.repack g0 flags k)
    let occ := tm ||| fm
    let own := s.ownEntries gid g
    let g := { g with occ := occ, path := occ, em := occ, cur := curOf own occ, st := (g.wake s.ticks).st, since := (g.wake s.ticks).since, fair := 0, latch := [] }
    if occ = 0 then s.setGroup gid { g with pc := c.join, st := .waiting .vacant, sapwood := false }
    else if fm = 0 then s.setGroup gid { g with pc := target }
    else if tm = 0 then s.setGroup gid { g with pc := c.pc + 8 }
    else
      let x := split s.nextEntry gid { g with pc := c.pc } own tm target (c.pc + 8) c.join .br
      { s with nextEntry := s.nextEntry + 1 }.putPath gid x

/-- What the compaction keeps of a participant (R179). -/
def snapOf (gid : Nat) (g : Group) : PartSnap :=
  { gid := gid, s := g.s, a := g.a, lc := g.lc, nest := g.nest, fpstat := g.fpstat }

/-- A BRA.C meeting completes (R178, R179): `parts` the participants in %grp order. -/
def State.meet (s : State) (b : Nat) (c : Compact) (parts : List (Nat × Group)) : State :=
  match parts with
  | [] => s
  | (_, g0) :: _ =>
    let ids := parts.map (·.1)
    let items := parts.flatMap (fun p => (lanesOf p.2.occ).map (fun l => (p.1, l)))
    let guarded (x : Nat × Nat) : Bool := c.arrived.any (fun a => a.1 == x.1 && a.2.getLsbD x.2)
    let (pt, pf) := placeItems parts.length (items.filter guarded) (items.filter (fun x => !guarded x))
    let flags := parts.foldl (fun acc p => acc ||| (p.2.fpstat &&& 0x7F)) (0 : W32)
    let lanes (j : Nat) : List Lane := (List.range 32).map (fun l =>
      match (pt ++ pf).find? (fun x => x.1 == (j, l)) with
      | some x => movedLane s x.2
      | none => {})
    let places := (pt ++ pf).map (fun x => ((ids.getD x.1.1 0, x.1.2), x.2))
    let moved := ids.zipIdx.map (fun x => (x.1, lanes x.2))
    let s1 := moved.foldl (fun s x => s.updGroup x.1 (fun g => { g with lanes := x.2 })) s
    let s1 := ids.foldl State.bump s1
    let s1 := ids.zipIdx.foldl (fun s x => meetOne s c g0 flags pt pf c.target x.2 x.1) s1
    let vacant := ids.zipIdx.filter (fun x => placedIn pt x.2 ||| placedIn pf x.2 == 0)
    s1.updBlock b (fun r => { r with compact := some { c with
      done := true, spare := false, snaps := parts.map (fun p => snapOf p.1 p.2), places := places, joined := vacant.map (·.1) } })

/-- The meeting at BRA.C completes when every participant has arrived (R177). -/
def State.meetCheck (s : State) (b : Nat) : State :=
  match s.block? b with
  | none => s
  | some r =>
    match r.compact with
    | none => s
    | some c =>
      let parts := (s.liveGroups b).filter (fun g => g.2.role == c.role)
      if c.done || parts.isEmpty || !parts.all (fun p => c.arrived.any (fun a => a.1 == p.1) && fetchesLanded p.2) then s
      else s.meet b c parts

/-- One participant after RJOIN (R181), with its current entry by R169; the completion makes no loop-end step (log entry 102). -/
def joinOne (s0 : State) (c : Compact) (g0 : Group) (flags : W32) (s : State) (sn : PartSnap) : State :=
  match s0.group? sn.gid with
  | none => s
  | some g =>
    let back := c.places.filter (fun x => x.2.1 == sn.gid &&
      (match s0.group? x.1.1 with | some h => h.occ.getLsbD x.1.2 | none => false))
    let occ := maskOf (fun l => back.any (fun x => x.2.2 == l))
    let lanes := (List.range 32).map (fun l =>
      match back.find? (fun x => x.2.2 == l) with
      | some x => movedLane s0 x.1
      | none => {})
    s.setGroup sn.gid { g with
      lanes := lanes, occ := occ, path := occ, em := occ, pc := c.join + 8, cur := curOf (s.ownEntries sn.gid g) occ
      st := (g.wake s.ticks).st, since := (g.wake s.ticks).since, fair := 0
      s := g0.s.filter (fun x => decide (x.1 < 8)) ++ sn.s.filter (fun x => decide (8 ≤ x.1))
      a := sn.a, lc := sn.lc, nest := sn.nest, fpstat := (sn.fpstat &&& 0xFF80) ||| flags, stage := g0.stage, latch := [] }

/-- RJOIN completes when every participant has arrived or is vacant (R181). -/
def State.joinCheck (s : State) (b : Nat) : State :=
  match s.block? b with
  | none => s
  | some r =>
    match r.compact with
    | none => s
    | some c =>
      if !c.done || !c.snaps.all (fun sn => c.joined.contains sn.gid &&
          (match s.group? sn.gid with | some g => fetchesLanded g | none => true)) then s
      else
        match c.snaps.head?.bind (fun sn => s.group? sn.gid) with
        | none => s
        | some g0 =>
          let flags := c.snaps.foldl (fun acc sn =>
            match s.group? sn.gid with
            | some g => acc ||| (g.fpstat &&& 0x7F)
            | none => acc) (0 : W32)
          let came := c.snaps.filter (fun sn =>
            match s.group? sn.gid with
            | some g => g.st == .waiting .rjoin
            | none => false)
          let s1 := c.snaps.foldl (joinOne s c g0 flags) s
          let s1 := s1.updBlock b (fun r => { r with compact := none })
          let s1 := came.foldl (fun s sn => s.bump sn.gid) s1
          c.snaps.foldl (fun s sn =>
            match s.group? sn.gid with
            | some g => if g.occ = 0 then s.retireGroup sn.gid else s
            | none => s) s1

/-- Meetings of a block that can complete, outside Solstice mode (R182). -/
def State.meetings (s : State) (b : Nat) : State :=
  if s.isSolstice b then s else (s.meetCheck b).joinCheck b

/-- The group is a participant of its block's outstanding compaction (R180). -/
def State.inCompaction (s : State) (gid : Nat) (g : Group) : Bool :=
  match s.block? g.blk with
  | some b =>
    match b.compact with
    | some c => c.done && c.snaps.any (fun sn => sn.gid == gid)
    | none => false
  | none => false

/-- The last occupied lane of a group has exited (R170, R176, R180): a vacant participant takes no Sapwood space (R326). -/
def State.groupEnds (s : State) (gid : Nat) (g : Group) : State :=
  if s.inCompaction gid g then
    let s := s.updGroup gid (fun g => ({ g with st := .waiting .vacant } : Group).toHeart (s.isSolstice g.blk))
    let s := s.updBlock g.blk (fun b => { b with compact := b.compact.map (fun c => { c with
      joined := c.joined ++ [gid], places := c.places.filter (fun x => x.1.1 != gid) }) })
    s.meetings g.blk
  else (s.retireGroup gid).meetings g.blk

/-- A group settles, and retires or becomes vacant when no path is left (R170). -/
def State.settleGroup (s : State) (gid : Nat) : State :=
  match s.group? gid with
  | none => s
  | some g =>
    let x := settle g (s.ownEntries gid g)
    let s := s.putPath gid x
    if x.1.path = 0 && !x.1.supervisor then s.groupEnds gid x.1 else s

/-! ## Taking a cause -/

/-- HVEC of the group's partition, which EVEC reads (R24, R408). -/
def State.hvec (s : State) (g : Group) : W64 :=
  match s.block? g.blk with
  | some b => (s.part b.part).hvec
  | none => 0

/-- A cause at supervisor level (R368): the group becomes HALTED at the second fault's PC and the supervisor is told. Its open
results land and it leaves the Sapwood (R45, R98) once no estate fetch of it is in flight (R319; log entry 108); its latch and
reservations go as at every trap (R99, R162). -/
def State.doubleFault (s : State) (gid : Nat) (g : Group) (code : Nat) (epc : W64) : State :=
  let b := (s.block? g.blk).getD { part := 0, core := 0, launch := none }
  let h := g.landAll
  let h : Group := { h with st := .halted, pc := epc, latch := [], lanes := h.lanes.map (fun x => { x with resv := none }) }
  ((s.setGroup gid (h.toHeartFree false)).event
    { code := 0x203, part := b.part, vf := b.vf, core := b.core, grp := g.grp, slot := g.slot, launch := b.launchId,
      epc1 := g.epc, cause1 := g.ecause.toNat, epc2 := epc, cause2 := code, eaddr := g.eaddr, einfo := g.einfo }).suspect b.part

/-- A handler address that the machine can enter (R365). -/
def goodVector (v : W64) : Bool := v != 0 && canonical v && decide (v.toNat % 8 = 0)

/-- A group takes a cause (R365): a double fault at supervisor level, block termination without a handler, else the handler. -/
def State.take (s : State) (gid : Nat) (t : Trap) (epc info : W64) : State :=
  match s.group? gid with
  | none => s
  | some g =>
    if g.supervisor then s.doubleFault gid g t.code epc
    else if !goodVector (s.hvec g) then s.terminateBlock g.blk gid t.code epc t.eaddr info
    else s.setGroup gid (g.enter t epc (s.hvec g) info)

/-- A parked job of an ENGINE_XLATE may go on: it translates again at its next byte (R370). -/
def State.unpark (s : State) (j : Nat) : State :=
  match s.job? j with
  | none => s
  | some r =>
    match r.st with
    | .parked _ =>
      (s.updJob j (fun r => { r with st := .running, fault := none })).updQuad r.quad
        (fun q => { q with replay := q.replay.filter (fun x => x.2 != j) })
    | _ => s

/-- The handler of a group ends with no lane unresolved (R310, R370). -/
def State.handlerDone (s : State) (gid : Nat) : State :=
  match s.group? gid with
  | none => s
  | some g =>
    let s := s.setGroup gid g.leave
    match g.serving with
    | some j => s.unpark j
    | none => s

/-- What a trap during a wait undoes (R182, R190, R191, R387): outside Solstice mode a claim behind one that leaves is looked at. -/
def State.cancelWait (s : State) (gid : Nat) (g : Group) (w : Wait) : State :=
  match w with
  | .named n true =>
    s.updGroup gid (fun g => { g with bars := Table.put g.bars n { (Table.get? g.bars n).getD {} with standing := true } })
  | .rbtake _ =>
    let s := s.updBlock g.blk (fun b => { b with claims := b.claims.filter (· != gid) })
    if s.isSolstice g.blk then s else s.serveAll g.blk
  | .braC => s.updBlock g.blk (fun b => { b with compact := b.compact.bind (fun c =>
      let left := c.arrived.filter (fun a => a.1 != gid)
      if left.isEmpty then none else some { c with arrived := left }) })
  | .rjoin => s.updBlock g.blk (fun b => { b with compact := b.compact.map (fun c =>
      { c with joined := c.joined.filter (· != gid) }) })
  | .spawn _ => s.updGroup gid (fun g => { g with staged := g.staged.filter (fun x => match x with | .spawn .. => false | _ => true) })
  | _ => s

/-- Rank of a due cause (R364). -/
def DueKind.rank : DueKind → Nat
  | .mce | .landed | .entered => 0 | .watchdog => 1 | .job => 2 | .wrap => 3

/-- The first due cause by rank, and the rest (R364). -/
def firstDue : List Due → Option (Due × List Due)
  | [] => none
  | d :: r =>
    match firstDue r with
    | none => some (d, [])
    | some (e, rest) => if d.kind.rank ≤ e.kind.rank then some (d, r) else some (e, d :: rest)

/-- The first error of a result that has landed, and the other due causes (R97). -/
def firstLanded : List Due → Option (Due × List Due)
  | [] => none
  | d :: r => if d.kind = .landed then some (d, r) else (firstLanded r).map (fun x => (x.1, d :: x.2))

/-- The cause that the group's next boundary takes, and the rest: in a handler only the error of a landed result, which is no A-kind
cause (R97, R362, R366). -/
def Group.nextDue (g : Group) : Option (Due × List Due) := if g.supervisor then firstLanded g.due else firstDue g.due

/-- The group may take a due cause now: one that its level takes, its context in the Sapwood, neither halted, saved, retired nor
vacant (R46, R364, R366). -/
def Group.canTake (g : Group) : Bool :=
  g.nextDue.isSome &&
    (match g.st with
     | .active => true
     | .waiting .vacant => false
     | .waiting _ => g.sapwood
     | _ => false)

/-- A due cause as it is taken. -/
def Due.trap (d : Due) : Trap :=
  { code := d.code, mask := d.mask, eaddr := d.eaddr, einfo := some d.einfo, elpc := d.elpc, job := d.job }

/-- Deliver the first due cause at the group's boundary (R364). A wait ends without completing; a group at the end of its quantum
issues its handler, and is at the end of its quantum again after it (R379, R387; log entry 109). -/
def State.deliver (s : State) (gid : Nat) (g : Group) : State :=
  match g.nextDue with
  | none => s
  | some (d, rest) =>
    let s := s.setGroup gid { g with
      due := rest, st := .active, past := g.quantumDone, since := if g.isWaiting then s.ticks else g.since }
    let s :=
      match g.st with
      | .waiting w => s.cancelWait gid g w
      | _ => s
    s.take gid d.trap g.pc d.einfo

/-! ## Lookahead -/

/-- The points at which every open result of the group lands before the instruction acts (R95, event 5). In Solstice mode (`sol`)
every SPAWN is one: each instruction that can put the group in WAITING is (R292). -/
def landsAt (sol : Bool) : Instr → Bool
  | .exit _ | .exitJ _ | .braC _ | .rjoin _ | .bar _ | .barw _ | .cbwait _ | .autoFence _ | .rbtake _ | .rbgive _ | .jwait _
  | .yield _ | .eret _ | .qend _ => true
  | .spawn _ b _ _ _ _ => b || sol
  | _ => false

/-- The group as it reaches instruction `i` (R95). -/
def Group.reach (g : Group) (sol : Bool) (i : Instr) : Group := if landsAt sol i then g.landAll else g

/-- LA of a form that carries one (R94). -/
def laOf : Instr → Nat
  | .idiv f _ | .irem f _ | .fdiv f _ _ | .fsqrt f _ _ | .frcp f | .frsq f | .fsin f | .fcos f | .fexp2 f | .flog2 f
  | .ftanh f | .redg f _ _ _ | .scang f _ _ _ _ | .scanl f _ _ _ | .scanp f _ _ _ => f.la.toNat
  | .sld f _ | .ld f _ | .atom f _ _ _ | .cas f | .ll f _ | .sc f _ => f.la.toNat
  | _ => 0

/-- Long-latency float forms (R129). -/
def floatLong : Instr → Bool
  | .fdiv .. | .fsqrt .. | .frcp _ | .frsq _ | .fsin _ | .fcos _ | .fexp2 _ | .flog2 _ | .ftanh _ | .scanl .. | .scanp .. => true
  | .redg _ _ ty _ => ty == .f32
  | .scang _ _ _ ty _ => ty == .f32
  | _ => false

/-- LA as it acts (R98, R129). -/
def effLa (g : Group) (i : Instr) : Nat :=
  if g.moveDue || decide (Config.fairness ≤ g.fair) || (floatLong i && fpTraps g.fpstat != 0) then 0 else laOf i

/-- The format A fields of a form that may hold a vector register (R99); CVT and SEL apart: `holdOf`. -/
def holdFields : Instr → Option FA
  | .smov f .sv | .mov f _ | .iadd (.a f) _ _ | .iadd3 f _ | .isub f _ _ | .imul (.a f) _ _ _
  | .imad f _ _ _ | .idiv f _ | .irem f _ | .imin f _ | .imax f _ | .iabs f _ _ | .isad f _ | .and (.a f) _ | .or (.a f) _
  | .xor (.a f) _ | .andn f _ | .shl (.a f) | .shr (.a f) | .sar (.a f) | .rot (.a f) | .popc f | .clz f | .brev f | .bfx f _
  | .bfi f | .icmp (.a f) _ _ | .pmov f .pv | .fadd (.a f) _ | .fsub f _ | .fmul (.a f) _ | .ffma f _ | .fmin f _ _ | .fmax f _ _
  | .fcmp f _ _ _ | .fclass f _ _ | .frnd f _ | .fdiv f _ _ | .fsqrt f _ _ | .frcp f | .frsq f | .fsin f | .fcos f | .fexp2 f
  | .flog2 f | .ftanh f | .pack f _ _ _ | .unpack f _ _ | .bpsplit f _ | .bpjoin f _ _ | .tagset f _ | .tagget f | .shfl (.a f) _ _ _
  | .redg f _ _ _ | .scang f _ _ _ _ | .rng f _ | .rqscale f _ | .rquant f | .rdeq f | .scanl f _ _ _ | .scanp f _ _ _
  | .spawn f _ _ _ _ _ => some f
  | _ => none

/-- HS and HE of format A: entry and register. -/
def FA.hold (f : FA) : Option (Nat × Nat) :=
  match f.hs.toNat with
  | 1 => some (f.he.toNat, f.a.toNat)
  | 2 => some (f.he.toNat, f.b.toNat)
  | 3 => some (f.he.toNat, f.c.toNat)
  | _ => none

/-- The latch entry and the vector register of a hold (R99); a hold of SEL's predicate holds none (log entry 86). -/
def holdOf : Instr → Option (Nat × Nat)
  | .cvt _ _ a hs he _ _ => if hs then some (he.toNat, a.toNat) else none
  | .sel f => if f.hs = 3 then none else Sys2Proof.Machine.FA.hold f
  | i => (holdFields i).bind Sys2Proof.Machine.FA.hold

/-! ## The frame around an instruction -/

/-- What an instruction's body answers. -/
inductive Res where
  /-- the instruction completes; the group advances in sequence -/
  | done (s : State)
  /-- the instruction completes and has set the PC -/
  | jump (s : State)
  /-- the instruction completes and advances; its result lands when its window closes (R95) -/
  | late (s : State) (ls : List Landing) (bad : Option (Lanes × W64 × Nat))
  /-- the instruction completes and advances; its result lands at the block quantum end that commits it (R386) -/
  | lateEnd (s : State)
  /-- a P-kind cause: the instruction does not retire; `s` holds what stands (the flags of R129) -/
  | trap (s : State) (t : Trap)
  /-- an N-kind cause: the instruction completes and advances, then the cause is taken (R361) -/
  | after (s : State) (t : Trap)
  /-- the same, with the PC already set -/
  | jumpAfter (s : State) (t : Trap)
  /-- the group enters WAITING at the instruction, or has left this instruction's path; nothing retires -/
  | wait (s : State)
  /-- the instruction does not issue now (R160, R290, R332) -/
  | stall

/-- A half of a dual word names an unclaimed register. Its other checks are made half by half (R105); step 7 of R108 comes before
R184's convergence. -/
def dualUnclaimed (g : Group) : Instr → Bool
  | .dualWord _ h0 h1 => regUnclaimed g (halfUse ⟨0, false⟩ h0) || regUnclaimed g (halfUse ⟨0, false⟩ h1)
  | _ => false

/-- Steps 5 to 8 of R108 and R184's convergence. -/
def preCheck (i : Instr) (u : Use) (g : Group) : Option Nat :=
  if privFails g i then some 0x008
  else if i.oddPair then some 0x002
  else if regUnclaimed g u || (g.atLoopEnd && !g.converged && dualUnclaimed g i) then some 0x005
  else if (u.scalar || g.atLoopEnd) && !g.converged then some 0x004
  else none

/-- Lanes of a set in which some register of a list of sources is pending (R332). -/
def pendingIn (g : Group) (m : Lanes) (srcs : List Src) : Bool :=
  (lanesOf m).any (fun l => (g.lane l).pend.any (fun p => srcs.any (fun x => decide (x.reg ≤ p.reg) && decide (p.reg < x.reg + x.n))))

/-- MCE_UNCORRECTABLE for a read of registers in error: the lowest such register, its structure, its lanes (R332, R372). -/
def badTrapOf (g : Group) (m : Lanes) (hit : Nat → Nat → Bool) : Option Trap :=
  match (lanesOf m).flatMap (fun l => (g.lane l).badRegs.filter (fun x => hit l x.1)) with
  | [] => none
  | r :: rest =>
    let k := rest.foldl (fun acc x => if x.1 < acc.1 then x else acc) r
    some { code := 0x280, mask := some (maskOf (fun l => m.getLsbD l && hit l k.1 && (g.lane l).badRegs.any (fun x => x.1 == k.1)))
           einfo := some (BitVec.ofNat 64 (256 * k.1 + k.2)) }

/-- The same for sources of an instruction. -/
def badIn (g : Group) (m : Lanes) (srcs : List Src) : Option Trap :=
  badTrapOf g m (fun _ r => srcs.any (fun x => decide (x.reg ≤ r) && decide (r < x.reg + x.n)))

/-- MCE_UNCORRECTABLE for a read of group-wide registers in error: EINFO the lowest such register, in the Sapwood (R372). -/
def badGroup (bad reads : List Nat) : Option Trap :=
  ((bad.filter reads.contains).min?).map (fun r => { code := 0x280, einfo := some (BitVec.ofNat 64 (256 * r + 5)) })

/-- The same for predicates: the guard in the enabled lanes, operands in the active ones (R372). -/
def badPred (g : Group) (act : Lanes) (i : Instr) : Option Trap :=
  let gd := (useOf i).guard.pg.toNat
  let hit (l p : Nat) : Bool := (g.em.getLsbD l && p == gd) || (act.getLsbD l && (predReads i).contains p)
  (((List.range 32).flatMap (fun l => (g.lane l).badPreds.filter (hit l))).min?).map (fun p =>
    { code := 0x280, mask := some (maskOf (fun l => hit l p && (g.lane l).badPreds.contains p))
      einfo := some (BitVec.ofNat 64 (256 * p + 5)) })

/-- What an instruction reads: its sources and the register that it holds (R332). -/
def readsOf (i : Instr) : List Src :=
  (useOf i).srcs ++ (match holdOf i with | some (_, r) => [{ reg := r }] | none => [])

/-- The first operand of an instruction that is in uncorrectable error (R372): scalar, address and predicate registers, then vector
registers (log entry 88). -/
def badRead (g : Group) (act : Lanes) (i : Instr) : Option Trap :=
  match badGroup g.badScal (scalarReads i) with
  | some t => some t
  | none =>
    match badGroup g.badAddr (addrReads i) with
    | some t => some t
    | none =>
      match badPred g act i with
      | some t => some t
      | none => badIn g act (readsOf i)

/-- The vector registers that an instruction reads, the halves of a dual word with them. -/
def vecReads (i : Instr) : List Nat :=
  let srcs :=
    match i with
    | .dualWord _ h0 h1 => (halfUse ⟨0, false⟩ h0).srcs ++ (halfUse ⟨0, false⟩ h1).srcs
    | i => (useOf i).srcs
  srcs.flatMap (fun x => (List.range x.n).map (x.reg + ·))

/-- The other groups of a core may issue again after one has issued (R186). -/
def State.clearYields (s : State) (gid : Nat) (g : Group) : State :=
  match s.block? g.blk with
  | none => s
  | some b =>
    { s with groups := Table.mapAll s.groups (fun k x =>
        if k != gid && x.yielded && (match s.block? x.blk with | some c => c.core == b.core | none => false) then
          { x with yielded := false }
        else x) }

/-- Its own result: with no word left to wait for it lands, otherwise its window opens (R95). -/
def Group.takeResult (g : Group) : Option Window → Group
  | none => g
  | some w => if w.left = 0 then g.land w else { g with windows := g.windows ++ [w] }

/-- The hold latch after an instruction (R99, R325): an entry that served a read serves one less, and a hold fills its entry for
two reads. -/
def Group.holds (g : Group) (i : Instr) : Group :=
  let left := (g.latch.map (fun x => if (vecReads i).contains x.2.1 then (x.1, x.2.1, x.2.2 - 1) else x)).filter (fun x => x.2.2 != 0)
  match holdOf i with
  | some (e, r) => { g with latch := left.filter (fun x => x.1 != e) ++ [(e, r, 2)] }
  | none => { g with latch := left }

/-- A YIELD. -/
def isYield : Instr → Bool
  | .yield _ => true
  | _ => false

/-- The group after an instruction that retires: marks (R100), windows (R95), its own result, hold latch, fairness (R172); only a
YIELD leaves it just after one (R349). `g0` is the group at issue. -/
def Group.retireOne (g g0 : Group) (i : Instr) (res : Option Window) : Group :=
  let g := (((g.release (released (useOf i))).countWindows g0.path).takeResult res).holds i
  let g : Group := { g with yielded := g.yielded && isYield i }
  if g.path = g0.path then { g with fair := g.fair + 1 } else g

/-- An instruction of group `gid` retires (R82, R378). -/
def State.retireInstr (s : State) (gid : Nat) (g0 : Group) (i : Instr) (res : Option Window) : State :=
  ((s.updGroup gid (fun g => g.retireOne g0 i res)).bump gid).clearYields gid g0

/-- Complete in sequence. -/
def State.complete (s : State) (gid : Nat) (g0 : Group) (i : Instr) (res : Option Window) : State :=
  (s.updGroup gid Group.advance).retireInstr gid g0 i res

/-- EINFO of a cause: the word where none is named (R362). -/
def Trap.info (t : Trap) (i : Instr) : W64 :=
  match t.einfo with
  | some x => x
  | none => encode i

/-- An instruction of group `gid` issues and does not retire (R172, R186). -/
def State.countIssue (s : State) (gid : Nat) : State :=
  match s.group? gid with
  | some g => (s.setGroup gid (g.countIssue (s.isSolstice g.blk))).clearYields gid g
  | none => s

/-- What follows from a body's answer. -/
def State.conclude (s : State) (gid : Nat) (g : Group) (i : Instr) : Res → State
  | .done s' => s'.complete gid g i none
  | .jump s' => s'.retireInstr gid g i none
  | .late s' ls bad => s'.complete gid g i (some { pc := g.pc, path := g.path, left := effLa g i, lands := ls, bad := bad })
  | .lateEnd s' => s'.complete gid g i (some { pc := g.pc, path := g.path, left := effLa g i, lands := [], atEnd := true })
  | .trap s' t => (s'.countIssue gid).take gid t g.pc (t.info i)
  | .after s' t =>
    let s' := s'.complete gid g i none
    s'.take gid t (match s'.group? gid with | some h => h.pc | none => g.pc) (t.info i)
  | .jumpAfter s' t =>
    let s' := s'.retireInstr gid g i none
    s'.take gid t (match s'.group? gid with | some h => h.pc | none => g.pc) (t.info i)
  | .wait s' => s'.clearYields gid g
  | .stall => s

/-- Group `gid` issues instruction `i` (R108, steps 5 to 10), its open results landed where they land first. R184's trap comes
before the word issues, the others are of a word that has issued (R172). An operand in error is met where it is read, before step 9
looks at its tag (R372; log entry 88). -/
def State.issueAt (s : State) (gid : Nat) (g : Group) (i : Instr) (body : State → Group → Lanes → Res) : State :=
  let u := useOf i
  match preCheck i u g with
  | some c =>
    (if c = 0x004 && g.atLoopEnd then s else s.countIssue gid).take gid { code := c, einfo := none } g.pc (encode i)
  | none =>
    let act := g.active u.guard
    if pendingIn g act (readsOf i) then s
    else
      match badRead g act i with
      | some t => (s.countIssue gid).take gid t g.pc (t.info i)
      | none =>
        let bad := tagFails g act u.srcs
        if bad ≠ 0 then (s.countIssue gid).take gid { code := 0x100, mask := some bad, einfo := none } g.pc (encode i)
        else s.conclude gid g i (body s g act)

/-- Group `gid` reaches instruction `i` (R95, R97): at a point of event 5 its open results land before the instruction acts; one in
error traps there, with EPC at this instruction. -/
def State.issue (s : State) (gid : Nat) (g : Group) (i : Instr) (body : State → Group → Lanes → Res) : State :=
  if landsAt (s.isSolstice g.blk) i then
    let s := s.setGroup gid g.landAll
    match firstLanded g.landAll.due with
    | some (d, rest) => (s.setGroup gid { g.landAll with due := rest }).take gid d.trap g.pc d.einfo
    | none => s.issueAt gid g.landAll i body
  else s.issueAt gid g i body

/-- An instruction of the group that the step runs. -/
def run (i : Instr) (body : State → Group → Lanes → Res) (s : State) : Host.Outcome State Fault Refusal :=
  match s.group? s.cur with
  | none => .fault .noGroup
  | some g => .next (s.issue s.cur g i body)

/-- An instruction that changes its own group and advances. -/
def runG (i : Instr) (f : Group → Lanes → Group) (s : State) : Host.Outcome State Fault Refusal :=
  run i (fun s g act => .done (s.setGroup s.cur (f g act))) s

end Sys2Proof.Machine
end

