-- ==== Sys2Proof/Machine/Access.lean ====
section
/-! DEFINITION. Accesses of a group: addresses (R230), their checks in R231's order, the range scoreboard (R160), stores in lane
order and their staging in Solstice mode (R146, R381). -/

namespace Sys2Proof.Machine

/-- The group's quad. -/
def State.quadOf (s : State) (g : Group) : Nat := Sys2Proof.Machine.quadOf (s.coreOf g)

/-- The address of an M.g access in a lane (R230). -/
def laneAddr (g : Group) (f : FMg) (l : Nat) : W64 :=
  (g.areg f.ar.toNat).base + (if f.vo = 0 then 0 else ((g.lane l).reg f.vo.toNat).val.signExtend 64) + f.disp.signExtend 64

/-- The address of a group-wide M.g access: the offset register is scalar (R195, R294). -/
def groupAddr (g : Group) (f : FMg) : W64 :=
  (g.areg f.ar.toNat).base + (if f.vo = 0 then 0 else (g.sreg f.vo.toNat).signExtend 64) + f.disp.signExtend 64

/-- Permissions that an access needs (R231), and its ACC code (R363). -/
inductive Need where
  | load
  | store
  | rmw
  /-- the counter address of a SPAWN: checked as a read-modify-write, ACC 7 (R289) -/
  | join
  deriving DecidableEq, Repr

def Need.acc : Need → Nat
  | .load => 0 | .store => 1 | .rmw => 2 | .join => 7

/-- What a need asks of the permissions to read and to write. -/
def Need.allows (n : Need) (r w : Bool) : Bool :=
  match n with
  | .load => r
  | .store => w
  | .rmw | .join => r && w

def Need.ok (n : Need) (pg : Page) : Bool := n.allows pg.r pg.w

/-- Why an address fails, in R231's order: 0 NONCANON, 1 ALIGN, 2 XLATE_MISS with its level and MAL, 3 PROT. -/
structure AddrFail where
  rank : Nat
  level : Nat := 7
  mal : Bool := false
  deriving DecidableEq, Repr

/-- Cause code of a failed check. -/
def AddrFail.code (a : AddrFail) : Nat :=
  match a.rank with
  | 0 => 0x044 | 1 => 0x041 | 2 => 0x040 | _ => 0x042

/-- Check one address (R231), translated through the TLBs: the system address, or the first check that fails. -/
def State.checkAddr (s : State) (p : Nat) (va : W64) (align : Nat) (n : Need) : Except AddrFail Nat :=
  if !canonical va then .error { rank := 0 }
  else if va.toNat % align ≠ 0 then .error { rank := 1 }
  else
    match s.walk p va with
    | .stop l mal => .error { rank := 2, level := l, mal := mal }
    | .page pg => if n.ok pg then .ok (pg.at va) else .error { rank := 3 }

/-- The system address of `n` bytes at `va` through the frame of an address register (R43, R230): an access is fast when it lies below
the limit. A frame translates its own page only; none: the access goes through the TLBs. -/
def AddrReg.fast (x : AddrReg) (d : Device) (p : Nat) (va : W64) (n : Nat) : Option Nat :=
  let off := (va - x.base).toNat
  if off + n ≤ x.limit.toNat ∧ x.base.toNat % x.page + off + n ≤ x.page then sysAddr d p (x.frame.toNat + off) else none

/-- Check one address of an access through address register `x` (R230, R231): both routes apply the same permissions. -/
def State.checkVia (s : State) (p : Nat) (x : AddrReg) (va : W64) (align : Nat) (n : Need) : Except AddrFail Nat :=
  match x.fast s.dev p va align with
  | some a =>
    if !canonical va then .error { rank := 0 }
    else if va.toNat % align ≠ 0 then .error { rank := 1 }
    else if n.allows x.canR x.canW then .ok a
    else .error { rank := 3 }
  | none => s.checkAddr p va align n

/-- EINFO of the address causes (R363). -/
def addrInfo (level : Nat) (mal : Bool) (acc : Nat) : W64 := BitVec.ofNat 64 (32 * level + (if mal then 16 else 0) + acc)

/-- The trap of a list of failed lanes (R231): the earliest cause, its lanes, the lowest one's address. -/
def failTrap (acc : Nat) (fails : List (Nat × W64 × AddrFail)) : Option Trap :=
  match fails with
  | [] => none
  | x :: r =>
    let k := r.foldl (fun acc y => min acc y.2.2.rank) x.2.2.rank
    let hit := fails.filter (fun y => y.2.2.rank == k)
    match hit with
    | [] => none
    | y :: _ => some { code := y.2.2.code, mask := some (maskOf (fun l => hit.any (fun z => z.1 == l))), eaddr := y.2.1
                       einfo := some (addrInfo y.2.2.level y.2.2.mal acc) }

/-- Check the addresses of lanes through address register `r`, ascending: (lane, virtual, system) of each, or the trap. -/
def State.checkLanes (s : State) (p : Nat) (r : AddrReg) (xs : List (Nat × W64)) (align : Nat) (n : Need) :
    Except Trap (List (Nat × W64 × Nat)) :=
  let rs := xs.map (fun x => (x.1, x.2, s.checkVia p r x.2 align n))
  let fails := rs.filterMap (fun x => match x.2.2 with | .error e => some (x.1, x.2.1, e) | .ok _ => none)
  match failTrap n.acc fails with
  | some t => .error t
  | none => .ok (rs.filterMap (fun x => match x.2.2 with | .ok a => some (x.1, x.2.1, a) | .error _ => none))

/-- Check a group-wide address through address register `r`: EMASKF is PATH (R195, R294). -/
def State.checkGroup (s : State) (p : Nat) (r : AddrReg) (va : W64) (align : Nat) (n : Need) : Except Trap Nat :=
  match s.checkVia p r va align n with
  | .ok a => .ok a
  | .error e => .error { code := e.code, eaddr := va, einfo := some (addrInfo e.level e.mal n.acc) }

/-! ## The range scoreboard -/

/-- A job is in flight (R160): its card has arrived and it has not completed. -/
def Job.inFlight (j : Job) : Bool := j.st != .staged && j.st != .following

/-- A job stands on its quad: its block is on its core (R374, R403). -/
def State.jobHere (s : State) (j : Job) : Bool :=
  match s.block? j.blk with
  | some b => s.resides b
  | none => s.onChip j.part

/-- Jobs of the Lathe (R261), feedback jobs and Burl reads (R281), checkpoint jobs (R301). -/
def JobKind.lathe : JobKind → Bool
  | .mloadb .. | .mswap _ | .mma .. | .autoCfg _ | .autoSeed .. | .autoLdx .. | .autoInf .. | .autoFb .. | .autoRd .. | .autoWr .. => true
  | _ => false
def JobKind.burl : JobKind → Bool
  | .autoCfg _ | .autoSeed .. | .autoLdx .. | .autoInf .. | .autoFb .. | .autoRd .. | .autoWr .. => true
  | _ => false
def JobKind.feedback : JobKind → Bool
  | .autoFb .. => true
  | _ => false
def JobKind.burlRead : JobKind → Bool
  | .autoInf .. | .autoRd .. => true
  | _ => false
def JobKind.checkpoint : JobKind → Bool
  | .ckmark .. | .cksnap .. | .ckroll .. | .ckdrop .. => true
  | _ => false

/-- The job is in its quad's range scoreboard (R160, R303). -/
def Job.onBoard (j : Job) : Bool := j.inFlight && !j.kind.checkpoint

/-- A region touches the bytes from virtual address `va` on; ranges round outward to 64-byte lines (R160). -/
def Region.touches (r : Region) (va n : Nat) : Bool :=
  match r with
  | .mem lo hi => decide (lo < hi) && decide (lo / 64 * 64 < va + n) && decide (va < (hi + 63) / 64 * 64)
  | _ => false

/-- A region touches a row of a tile. -/
def Region.touchesRow (r : Region) (blk h row : Nat) : Bool :=
  match r with
  | .tile b k lo hi => b == blk && k == h && decide (lo ≤ row) && decide (row < hi)
  | _ => false

/-- An access stalls on the jobs in flight on the group's quad (R160). -/
def State.busy (s : State) (g : Group) (va : W64) (n : Nat) (write : Bool) : Bool :=
  s.jobs.any (fun j => j.2.onBoard && s.jobHere j.2 && j.2.quad == s.quadOf g && j.2.part == s.partOf g &&
    (j.2.writes.any (·.touches va.toNat n) || (write && j.2.reads.any (·.touches va.toNat n))))

/-- A tile access stalls on the jobs in flight. -/
def State.busyRow (s : State) (g : Group) (h row : Nat) (write : Bool) : Bool :=
  s.jobs.any (fun j => j.2.inFlight &&
    (j.2.writes.any (·.touchesRow g.blk h row) || (write && j.2.reads.any (·.touchesRow g.blk h row))))

/-! ## Stores -/

/-- Bytes of registers, low register first (R234). -/
def regBytes (x : Lane) (r n : Nat) : List Byte := (List.range n).flatMap (fun k => bytesOfNat 4 (x.reg (r + k)).val.toNat)

/-- Registers from bytes, low register first, all with one tag (R234). -/
def regsOfBytes (tag : BitVec 4) (bs : List Byte) (n : Nat) : List Reg :=
  (List.range n).map (fun k => ⟨BitVec.ofNat 32 (natOfBytes ((bs.drop (4 * k)).take 4)), tag⟩)

/-- Stage an operation of a group (R381). The lanes, addresses and sizes that it writes clear the group's own reservations at
once (R162, log entry 25). -/
def State.stage (s : State) (gid : Nat) (op : Staged) (ws : List (Option Nat × Nat × Nat)) : State :=
  s.updGroup gid (fun g => ws.foldl (fun g x => g.breakResv x.2.1 x.2.2 x.1) { g with staged := g.staged ++ [op] })

/-- Writes of lanes in ascending order (R146), or one entry of the group's staging in Solstice mode (R381). A lane's own write
leaves its own reservation (R162); `own` false: a group-wide write. Without a lane nothing is staged (R12, R66). -/
def State.laneStores (s : State) (gid : Nat) (g : Group) (xs : List (Nat × Nat × List Byte)) (own : Bool) : State :=
  if s.isSolstice g.blk && !xs.isEmpty then
    s.stage gid (.write (xs.flatMap (fun x => cellsOf x.2.1 x.2.2)))
      (xs.map (fun x => (if own then some x.1 else none, x.2.1, x.2.2.length)))
  else xs.foldl (fun s x => s.store x.2.1 x.2.2 (if own then some (gid, x.1) else none)) s

/-! ## Lane accesses -/

/-- The addresses of a lane access in its active lanes, checked (R230, R231). -/
def State.access (s : State) (g : Group) (act : Lanes) (f : FMg) (n : Nat) (need : Need) : Except Trap (List (Nat × W64 × Nat)) :=
  s.checkLanes (s.partOf g) (g.areg f.ar.toNat) ((lanesOf act).map (fun l => (l, laneAddr g f l))) n need

/-- The addresses that an instruction of group `g` translates through the TLBs (R230, R356): those of its access that its address
register's frame does not translate. -/
def throughTlb (s : State) (g : Group) (i : Instr) : List W64 :=
  let p := s.partOf g
  let lanes (f : FMg) (n : Nat) : List W64 :=
    ((lanesOf (g.active f.g)).map (laneAddr g f)).filter (fun va => ((g.areg f.ar.toNat).fast s.dev p va n).isNone)
  let group (f : FMg) (n : Nat) : List W64 := [groupAddr g f].filter (fun va => ((g.areg f.ar.toNat).fast s.dev p va n).isNone)
  match i with
  | .ld f _ | .st f _ | .atom f _ _ _ | .cas f | .ll f _ | .sc f _ => lanes f (szBytes f.sz)
  | .sld f _ => group f (szBytes f.sz)
  | .jinit f | .jwait f => group f 8
  | .gcond f => group f 4
  | .nodemk f => group f 64
  | .abind f => [g.spair f.a.toNat]
  | .exitJ f => (lanesOf (g.active f.g)).filterMap (fun l => (g.lane l).join)
  | _ => []

/-- The TLBs as group `g`'s instruction leaves them: its word's page and the pages of its access are cached (R356). -/
def State.translate (s : State) (g : Group) (i : Instr) : State :=
  (throughTlb s (g.reach (s.isSolstice g.blk) i) i).foldl (fun s va => s.cache (s.partOf g) va) s

/-- A lane access stalls on the range scoreboard (R160). -/
def State.anyBusy (s : State) (g : Group) (xs : List (Nat × W64 × Nat)) (n : Nat) (write : Bool) : Bool :=
  xs.any (fun x => s.busy g x.2.1 n write)

/-- The lanes of an access whose data meets an uncorrectable error, with the lowest one's address and
structure (R97, R372). -/
def State.badLanes (s : State) (xs : List (Nat × W64 × Nat)) (n : Nat) : Option (Lanes × W64 × Nat) :=
  let bad := xs.filter (fun x => s.isBad x.2.2 n)
  bad.head?.map (fun y => (maskOf (fun l => bad.any (fun x => x.1 == l)), y.2.1, s.structOf y.2.2 n))

/-- The lanes of a list that meet an uncorrectable error, as a P-kind cause (R372); `part`: those that write only a part of it. -/
def State.badTrap (s : State) (xs : List (Nat × W64 × Nat)) (n : Nat) (part : Bool) : Option Trap :=
  (s.badLanes (xs.filter (fun x => !part || s.isBadPart x.2.2 n)) n).map (fun x =>
    { code := 0x280, mask := some x.1, eaddr := x.2.1, einfo := some (BitVec.ofNat 64 x.2.2) })

/-- The group enters WAITING at its instruction, which has issued (R45, R172, R323); in Solstice mode its quantum ends (R379). -/
def State.park (s : State) (gid : Nat) (g : Group) (w : Wait) : State :=
  s.updGroup gid (fun x =>
    { (x.countIssue (s.isSolstice g.blk)).waits w (s.isSolstice g.blk) with quantumDone := s.isSolstice g.blk, past := false })

end Sys2Proof.Machine
end

