-- ==== Sys2Proof/Machine/Waits.lean ====
section
/-! DEFINITION. When a WAITING group's wait is met, and what its completion does (R45, R190, R255, R282, R295). -/

namespace Sys2Proof.Machine

/-- A group's view of a named barrier, a block's named barrier, a block's copy barrier (R190, R253). -/
def Group.barView (g : Group) (n : Nat) : BarView := (Table.get? g.bars n).getD {}
def Group.setBar (g : Group) (n : Nat) (v : BarView) : Group := { g with bars := Table.put g.bars n v }
def Block.bar (b : Block) (n : Nat) : NamedBar := (Table.get? b.nbs n).getD {}
def Block.copyBar (b : Block) (n : Nat) : CopyBar := (Table.get? b.cbs n).getD {}

/-- Every Lathe job that group `gid` issued has completed (R282). -/
def State.latheIdle (s : State) (gid : Nat) : Bool :=
  !s.jobs.any (fun j => j.2.gid == gid && j.2.kind.lathe)

/-- The wait of a group is met by the state as it stands. -/
def State.waitMet (s : State) (gid : Nat) (g : Group) (b : Block) : Wait → Bool
  | .named n _ => decide ((g.barView n).phase < (b.bar n).phase)
  | .copy n => (b.copyBar n).complete
  | .autoFence => s.latheIdle gid
  | _ => false

/-- What the completion of a wait does to the group: a barrier wait moves to the next phase, and a BAR's clears its standing
arrival (R190). -/
def Group.waited (g : Group) : Wait → Group
  | .named n bar =>
    let v := g.barView n
    g.setBar n { v with phase := v.phase + 1, standing := if bar then false else v.standing }
  | _ => g

/-- A group that waited for phase `p` of barrier `n` has every feedback job that arrived there before it (R281, case 2). -/
def State.seeFeedback (s : State) (gid blk n p : Nat) : State :=
  { s with jobs := Table.mapAll s.jobs (fun _ j =>
      if j.blk == blk && j.arrivals.contains (n, p) then { j with seenBy := j.seenBy ++ [gid] } else j) }

/-- A wait that is met: what it does to the group and to the feedback jobs it sees. -/
def State.meetWait (s : State) (gid : Nat) (w : Wait) : State :=
  match s.group? gid with
  | none => s
  | some g =>
    let s :=
      match w with
      | .named n _ => s.seeFeedback gid g.blk n (g.barView n).phase
      | _ => s
    s.setGroup gid (g.waited w)

/-- A wait completes. -/
def State.endWait (s : State) (gid : Nat) (w : Wait) : State := (s.meetWait gid w).wakeDone gid

/-- What a JWAIT's read of its counter comes to: a fault, a stall on the scoreboard, or the counter's value (R160, R295). -/
inductive JRead where
  | fault (t : Trap)
  | stall
  | value (v : Nat)

/-- Read the counter at `va` through address register `r` as a load does. Released memory, in Solstice mode too (R387). -/
def State.readCounter (s : State) (g : Group) (r : AddrReg) (va : W64) : JRead :=
  match s.checkGroup (s.partOf g) r va 8 .load with
  | .error t => .fault t
  | .ok a =>
    if s.busy g va 8 false then .stall
    else if s.isBad a 8 then .fault { code := 0x280, eaddr := va, einfo := some (BitVec.ofNat 64 (s.structOf a 8)) }
    else .value (readNat s.mem a 8)

/-- A waiting JWAIT reads its counter at `va` through address register `ar` again (R295), by the TLBs where the frame does not serve it
(R43): it completes on 0. A read that faults ends the wait: the JWAIT issues again and faults as a load does. -/
def State.jwaitRead (s : State) (gid : Nat) (g : Group) (va : W64) (ar : Nat) : State :=
  let s := if ((g.areg ar).fast s.dev (s.partOf g) va 8).isNone then s.cache (s.partOf g) va else s
  match s.readCounter g (g.areg ar) va with
  | .fault _ => s.updGroup gid (fun g => g.wake s.ticks)
  | .stall => s
  | .value v => if v = 0 then s.endWait gid (.jwait va ar) else s

end Sys2Proof.Machine
end

