-- ==== Sys2Proof/Machine/Group.lean ====
section
/-! DEFINITION. Group instructions: compacting branches (R177, R181), masks, votes and identities (R187 to R189), barriers (R190),
register budgets (R191 to R193), quantum ends (R306). -/

namespace Sys2Proof.Machine

/-- BARRIER_MISUSE with its EINFO (R190). -/
def misuse (n : Nat) : Trap := { code := 0x140, einfo := some (BitVec.ofNat 64 n) }

/-! ## Compacting branches -/

/-- An arrival at BRA.C (R177). -/
def bodyBraC (f : FC) (s : State) (g : Group) (act : Lanes) : Res :=
  if g.supervisor || !g.converged || g.em != g.occ then .trap s (misuse 1)
  else
    match s.block? g.blk with
    | none => .stall
    | some b =>
      let arrive (c : Compact) : Res :=
        let s := s.updBlock g.blk (fun b => { b with compact := some { c with arrived := c.arrived ++ [(s.cur, act)] } })
        .wait ((s.park s.cur g .braC).meetings g.blk)
      match b.compact with
      | none =>
        if Config.stackEntries < b.entries + 2 then .trap s { code := 0x007, einfo := none }
        else arrive { role := g.role, pc := g.pc, target := g.pc + 8 * f.off.signExtend 64
                      join := g.pc + 8 * BitVec.ofNat 64 (8 * f.ra.toNat + f.xp.toNat), budget := g.budget, arrived := [] }
      | some c =>
        if c.done || c.role != g.role then .trap s (misuse 6)
        else if c.pc != g.pc then .trap s (misuse 4)
        else if c.budget != g.budget then .trap s (misuse 5)
        else arrive c

def execBraC (f : FC) (s : State) : Host.Outcome State Fault Refusal := run (.braC f) (bodyBraC f) s

/-- An arrival at RJOIN (R181). -/
def bodyRjoin (_f : FC) (s : State) (g : Group) (_ : Lanes) : Res :=
  if g.supervisor || !g.converged then .trap s (misuse 1)
  else
    match (s.block? g.blk).bind (·.compact) with
    | none => .trap s (misuse 7)
    | some c =>
      if !c.done || c.join != g.pc || !c.snaps.any (fun sn => sn.gid == s.cur) then .trap s (misuse 7)
      else
        let s := s.updBlock g.blk (fun b => { b with compact := some { c with joined := c.joined ++ [s.cur] } })
        .wait ((s.park s.cur g .rjoin).meetings g.blk)

def execRjoin (f : FC) (s : State) : Host.Outcome State Fault Refusal := run (.rjoin f) (bodyRjoin f) s

/-! ## Masks, votes, identities -/

/-- GETEM (R187). -/
def execGetem (f : FA) (toS : Bool) (s : State) : Host.Outcome State Fault Refusal :=
  runG (.getem f toS) (fun g act =>
    if toS then g.setS f.d.toNat g.em else g.writeV act f.d.toNat (fun _ _ => ⟨g.em, tagN32⟩)) s

/-- The mask that SETEM takes; none: no lane is active (R187). -/
def setemMask (g : Group) (act : Lanes) (f : FA) (k : SetemKind) : Option Lanes :=
  match k with
  | .v => (lowest act).map (fun l => ((g.lane l).reg f.a.toNat).val)
  | .p => some (maskOf (fun l => (g.lane l).pred f.a.toNat))
  | .s => some (g.sreg f.a.toNat)

/-- SETEM (R187): EM within PATH. -/
def execSetem (f : FA) (k : SetemKind) (s : State) : Host.Outcome State Fault Refusal :=
  runG (.setem f k) (fun g act =>
    match setemMask g act f k with
    | some m => { g with em := m &&& g.path }
    | none => g) s

/-- Active lanes where a predicate is true. -/
def voteBits (g : Group) (act : Lanes) (p : Nat) : Lanes := maskOf (fun l => act.getLsbD l && (g.lane l).pred p)

/-- VOTE (R187): over no lanes .some is false, .every true, .bits 0. -/
def execVote (f : FA) (k : VoteKind) (s : State) : Host.Outcome State Fault Refusal :=
  runG (.vote f k) (fun g act =>
    let bits := voteBits g act f.a.toNat
    let some' := bits != 0
    let every := bits == act
    let d := f.d.toNat
    match k with
    | .someP => g.writeP act d (fun _ _ => some')
    | .everyP => g.writeP act d (fun _ _ => every)
    | .someS => g.setS d (if some' then 1 else 0)
    | .everyS => g.setS d (if every then 1 else 0)
    | .bitsV => g.writeV act d (fun _ _ => ⟨bits, tagN32⟩)
    | .bitsS => g.setS d bits) s

/-- Identity values of fewer than 33 bits but %lane (R23, R189). -/
def identity (b : Block) (g : Group) (id : Nat) : W32 :=
  match id with
  | 1 => BitVec.ofNat 32 g.grp
  | 2 => BitVec.ofNat 32 b.x
  | 3 => BitVec.ofNat 32 b.y
  | 4 => BitVec.ofNat 32 b.z
  | 5 => BitVec.ofNat 32 b.nx
  | 6 => BitVec.ofNat 32 b.ny
  | 7 => BitVec.ofNat 32 b.nz
  | 8 => BitVec.ofNat 32 g.stage
  | 9 => BitVec.ofNat 32 g.role
  | 11 => BitVec.ofNat 32 b.core
  | 12 => BitVec.ofNat 32 (quadOf b.core)
  | 13 => BitVec.ofNat 32 (dieOf (quadOf b.core))
  | 14 => b.launchId
  | _ => b.gen

/-- The block of a group. -/
def State.blockOf (s : State) (g : Group) : Block := (s.block? g.blk).getD { part := 0, core := 0, launch := none }

/-- GETID (R189): %lane is code 0, %wid code 10. -/
def bodyGetid (f : FA) (id : BitVec 4) (toS : Bool) (s : State) (g : Group) (act : Lanes) : Res :=
  let b := s.blockOf g
  let d := f.d.toNat
  let g' :=
    if toS then g.setS d (identity b g id.toNat)
    else if id = 10 then g.mapLanes act (fun _ x => x.setRegs d (pairRegs x.wid tagI64))
    else g.writeV act d (fun l _ => ⟨if id = 0 then BitVec.ofNat 32 l else identity b g id.toNat, tagN32⟩)
  .done (s.setGroup s.cur g')

def execGetid (f : FA) (id : BitVec 4) (toS : Bool) (s : State) : Host.Outcome State Fault Refusal :=
  run (.getid f id toS) (bodyGetid f id toS) s

/-- SETSTAGE (R17, R188). -/
def execSetstage (f : FI) (fromS : Bool) (s : State) : Host.Outcome State Fault Refusal :=
  runG (.setstage f fromS) (fun g _ => { g with stage := (if fromS then g.sreg f.a.toNat else f.imm).toNat % 16 }) s

/-! ## Barriers -/

/-- An arrival conflicts with the count that fixed the phase (R190). -/
def countConflict (nb : NamedBar) (count : Nat) : Bool :=
  match nb.count with
  | none => false
  | some c => count != 0 && c != count

/-- An arrival of the group at barrier `n` with a count field (R190); phases complete at once outside Solstice mode. -/
def State.arrive (s : State) (gid : Nat) (g : Group) (n count : Nat) : State :=
  let nb := (s.blockOf g).bar n
  let s := s.updBlock g.blk (fun b => { b with
    nbs := Table.put b.nbs n { nb with arrivals := nb.arrivals + 1, count := some (nb.count.getD count) } })
  let s := s.updGroup gid (fun g => g.setBar n { g.barView n with phase := nb.phase, arrived := some nb.phase })
  let s := { s with jobs := Table.mapAll s.jobs (fun _ j =>
    if j.gid == gid && j.kind.feedback then { j with arrivals := j.arrivals ++ [(n, nb.phase)] } else j) }
  if s.isSolstice g.blk then s else s.checkBars g.blk

/-- The group has arrived in the current phase of barrier `n` (R190). -/
def State.hasArrived (s : State) (g : Group) (n : Nat) : Bool := (g.barView n).arrived == some ((s.blockOf g).bar n).phase

/-- Wait at an instruction, unless the wait is met at once (outside Solstice mode). -/
def State.awaitRes (s : State) (g : Group) (w : Wait) : Res :=
  match s.group? s.cur with
  | none => .stall
  | some h =>
    if !s.isSolstice g.blk && s.waitMet s.cur h (s.blockOf g) w then .done (s.meetWait s.cur w)
    else .wait (s.park s.cur g w)

/-- BAR (R190). -/
def bodyBar (f : FC) (s : State) (g : Group) (_ : Lanes) : Res :=
  let n := f.ra.toNat
  if !g.converged then .trap s (misuse 1)
  else
    if s.hasArrived g n || (g.barView n).standing then s.awaitRes g (.named n true)
    else if countConflict ((s.blockOf g).bar n) f.off.toNat then .trap s (misuse 3)
    else (s.arrive s.cur g n f.off.toNat).awaitRes g (.named n true)

def execBar (f : FC) (s : State) : Host.Outcome State Fault Refusal := run (.bar f) (bodyBar f) s

/-- BARA (R190). -/
def bodyBara (f : FC) (s : State) (g : Group) (_ : Lanes) : Res :=
  let n := f.ra.toNat
  if !g.converged then .trap s (misuse 1)
  else if s.hasArrived g n then .trap s (misuse 2)
  else if countConflict ((s.blockOf g).bar n) f.off.toNat then .trap s (misuse 3)
  else .done (s.arrive s.cur g n f.off.toNat)

def execBara (f : FC) (s : State) : Host.Outcome State Fault Refusal := run (.bara f) (bodyBara f) s

/-- BARW (R190). -/
def bodyBarw (f : FC) (s : State) (g : Group) (_ : Lanes) : Res :=
  if !g.converged then .trap s (misuse 1)
  else s.awaitRes g (.named f.ra.toNat false)

def execBarw (f : FC) (s : State) : Host.Outcome State Fault Refusal := run (.barw f) (bodyBarw f) s

/-! ## Register budgets -/

/-- RBTAKE (R191): the claim joins the tail of the queue; outside Solstice mode the queue is served at once. -/
def bodyRbtake (f : FI) (s : State) (g : Group) (_ : Lanes) : Res :=
  let n := f.imm.toNat
  if 32 < g.budget + n then .trap s { code := 0x00A, einfo := none }
  else
    let s := s.updBlock g.blk (fun b => { b with claims := b.claims ++ [s.cur] })
    let s := s.park s.cur g (.rbtake n)
    .wait (if s.isSolstice g.blk then s else s.serveAll g.blk)

def execRbtake (f : FI) (s : State) : Host.Outcome State Fault Refusal := run (.rbtake f) (bodyRbtake f) s

/-- RBGIVE (R192): blocks of the emergency reserve go first (log entry 87). -/
def bodyRbgive (f : FI) (s : State) (g : Group) (_ : Lanes) : Res :=
  let n := f.imm.toNat
  if g.budget < n + 4 then .trap s { code := 0x00A, einfo := none }
  else
    let s := s.setGroup s.cur
      { g with budget := g.budget - n, resBlocks := g.resBlocks - n, lanes := g.lanes.map (fun x => x.zeroRegs (8 * (g.budget - n)) (8 * n)) }
    let s := s.updBlock g.blk (fun b => { b with pool := b.pool + n })
    .done (if s.isSolstice g.blk then s else s.serveAll g.blk)

def execRbgive (f : FI) (s : State) : Host.Outcome State Fault Refusal := run (.rbgive f) (bodyRbgive f) s

/-- RBQ (R193); in Solstice mode the pool and the queue as of the last quantum end. -/
def bodyRbq (f : FA) (k : RbqSel) (s : State) (g : Group) (_ : Lanes) : Res :=
  let b := s.blockOf g
  let v :=
    match k with
    | .own => g.budget
    | .pool => if b.solstice then b.poolSeen else b.pool
    | .wait => if b.solstice then b.claimsSeen.length else b.claims.length
  .done (s.setGroup s.cur (g.setS f.d.toNat (BitVec.ofNat 32 v)))

def execRbq (f : FA) (k : RbqSel) (s : State) : Host.Outcome State Fault Refusal := run (.rbq f k) (bodyRbq f k) s

/-! ## Quantum ends -/

/-- QEND (R306): results have landed; in Solstice mode the group's quantum ends. -/
def bodyQend (_f : FS) (s : State) (g : Group) (_ : Lanes) : Res :=
  .done (s.setGroup s.cur { g with quantumDone := s.isSolstice g.blk, past := false })

def execQend (f : FS) (s : State) : Host.Outcome State Fault Refusal := run (.qend f) (bodyQend f) s

end Sys2Proof.Machine
end

