-- ==== Sys2Proof/Machine/Float.lean ====
section
/-! DEFINITION. Floating-point values and the helpers of R130: formats (R110), val, enc, rnd (R121), fit (R122, R126), sr (R123),
ftz (R124), rint, and the arithmetic of R210 to R215, on exact binary fractions. -/

namespace Sys2Proof.Machine

/-- A format's parameters (R110). -/
structure Fmt where
  bits : Nat
  /-- significand bits with the hidden bit -/
  p : Nat
  bias : Nat
  /-- the topmost exponent field is special: infinity and NaN -/
  ieee : Bool
  /-- pattern of the largest finite value -/
  maxPat : Nat
  /-- canonical NaN (R111); E2M1 has none and converts NaN to +0 (R126) -/
  nan : Nat
  deriving DecidableEq, Repr

def fmtF32 : Fmt := ⟨32, 24, 127, true, 0x7F7FFFFF, 0x7FC00000⟩
def fmtF16 : Fmt := ⟨16, 11, 15, true, 0x7BFF, 0x7E00⟩
def fmtBF16 : Fmt := ⟨16, 8, 127, true, 0x7F7F, 0x7FC0⟩
def fmtE4M3 : Fmt := ⟨8, 4, 7, false, 0x7E, 0x7F⟩
def fmtE5M2 : Fmt := ⟨8, 3, 15, true, 0x7B, 0x7E⟩
def fmtE2M1 : Fmt := ⟨4, 2, 1, false, 0x7, 0x0⟩

/-- Smallest normal exponent (R110). -/
def Fmt.emin (f : Fmt) : Int := 1 - (f.bias : Int)

/-- A value of R130's val: NaN, a signed infinity, or (-1)^neg * m * 2^e. A zero keeps its sign. -/
inductive FVal where
  | nan
  | inf (neg : Bool)
  | fin (neg : Bool) (m : Nat) (e : Int)
  deriving DecidableEq, Repr

/-- A bit pattern's sign. -/
def signBit (f : Fmt) (b : Nat) : Bool := b.testBit (f.bits - 1)
/-- A bit pattern's exponent field and fraction field (R110). -/
def expField (f : Fmt) (b : Nat) : Nat := b / 2^(f.p - 1) % 2^(f.bits - f.p)
def fracField (f : Fmt) (b : Nat) : Nat := b % 2^(f.p - 1)

/-- val (R130): what a bit pattern encodes. -/
def val (f : Fmt) (b : Nat) : FVal :=
  let s := signBit f b
  let e := expField f b
  let m := fracField f b
  let top := 2^(f.bits - f.p) - 1
  if f.ieee && e == top then (if m = 0 then .inf s else .nan)
  else if !f.ieee && f.bits == 8 && e == top && m == 2^(f.p - 1) - 1 then .nan
  else if e = 0 then .fin s m (f.emin - (f.p : Int) + 1)
  else .fin s (m + 2^(f.p - 1)) ((e : Int) - f.bias - (f.p : Int) + 1)

/-- A rounding mode; stochastic rounding carries its draw (R120). -/
inductive RMode where
  | rn
  | rz
  | ru
  | rd
  | rs (u : Nat)
  deriving DecidableEq, Repr

/-- The mode of a rounding field, with RM of FPSTAT under .dyn and a draw under .rs (R120). -/
def rmodeOf (rm : Rm) (fpRm u : Nat) : RMode :=
  match rm with
  | .rn => .rn
  | .rz => .rz
  | .ru => .ru
  | .rd => .rd
  | .rs => .rs u
  | .dyn =>
    match fpRm with
    | 0 => .rn
    | 1 => .rz
    | 2 => .ru
    | _ => .rd

/-- The multiple of 2^k that m * 2^e rounds to, and whether it is inexact (R121, R123). With `sticky`, the value lies strictly
between m * 2^e and (m + 1) * 2^e. -/
def roundTo (mode : RMode) (neg : Bool) (m : Nat) (e : Int) (sticky : Bool) (k : Int) : Nat × Bool :=
  if k ≤ e then (m * 2^(e - k).toNat, sticky)
  else
    let d := (k - e).toNat
    let lo := m / 2^d
    let r := m % 2^d
    let half := 2^(d - 1)
    let inexact := decide (r ≠ 0) || sticky
    let up : Bool :=
      match mode with
      | .rn => decide (half < r) || (r == half && (sticky || lo % 2 == 1))
      | .rz => false
      | .ru => inexact && !neg
      | .rd => inexact && neg
      | .rs u => inexact && decide (u < r * 2^32 / 2^d)
    (if up then lo + 1 else lo, inexact)

/-- floor(log2 of m * 2^e), for m ≠ 0. -/
def expo (m : Nat) (e : Int) : Int := (Nat.log2 m : Int) + e

/-- rnd (R121): significand and exponent of the rounded magnitude, and whether it is inexact. -/
def rnd (f : Fmt) (mode : RMode) (neg : Bool) (m : Nat) (e : Int) (sticky : Bool) : Nat × Int × Bool :=
  if m = 0 then (0, f.emin - (f.p : Int) + 1, false)
  else
    let k := max (expo m e) f.emin - (f.p : Int) + 1
    let (q, ix) := roundTo mode neg m e sticky k
    (q, k, ix)

/-- enc (R130) of a finite magnitude q * 2^k that the format represents, with its sign. -/
def encFin (f : Fmt) (neg : Bool) (q : Nat) (k : Int) : Nat :=
  let s := if neg then 2^(f.bits - 1) else 0
  if q = 0 then s
  else
    -- bring q * 2^k to the spacing of the format at its magnitude
    let x := expo q k
    let sp := max x f.emin - (f.p : Int) + 1
    let m := if k ≤ sp then q / 2^(sp - k).toNat else q * 2^(k - sp).toNat
    if x < f.emin then s + m
    else s + (x + (f.bias : Int)).toNat * 2^(f.p - 1) + (m - 2^(f.p - 1))

/-- The pattern of an infinity, for a format that has one. -/
def infPat (f : Fmt) (neg : Bool) : Nat :=
  (if neg then 2^(f.bits - 1) else 0) + (2^(f.bits - f.p) - 1) * 2^(f.p - 1)

/-- The pattern of the largest finite value with a sign. -/
def maxFin (f : Fmt) (neg : Bool) : Nat := (if neg then 2^(f.bits - 1) else 0) + f.maxPat

/-- The magnitude q * 2^k exceeds the largest finite value. -/
def overflows (f : Fmt) (q : Nat) (k : Int) : Bool :=
  match val f f.maxPat with
  | .fin _ m e => if k ≤ e then decide (m * 2^(e - k).toNat < q) else decide (m < q * 2^(k - e).toNat)
  | _ => false

/-- A nonzero result whose magnitude after rounding is q * 2^k lies below 2^emin (R124): a result that rounds to 0 is tiny, as
the example of R126 shows. -/
def isTiny (f : Fmt) (q : Nat) (k : Int) : Bool := q == 0 || decide (expo q k < f.emin)

/-- The result of a finite overflow (R122, R126). -/
def overflowTo (f : Fmt) (mode : RMode) (sat neg : Bool) : Nat × FlagSet :=
  if sat then (maxFin f neg, flSAT ||| flNX)
  else if f.ieee then
    let toInf : Bool :=
      match mode with
      | .rn | .rs _ => true
      | .rz => false
      | .ru => !neg
      | .rd => neg
    (if toInf then infPat f neg else maxFin f neg, flOF ||| flNX)
  else if f.bits = 8 then ((if neg then 0x80 else 0) + 0x7F, flOF ||| flNX)
  else (maxFin f neg, flOF ||| flNX)

/-- rnd and then fit (R121, R122, R124, R126), with the flushing of .ftz. -/
def roundFit (f : Fmt) (mode : RMode) (sat ftz : Bool) (neg : Bool) (m : Nat) (e : Int) (sticky : Bool) : Nat × FlagSet :=
  let (q, k, ix) := rnd f mode neg m e sticky
  if m = 0 then (encFin f neg 0 0, 0)
  else if overflows f q k then overflowTo f mode sat neg
  else if ftz && isTiny f q k then (encFin f neg 0 0, flUF ||| flNX)
  else (encFin f neg q k, if ix then (if isTiny f q k then flUF ||| flNX else flNX) else 0)

/-- An input under .ftz: a subnormal reads as a zero of its sign (R124). -/
def ftzIn (f : Fmt) (ftz : Bool) (b : Nat) : Nat :=
  if ftz && expField f b == 0 then (if signBit f b then 2^(f.bits - 1) else 0) else b

/-- A signed exact value: an integer times 2^e. -/
structure Exact where
  n : Int
  e : Int
  deriving DecidableEq, Repr

/-- The exact value of a finite FVal. -/
def exactOf (neg : Bool) (m : Nat) (e : Int) : Exact := ⟨if neg then -(m : Int) else m, e⟩

/-- Exact sum. -/
def Exact.add (a b : Exact) : Exact :=
  let e := min a.e b.e
  ⟨a.n * 2^(a.e - e).toNat + b.n * 2^(b.e - e).toNat, e⟩

/-- The sign of an exact zero sum of two signed terms (R111): the common sign, or - in RD and + otherwise. -/
def zeroSign (mode : RMode) (s t : Bool) : Bool :=
  if s = t then s else
    match mode with
    | .rd => true
    | _ => false

/-- A sum of two finite values, rounded once. -/
def sumFin (f : Fmt) (mode : RMode) (ftz : Bool) (s : Bool) (m : Nat) (e : Int) (t : Bool) (n : Nat) (k : Int) : Nat × FlagSet :=
  let x := (exactOf s m e).add (exactOf t n k)
  if x.n = 0 then (encFin f (zeroSign mode s t) 0 0, 0)
  else roundFit f mode false ftz (decide (x.n < 0)) x.n.natAbs x.e false

/-- FADD (R210). -/
def fAdd (f : Fmt) (mode : RMode) (ftz : Bool) (a b : Nat) : Nat × FlagSet :=
  match val f (ftzIn f ftz a), val f (ftzIn f ftz b) with
  | .nan, _ => (f.nan, 0)
  | _, .nan => (f.nan, 0)
  | .inf s, .inf t => if s = t then (infPat f s, 0) else (f.nan, flNV)
  | .inf s, .fin .. => (infPat f s, 0)
  | .fin .., .inf t => (infPat f t, 0)
  | .fin s m e, .fin t n k => sumFin f mode ftz s m e t n k

/-- A pattern with its sign turned. -/
def negPat (f : Fmt) (b : Nat) : Nat := if signBit f b then b - 2^(f.bits - 1) else b + 2^(f.bits - 1)

/-- FSUB (R210): a + (-b); the sign of a NaN does not matter. -/
def fSub (f : Fmt) (mode : RMode) (ftz : Bool) (a b : Nat) : Nat × FlagSet := fAdd f mode ftz a (negPat f b)

/-- FMUL (R210). -/
def fMul (f : Fmt) (mode : RMode) (ftz : Bool) (a b : Nat) : Nat × FlagSet :=
  match val f (ftzIn f ftz a), val f (ftzIn f ftz b) with
  | .nan, _ => (f.nan, 0)
  | _, .nan => (f.nan, 0)
  | .inf s, .inf t => (infPat f (s != t), 0)
  | .inf s, .fin t n _ => if n = 0 then (f.nan, flNV) else (infPat f (s != t), 0)
  | .fin s m _, .inf t => if m = 0 then (f.nan, flNV) else (infPat f (s != t), 0)
  | .fin s m e, .fin t n k =>
    if m = 0 || n = 0 then (encFin f (s != t) 0 0, 0)
    else roundFit f mode false ftz (s != t) (m * n) (e + k) false

/-- The product of FFMA: none when it is 0 * infinity (R111, R210). -/
def prodVal (x y : FVal) : Option FVal :=
  match x, y with
  | .inf s, .inf t => some (.inf (s != t))
  | .inf s, .fin t n _ => if n = 0 then none else some (.inf (s != t))
  | .fin s m _, .inf t => if m = 0 then none else some (.inf (s != t))
  | .fin s m e, .fin t n k => some (.fin (s != t) (m * n) (e + k))
  | _, _ => some .nan

/-- FFMA (R210): one rounding of a * b + c. -/
def fFma (f : Fmt) (mode : RMode) (ftz : Bool) (a b c : Nat) : Nat × FlagSet :=
  match prodVal (val f (ftzIn f ftz a)) (val f (ftzIn f ftz b)) with
  | none => (f.nan, flNV)
  | some pv =>
    match pv, val f (ftzIn f ftz c) with
    | .nan, _ => (f.nan, 0)
    | _, .nan => (f.nan, 0)
    | .inf s, .inf t => if s = t then (infPat f s, 0) else (f.nan, flNV)
    | .inf s, .fin .. => (infPat f s, 0)
    | .fin .., .inf t => (infPat f t, 0)
    | .fin s m e, .fin t n k => sumFin f mode ftz s m e t n k

/-- Order of two values that are no NaN, with -0 below +0: the sign of the pattern and its magnitude (R211). -/
def fKey (f : Fmt) (b : Nat) : Int :=
  let m : Int := b % 2^(f.bits - 1)
  if signBit f b then -1 - m else m

/-- A pattern is a NaN. -/
def isNan (f : Fmt) (b : Nat) : Bool := val f b == .nan

/-- FMIN and FMAX (R211). -/
def fMinMax (f : Fmt) (ftz isMax : Bool) (a b : Nat) : Nat :=
  let x := ftzIn f ftz a
  let y := ftzIn f ftz b
  if isNan f x then (if isNan f y then f.nan else y)
  else if isNan f y then x
  else if isMax then (if fKey f x < fKey f y then y else x)
  else (if fKey f y < fKey f x then y else x)

/-- The compared value: zeros are equal (R212). -/
def fCmpKey (f : Fmt) (b : Nat) : Int := if b % 2^(f.bits - 1) = 0 then 0 else fKey f b

/-- FCMP (R212). -/
def fCmp (f : Fmt) (cc : Fcc) (a b : Nat) : Bool :=
  let un := isNan f a || isNan f b
  match cc with
  | .num => !un
  | .nan => un
  | .ne => un || decide (fCmpKey f a ≠ fCmpKey f b)
  | .eq => !un && decide (fCmpKey f a = fCmpKey f b)
  | .lt => !un && decide (fCmpKey f a < fCmpKey f b)
  | .le => !un && decide (fCmpKey f a ≤ fCmpKey f b)
  | .gt => !un && decide (fCmpKey f b < fCmpKey f a)
  | .ge => !un && decide (fCmpKey f b ≤ fCmpKey f a)

/-- FCLASS: the bit that is set (R213). -/
def fClass (f : Fmt) (b : Nat) : Nat :=
  match val f b with
  | .nan => 8
  | .inf s => if s then 0 else 7
  | .fin s m _ =>
    if m = 0 then (if s then 3 else 4)
    else if expField f b = 0 then (if s then 2 else 5)
    else (if s then 1 else 6)

/-- FRND (R214): rint in the value's own format, NX when the result differs. -/
def fRnd (f : Fmt) (mode : RMode) (ftz : Bool) (a : Nat) : Nat × FlagSet :=
  let x := ftzIn f ftz a
  match val f x with
  | .nan => (f.nan, 0)
  | .inf _ => (x, 0)
  | .fin s m e =>
    if m = 0 then (x, 0)
    else
      let (q, ix) := roundTo mode s m e false 0
      if 0 ≤ e then (x, 0) else (encFin f s q 0, if ix then flNX else 0)

/-- FDIV (R215): the quotient to 64 bits beyond the format, with a sticky remainder. -/
def fDiv (mode : RMode) (ftz : Bool) (a b : Nat) : Nat × FlagSet :=
  let f := fmtF32
  match val f (ftzIn f ftz a), val f (ftzIn f ftz b) with
  | .nan, _ => (f.nan, 0)
  | _, .nan => (f.nan, 0)
  | .inf _, .inf _ => (f.nan, flNV)
  | .inf s, .fin t _ _ => (infPat f (s != t), 0)
  | .fin s _ _, .inf t => (encFin f (s != t) 0 0, 0)
  | .fin s m e, .fin t n k =>
    if n = 0 then (if m = 0 then (f.nan, flNV) else (infPat f (s != t), flDZ))
    else if m = 0 then (encFin f (s != t) 0 0, 0)
    else
      let q := m * 2^96 / n
      roundFit f mode false ftz (s != t) q (e - k - 96) (decide (m * 2^96 % n ≠ 0))

/-- Integer square root by bits from `k` down. -/
def isqrtFrom (n : Nat) : Nat → Nat → Nat
  | 0, r => r
  | k + 1, r => isqrtFrom n k (if (r + 2^k) * (r + 2^k) ≤ n then r + 2^k else r)

/-- floor of the square root, for n < 2^256. -/
def isqrt (n : Nat) : Nat := isqrtFrom n 128 0

/-- The square root of m * 2^e as a significand, an exponent and whether it is inexact. -/
def sqrtParts (m : Nat) (e : Int) : Nat × Int × Bool :=
  -- an even exponent, and 160 further bits
  let (n, k) := if e % 2 = 0 then (m * 2^160, e - 160) else (m * 2^161, e - 161)
  let r := isqrt n
  (r, k / 2, decide (r * r ≠ n))

/-- FSQRT (R215). -/
def fSqrt (mode : RMode) (ftz : Bool) (a : Nat) : Nat × FlagSet :=
  let f := fmtF32
  let x := ftzIn f ftz a
  match val f x with
  | .nan => (f.nan, 0)
  | .inf s => if s then (f.nan, flNV) else (x, 0)
  | .fin s m e =>
    if m = 0 then (x, 0)
    else if s then (f.nan, flNV)
    else
      let (r, k, st) := sqrtParts m e
      roundFit f mode false ftz false r k st

/-! ## Conversions (R125, R126) -/

/-- The format of a float number type. -/
def ntyFmt (t : NTy) : Fmt :=
  match t with
  | .f16 => fmtF16 | .bf16 => fmtBF16 | .e4m3 => fmtE4M3 | .e5m2 => fmtE5M2 | .e2m1 => fmtE2M1
  | _ => fmtF32

/-- Bits and signedness of an integer number type. -/
def ntyInt (t : NTy) : Nat × Bool :=
  match t with
  | .s32 => (32, true) | .n32 => (32, false) | .s8 => (8, true) | .n8 => (8, false) | .s4 => (4, true) | .n4 => (4, false)
  | .s64 => (64, true) | .n64 => (64, false)
  | _ => (32, true)

/-- Bits of one element of a number type. -/
def ntyBits (t : NTy) : Nat := if t.isFloat then (ntyFmt t).bits else (ntyInt t).1

/-- The format of a float type's element (R209). -/
def ftyFmt (t : FTy) : Fmt :=
  match t with
  | .f32 => fmtF32 | .f16x2 => fmtF16 | .bf16x2 => fmtBF16

/-- A NaN in a float target (R126). -/
def nanTo (t : NTy) : Nat × FlagSet := ((ntyFmt t).nan, if t = .e2m1 then flNV else 0)

/-- An infinity in a float target under .sat or .ieee (R126). -/
def infTo (t : NTy) (sat neg : Bool) : Nat × FlagSet :=
  let f := ntyFmt t
  if t = .f32 then (infPat f neg, 0)
  else if sat then (maxFin f neg, flSAT)
  else if f.ieee then (infPat f neg, 0)
  else if t = .e4m3 then ((if neg then 0x80 else 0) + 0x7F, flNV)
  else (maxFin f neg, flNV)

/-- A float to an integer (R125): clamps with NV, else NX when inexact. -/
def floatToInt (w : Nat) (signed : Bool) (mode : RMode) (v : FVal) : Nat × FlagSet :=
  match v with
  | .nan => (0, flNV)
  | .inf s => (wrapTo w (if s then intMin w signed else intMax w signed), flNV)
  | .fin s m e =>
    let (q, ix) := roundTo mode s m e false 0
    let y : Int := if s then -(q : Int) else q
    let c := clampInt (intMin w signed) (intMax w signed) y
    (wrapTo w c, if c ≠ y then flNV else if ix then flNX else 0)

/-- An exact integer to a float. -/
def intToFloat (t : NTy) (mode : RMode) (sat : Bool) (y : Int) : Nat × FlagSet :=
  if y = 0 then (0, 0) else roundFit (ntyFmt t) mode sat false (decide (y < 0)) y.natAbs 0 false

/-- One conversion (R125, R126, R219). `src` and `dst` name the formats, `b` the source element. A signed source clamps under .sat
in any unsigned target (log entry 14). -/
def convert (dst src : NTy) (mode : RMode) (sat ftz : Bool) (b : Nat) : Nat × FlagSet :=
  if src.isFloat then
    let x := val (ntyFmt src) (ftzIn (ntyFmt src) ftz b)
    if dst.isFloat then
      match x with
      | .nan => nanTo dst
      | .inf s => infTo dst sat s
      | .fin s m e => if m = 0 then (encFin (ntyFmt dst) s 0 0, 0) else roundFit (ntyFmt dst) mode sat ftz s m e false
    else floatToInt (ntyInt dst).1 (ntyInt dst).2 mode x
  else
    let y := intOf (ntyInt src).1 (ntyInt src).2 b
    if dst.isFloat then intToFloat dst mode sat y
    else
      writeInt (ntyInt dst).1 (ntyInt dst).2 sat y

/-- rne (R130) of an exact value in FP32. -/
def rneF32 (x : Exact) : Nat × FlagSet :=
  if x.n = 0 then (0, 0) else roundFit fmtF32 .rn false false (decide (x.n < 0)) x.n.natAbs x.e false

end Sys2Proof.Machine
end

