-- ==== Sys2Proof/Machine/Lanes.lean ====
section
/-! DEFINITION. The shape that the vector forms share (R198, R128, R129): each active lane's result and flags, the enabled trap of a
raised flag, the write of the active lanes or the landing of a long-latency result. -/

namespace Sys2Proof.Machine

/-- A lane's result: the registers from the destination on, and the flags it raises. -/
abbrev LaneOut := List Reg × FlagSet

/-- The flags of each active lane. -/
def flagsOf (g : Group) (act : Lanes) (f : Nat → Lane → LaneOut) : List (Nat × FlagSet) :=
  (lanesOf act).map (fun l => (l, (f l (g.lane l)).2))

/-- Set the flags; trap before any destination is written when an enabled one was raised (R128, R129). -/
def withFlags (s : State) (g : Group) (fls : List (Nat × FlagSet)) (k : Group → Res) : Res :=
  let g' := { g with fpstat := fpSet g.fpstat (allFlags fls) }
  match fpCause g.fpstat (allFlags fls) with
  | some (fl, code) => .trap (s.setGroup s.cur g') { code := code, mask := some (flagLanes fls fl) }
  | none => k g'

/-- A form that writes registers from `d` on in its active lanes; `f` reads the group as it stands at issue. -/
def vecBody (d : Nat) (f : Group → Nat → Lane → LaneOut) (s : State) (g : Group) (act : Lanes) : Res :=
  withFlags s g (flagsOf g act (f g)) (fun g' =>
    .done (s.setGroup s.cur (g'.mapLanes act (fun l x => x.setRegs d (f g l x).1))))

/-- The landings of a result from register `d` on. -/
def landingsOf (g : Group) (act : Lanes) (d : Nat) (f : Nat → Lane → LaneOut) : List Landing :=
  (lanesOf act).flatMap (fun l => (f l (g.lane l)).1.mapIdx (fun k x => Landing.vec l (d + k) x))

/-- A long-latency form (R95): the flags at issue, the result when its window closes. -/
def lateBody (d : Nat) (f : Group → Nat → Lane → LaneOut) (s : State) (g : Group) (act : Lanes) : Res :=
  withFlags s g (flagsOf g act (f g)) (fun g' => .late (s.setGroup s.cur g') (landingsOf g act d (f g)) none)

/-- A form that raises no flag. -/
def pureBody (d : Nat) (f : Group → Nat → Lane → List Reg) (g : Group) (act : Lanes) : Group :=
  g.mapLanes act (fun l x => x.setRegs d (f g l x))

/-- Values of consecutive registers. -/
def wordsAt (x : Lane) (r n : Nat) : List W32 := (List.range n).map (fun k => (x.reg (r + k)).val)

/-- The number that words spell, low word first. -/
def natOfWords : List W32 → Nat
  | [] => 0
  | w :: r => w.toNat + 2^32 * natOfWords r

end Sys2Proof.Machine
end

