-- ==== Sys2Proof/Machine/Convert.lean ====
section
/-! DEFINITION. Random streams (R142, R143, R228), CVT, PACK, UNPACK (R217 to R221), bit planes (R222, R223), tags (R224). -/

namespace Sys2Proof.Machine

/-! ## Random streams -/

/-- The mix of a draw (R142). -/
def mix64 (x : W64) : W64 :=
  let x := x ^^^ (x >>> 31)
  let x := x * 0xC2B51A7E93D46F1B
  let x := x ^^^ (x >>> 27)
  let x := x * 0x8F3D5E27B61A94C5
  x ^^^ (x >>> 33)

/-- The draw at a counter value (R142). -/
def drawAt (key : W64) (ctr : BitVec 48) : W32 := BitVec.ofNat 32 ((mix64 (key ^^^ ctr.zeroExtend 64)).toNat / 2^32)

/-- `n` draws wrap the counter (R143). -/
def wraps (ctr : BitVec 48) (n : Nat) : Bool := decide (2^48 ≤ ctr.toNat + n)

/-- A lane after `n` draws. -/
def Lane.drew (x : Lane) (n : Nat) : Lane := { x with ctr := x.ctr + BitVec.ofNat 48 n }

/-- WR when a lane's draws wrap. -/
def wrapFlag (x : Lane) (n : Nat) : FlagSet := if wraps x.ctr n then flWR else 0

/-- The end of a form that draws `n` times in each active lane: the flags and enabled traps first (R129, R229), then the results
and the counters, then RNG_WRAP after the instruction when TWR is set (R143). -/
def drawBody (d n : Nat) (f : Group → Nat → Lane → LaneOut) (s : State) (g : Group) (act : Lanes) : Res :=
  withFlags s g (flagsOf g act (f g)) (fun g' =>
    let wrapped := maskOf (fun l => act.getLsbD l && wraps (g.lane l).ctr n)
    let g' := g'.mapLanes act (fun l x => (x.setRegs d (f g l x).1).drew n)
    if wrapped = 0 then .done (s.setGroup s.cur g')
    else
      let g'' := { g' with fpstat := fpSet g'.fpstat flWR }
      if fpTwr g.fpstat then .after (s.setGroup s.cur g'') { code := 0x1C8, mask := some wrapped }
      else .done (s.setGroup s.cur g''))

/-- RNG (R228). -/
def bodyRng (f : FA) (k : RngKind) (s : State) (g : Group) (act : Lanes) : Res :=
  match k with
  | .n32 => drawBody f.d.toNat 1 (fun _ _ x => ([⟨drawAt x.key x.ctr, tagN32⟩], 0)) s g act
  | .f32 => drawBody f.d.toNat 1 (fun _ _ x =>
      -- the top 24 bits as a multiple of 2^-24
      ([⟨BitVec.ofNat 32 (encFin fmtF32 false ((drawAt x.key x.ctr).toNat / 2^8) (-24)), tagF32⟩], 0)) s g act
  | .getc => .done (s.setGroup s.cur (g.mapLanes act (fun _ x =>
      x.setRegs f.d.toNat [⟨BitVec.ofNat 32 x.ctr.toNat, tagRAW⟩, ⟨BitVec.ofNat 32 (x.ctr.toNat / 2^32), tagRAW⟩])))
  | .setc => .done (s.setGroup s.cur (g.mapLanes act (fun _ x => { x with ctr := BitVec.ofNat 48 (x.pair f.a.toNat).toNat })))

def execRng (f : FA) (k : RngKind) (s : State) : Host.Outcome State Fault Refusal := run (.rng f k) (bodyRng f k) s

/-! ## Conversions -/

/-- Element `e` of a register or pair (R218). -/
def ntyElem (t : NTy) (x : Lane) (r e : Nat) : Nat :=
  if t.pair then (x.pair r).toNat else (x.reg r).val.toNat / 2^(ntyBits t * e) % 2^(ntyBits t)

/-- A word with element `e` replaced. -/
def setElem (bits e v : Nat) (w : W32) : W32 :=
  let m : W32 := BitVec.ofNat 32 ((2^bits - 1) * 2^(bits * e))
  (w &&& ~~~m) ||| BitVec.ofNat 32 (v * 2^(bits * e))

/-- The rounding mode in a lane: FPSTAT's under .dyn, draw `n` of the lane's stream under .rs (R120). -/
def laneMode (g : Group) (x : Lane) (rm : Rm) (n : Nat) : RMode :=
  rmodeOf rm (fpRm g.fpstat) (drawAt x.key (x.ctr + BitVec.ofNat 48 n)).toNat

/-- Draws of a form that rounds `n` elements (R120). -/
def drawsOf (rm : Rm) (n : Nat) : Nat := if rm = .rs then n else 0

/-- CVT (R219). -/
def laneCvt (d a : BitVec 8) (k : CvtCtl) (g : Group) (_ : Nat) (x : Lane) : LaneOut :=
  let r := convert k.dst k.src (laneMode g x k.rm 0) k.sat k.ftz (ntyElem k.src x a.toNat k.e.toNat)
  if k.dst.pair then (pairRegs (BitVec.ofNat 64 r.1) (ntyTag k.dst), r.2)
  else ([⟨if k.dst.count = 1 then BitVec.ofNat 32 r.1 else setElem (ntyBits k.dst) k.f.toNat r.1 (x.reg d.toNat).val,
          ntyTag k.dst⟩], r.2)

def execCvt (g : Guard) (d a : BitVec 8) (hsA : Bool) (he : BitVec 2) (lra : Bool) (k : CvtCtl) (s : State) :
    Host.Outcome State Fault Refusal :=
  run (.cvt g d a hsA he lra k) (drawBody d.toNat (drawsOf k.rm 1) (laneCvt d a k)) s

/-- The number type that PACK reads for a target (R220). -/
def packSrc (t : NTy) : NTy :=
  if t.isFloat then .f32
  else
    match t with
    | .n8 | .n4 => .n32
    | _ => .s32

/-- Source words of PACK in element order (R220). -/
def packWords (f : FA) (t : NTy) (x : Lane) : List W32 :=
  if t.count = 2 then [(x.reg f.a.toNat).val, (x.reg f.b.toNat).val]
  else if t.count = 4 then wordsAt x f.a.toNat 4
  else wordsAt x f.a.toNat 4 ++ wordsAt x f.b.toNat 4

/-- PACK (R220). -/
def lanePack (f : FA) (t : NTy) (sat : Bool) (rm : Rm) (g : Group) (_ : Nat) (x : Lane) : LaneOut :=
  let rs := (packWords f t x).mapIdx (fun n w => convert t (packSrc t) (laneMode g x rm n) sat false w.toNat)
  let v := rs.foldr (fun r acc => r.1 + 2^(ntyBits t) * acc) 0
  ([⟨BitVec.ofNat 32 v, ntyTag t⟩], rs.foldl (fun acc r => acc ||| r.2) 0)

def execPack (f : FA) (t : NTy) (sat : Bool) (rm : Rm) (s : State) : Host.Outcome State Fault Refusal :=
  run (.pack f t sat rm) (drawBody f.d.toNat (drawsOf rm t.count) (lanePack f t sat rm)) s

/-- The type that UNPACK widens to (R221). -/
def unpackDst (t : NTy) : NTy :=
  if t.isFloat then .f32
  else
    match t with
    | .n8 | .n4 => .n32
    | _ => .s32

/-- UNPACK (R221): exact widening. -/
def laneUnpack (f : FA) (t : NTy) (h : Bool) (_ : Group) (_ : Nat) (x : Lane) : List Reg :=
  let n := if t.count = 2 then 2 else 4
  (List.range n).map (fun k =>
    ⟨BitVec.ofNat 32 (convert (unpackDst t) t .rn false false (ntyElem t x f.a.toNat (k + if h then 4 else 0))).1, ntyTag (unpackDst t)⟩)

def execUnpack (f : FA) (t : NTy) (h : Bool) (s : State) : Host.Outcome State Fault Refusal :=
  runG (.unpack f t h) (pureBody f.d.toNat (laneUnpack f t h)) s

/-! ## Bit planes -/

/-- Byte `j` of consecutive registers. -/
def regByte (x : Lane) (r j : Nat) : Nat := (x.reg (r + j / 4)).val.toNat / 2^(8 * (j % 4)) % 2^8

/-- BPSPLIT (R222): bit j is bit 7 - p of element j. -/
def execBpsplit (f : FA) (p : BitVec 3) (s : State) : Host.Outcome State Fault Refusal :=
  runG (.bpsplit f p) (pureBody f.d.toNat (fun _ _ x =>
    [⟨maskOf (fun j => (if j < 16 then regByte x f.a.toNat j else regByte x f.b.toNat (j - 16)).testBit (7 - p.toNat)), tagBP8⟩])) s

/-- BPJOIN (R223): byte i takes bit 7 - p from bit 4q + i of plane p, for p below k. -/
def execBpjoin (f : FA) (q k1 : BitVec 3) (s : State) : Host.Outcome State Fault Refusal :=
  runG (.bpjoin f q k1) (pureBody f.d.toNat (fun _ _ x =>
    [⟨maskOf (fun b =>
        let p := 7 - b % 8
        decide (p ≤ k1.toNat) && (x.reg (f.a.toNat + p)).val.getLsbD (4 * q.toNat + b / 8)), tagI8x4⟩])) s

/-! ## Tags -/

/-- TAGSET and TAGGET (R224). -/
def execTagset (f : FA) (tag : BitVec 4) (s : State) : Host.Outcome State Fault Refusal :=
  runG (.tagset f tag) (pureBody f.d.toNat (fun _ _ x => [⟨(x.reg f.a.toNat).val, tag⟩])) s
def execTagget (f : FA) (s : State) : Host.Outcome State Fault Refusal :=
  runG (.tagget f) (pureBody f.d.toNat (fun _ _ x => [⟨(x.reg f.a.toNat).tag.zeroExtend 32, tagN32⟩])) s

end Sys2Proof.Machine
end

