-- ==== Sys2Proof/Machine/Scalar.lean ====
section
/-! DEFINITION. The scalar pipe: moves, arithmetic, compares, selection (R194), SLD (R195), ABIND and AQ (R196). -/

namespace Sys2Proof.Machine

/-- SMOV (R194): the lowest active lane's register; RAW in each active lane; a live loop's count. -/
def smov (f : FA) (k : SmovKind) (g : Group) (act : Lanes) : Group :=
  let d := f.d.toNat
  match k with
  | .ss => g.setS d (g.sreg f.a.toNat)
  | .sv =>
    match lowest act with
    | some l => g.setS d ((g.lane l).reg f.a.toNat).val
    | none => g
  | .vs => g.writeV act d (fun _ _ => ⟨g.sreg f.a.toNat, tagRAW⟩)
  | .sl => g.setS d (if (g.loop f.a.toNat).live then (g.loop f.a.toNat).count else 0)

def execSmov (f : FA) (k : SmovKind) (s : State) : Host.Outcome State Fault Refusal := runG (.smov f k) (smov f k) s

def execSmovi (f : FI) (s : State) : Host.Outcome State Fault Refusal := runG (.smovi f) (fun g _ => g.setS f.d.toNat f.imm) s

/-- Scalar destination of an A or I form. -/
def OpAI.dst : OpAI → Nat
  | .a f => f.d.toNat
  | .i f => f.d.toNat

/-- The two scalar operands of an A or I form (R194). -/
def scalarOps (o : OpAI) (g : Group) : W32 × W32 :=
  match o with
  | .a f => (g.sreg f.a.toNat, g.sreg f.b.toNat)
  | .i f => (g.sreg f.a.toNat, f.imm)

/-- A scalar operation of two operands (R194). -/
def scalar2 (o : OpAI) (op : W32 → W32 → W32) (g : Group) (_ : Lanes) : Group :=
  let x := scalarOps o g
  g.setS (Sys2Proof.Machine.OpAI.dst o) (op x.1 x.2)

/-- Shift counts use bits 4:0 (R194, R205). -/
def count5 (x : W32) : Nat := x.toNat % 32

def execSadd (o : OpAI) (s : State) : Host.Outcome State Fault Refusal := runG (.sadd o) (scalar2 o (· + ·)) s
def execSsub (f : FA) (s : State) : Host.Outcome State Fault Refusal := runG (.ssub f) (scalar2 (.a f) (· - ·)) s
def execSmul (f : FA) (s : State) : Host.Outcome State Fault Refusal := runG (.smul f) (scalar2 (.a f) (· * ·)) s
def execSand (o : OpAI) (s : State) : Host.Outcome State Fault Refusal := runG (.sand o) (scalar2 o (· &&& ·)) s
def execSor (o : OpAI) (s : State) : Host.Outcome State Fault Refusal := runG (.sor o) (scalar2 o (· ||| ·)) s
def execSxor (o : OpAI) (s : State) : Host.Outcome State Fault Refusal := runG (.sxor o) (scalar2 o (· ^^^ ·)) s
def execSshl (o : OpAI) (s : State) : Host.Outcome State Fault Refusal :=
  runG (.sshl o) (scalar2 o (fun x y => x <<< count5 y)) s
def execSshr (o : OpAI) (arith : Bool) (s : State) : Host.Outcome State Fault Refusal :=
  runG (.sshr o arith) (scalar2 o (fun x y => if arith then x.sshiftRight (count5 y) else x >>> count5 y)) s

/-- A condition on two words of any width (R194, R207). -/
def condition {w : Nat} (cc : Cc) (x y : BitVec w) : Bool :=
  match cc with
  | .eq => x == y
  | .ne => x != y
  | .lt => x.slt y
  | .le => x.sle y
  | .gt => y.slt x
  | .ge => y.sle x
  | .ltu => x.ult y
  | .leu => x.ule y
  | .gtu => y.ult x
  | .geu => y.ule x

/-- SCMP (R194). -/
def scmp (o : OpCmp) (cc : Cc) (g : Group) (_ : Lanes) : Group :=
  match o with
  | .a f => g.setS f.d.toNat (if condition cc (g.sreg f.a.toNat) (g.sreg f.b.toNat) then 1 else 0)
  | .i _ d a k _ => g.setS d.toNat (if condition cc (g.sreg a.toNat) (k.signExtend 32) then 1 else 0)

def execScmp (o : OpCmp) (cc : Cc) (s : State) : Host.Outcome State Fault Refusal := runG (.scmp o cc) (scmp o cc) s

def execSsel (f : FA) (s : State) : Host.Outcome State Fault Refusal :=
  runG (.ssel f) (fun g _ =>
    g.setS f.d.toNat (if g.sreg f.a.toNat ≠ 0 then g.sreg f.b.toNat else g.sreg f.c.toNat)) s

/-- A value of `n` bytes extended to a register (R195, R234). -/
def extendTo (n : Nat) (signed : Bool) (v : Nat) : W32 :=
  if signed && decide (2^(8 * n - 1) ≤ v) then BitVec.ofNat 32 (v + (2^32 - 2^(8 * n))) else BitVec.ofNat 32 v

/-- SLD (R195): one access for the group, long-latency. -/
def bodySld (f : FMg) (signed : Bool) (s : State) (g : Group) (_ : Lanes) : Res :=
  let n := szBytes f.sz
  let va := groupAddr g f
  match s.checkGroup (s.partOf g) (g.areg f.ar.toNat) va n .load with
  | .error t => .trap s t
  | .ok a =>
    if s.busy g va n false then .stall
    else
      .late s [.scalar f.r.toNat (extendTo n signed (readNat (s.view g) a n))]
        (if s.isBad a n then some (g.path, va, s.structOf a n) else none)

def execSld (f : FMg) (signed : Bool) (s : State) : Host.Outcome State Fault Refusal := run (.sld f signed) (bodySld f signed) s

/-- What ABIND binds (R196): frame and limit from the page that holds the base. -/
def bindAddr (s : State) (p : Nat) (base : W64) (limit : W32) : AddrReg :=
  match s.walk p base with
  | .page pg =>
    if pg.r || pg.w then
      let left := pg.bytes - base.toNat % pg.bytes
      { base := base, frame := BitVec.ofNat 64 (pg.pp + base.toNat % pg.bytes)
        limit := if limit.toNat ≤ left then limit else BitVec.ofNat 32 left
        page := pg.bytes, canR := pg.r, canW := pg.w }
    else { base := base, frame := 0, limit := 0 }
  | .stop .. => { base := base, frame := 0, limit := 0 }

/-- ABIND (R196). -/
def bodyAbind (f : FA) (s : State) (g : Group) (_ : Lanes) : Res :=
  let base := g.spair f.a.toNat
  if !canonical base then .trap s { code := 0x044, eaddr := base, einfo := some (addrInfo 7 false 6) }
  else .done (s.setGroup s.cur (g.setA f.d.toNat (bindAddr s (s.partOf g) base (g.sreg f.b.toNat))))

def execAbind (f : FA) (s : State) : Host.Outcome State Fault Refusal := run (.abind f) (bodyAbind f) s

/-- AQ (R196). -/
def execAq (f : FA) (sel : BitVec 2) (s : State) : Host.Outcome State Fault Refusal :=
  runG (.aq f sel) (fun g _ =>
    let x := g.areg f.a.toNat
    g.setS f.d.toNat (if sel = 0 then BitVec.ofNat 32 x.base.toNat
      else if sel = 1 then BitVec.ofNat 32 (x.base.toNat / 2^32) else x.limit)) s

end Sys2Proof.Machine
end

