-- ==== Sys2Proof/Machine/Tiles.lean ====
section
/-! DEFINITION. Tiles (R243 to R247): allocation at a level, element reads and writes, in Solstice mode staged (R166, R381). -/

namespace Sys2Proof.Machine

/-- Granules of 4 KiB that a tile takes (R243). -/
def granulesOf (rows rowBytes : Nat) : Nat := (rows * rowBytes + 4095) / 4096

/-- Granules that the tiles of a block take at a level. -/
def Block.granules (b : Block) (quad : Bool) : Nat :=
  b.tiles.foldl (fun acc t => if t.2.quad == quad then acc + granulesOf t.2.rows t.2.rowBytes else acc) 0

/-- Free granules of a core's store and of a quad's store (R41, R243, R245): the tiles of a saved partition and of a detached slice lie in
their save areas. -/
def State.freeCore (s : State) (c : Nat) : Nat :=
  Config.coreGranules - s.blocks.foldl (fun acc b => if b.2.core = c && s.resides b.2 then acc + b.2.granules false else acc) 0
def State.freeQuad (s : State) (q : Nat) : Nat :=
  Config.quadGranules -
    s.blocks.foldl (fun acc b => if Sys2Proof.Machine.quadOf b.2.core = q && s.resides b.2 then acc + b.2.granules true else acc) 0

/-- A tile of the group's block. -/
def State.tile? (s : State) (blk h : Nat) : Option Tile := (s.block? blk).bind (fun b => Table.get? b.tiles h)

/-- A shape that R243 refuses: bits above E2M1, tag 15, or E2M1 without I4x8. -/
def badShape (x : Nat) : Bool :=
  decide (x / 2^22 ≠ 0) || decide (x / 2^17 % 16 = 15) || (x.testBit 21 && decide (x / 2^17 % 16 ≠ 10))

/-- The tile of a shape (R243): every element reads as zero. -/
def shapeTile (x : Nat) : Tile :=
  { rows := x % 2^10 + 1, rowBytes := (x / 2^10 % 2^6 + 1) * 64, quad := x.testBit 16, tag := BitVec.ofNat 4 (x / 2^17)
    e2m1 := x.testBit 21 }

/-- TALLOC (R243). -/
def bodyTalloc (f : FI) (fromS : Bool) (s : State) (g : Group) (_ : Lanes) : Res :=
  let x := (if fromS then g.sreg f.a.toNat else f.imm).toNat
  if badShape x then .trap s { code := 0x048, einfo := some 2 }
  else if (s.tile? g.blk f.d.toNat).isSome then .trap s { code := 0x049, einfo := some 2 }
  else
    let t := shapeTile x
    let n := granulesOf t.rows t.rowBytes
    if (if t.quad then s.freeQuad (s.quadOf g) else s.freeCore (s.coreOf g)) < n then
      .trap s { code := 0x04A, einfo := some (BitVec.ofNat 64 n) }
    else .done (s.updBlock g.blk (fun b => { b with tiles := Table.put b.tiles f.d.toNat t }))

def execTalloc (f : FI) (fromS : Bool) (s : State) : Host.Outcome State Fault Refusal :=
  run (.talloc f fromS) (bodyTalloc f fromS) s

/-- A region is of a tile. -/
def Region.ofTile (r : Region) (blk h : Nat) : Bool :=
  match r with
  | .tile b k _ _ => b == blk && k == h
  | _ => false

/-- Staged writes to a tile that is freed fall away (log entry 28). -/
def Staged.dropTile (h : Nat) : Staged → Staged
  | .tile k cells => if k = h then .tile k [] else .tile k cells
  | op => op

/-- TFREE (R244). A follow-on command that has not been handed over yet holds its tiles too (R160; log entry 112). -/
def bodyTfree (f : FI) (s : State) (g : Group) (_ : Lanes) : Res :=
  let h := f.d.toNat
  if (s.tile? g.blk h).isNone then .trap s { code := 0x049, einfo := some 3 }
  else if s.jobs.any (fun j => j.2.st != .staged && (j.2.reads ++ j.2.writes).any (·.ofTile g.blk h)) then .stall
  else
    let s := s.updBlock g.blk (fun b => { b with tiles := Table.del b.tiles h })
    .done { s with groups := Table.mapAll s.groups (fun _ x =>
      if x.blk = g.blk then { x with staged := x.staged.map (Staged.dropTile h) } else x) }

def execTfree (f : FI) (s : State) : Host.Outcome State Fault Refusal := run (.tfree f) (bodyTfree f) s

/-- What TQ returns (R245). -/
def tileQuery (s : State) (g : Group) (h sel : Nat) : Nat :=
  match sel, s.tile? g.blk h with
  | 3, _ => s.freeCore (s.coreOf g)
  | 4, _ => s.freeQuad (s.quadOf g)
  | _, none => 0
  | 0, some t => 1 + 2 * t.tag.toNat + 32 * t.quad.toNat + 64 * t.e2m1.toNat
  | 1, some t => t.rows
  | _, some t => t.rowBytes

def execTq (f : FA) (sel : BitVec 3) (s : State) : Host.Outcome State Fault Refusal :=
  run (.tq f sel) (fun s g _ =>
    .done (s.setGroup s.cur (g.setS f.d.toNat (BitVec.ofNat 32 (tileQuery s g f.a.toNat sel.toNat))))) s

/-! ## TLD and TST -/

/-- An index of a tile access in a lane (R90, R246). -/
def tileIndex (g : Group) (x : Lane) (kind : BitVec 2) (v : Nat) : Nat :=
  if kind = 1 then (x.reg v).val.toNat else if kind = 2 then (g.sreg v).toNat else v

/-- Row and byte offset of each active lane's element, and whether it lies in the tile (R246). -/
def tilePlaces (f : FMt) (sz : BitVec 3) (t : Tile) (g : Group) (act : Lanes) : List (Nat × Nat × Nat × Bool) :=
  (lanesOf act).map (fun l =>
    let r := tileIndex g (g.lane l) f.rk f.row.toNat
    let c := tileIndex g (g.lane l) f.ck f.col.toNat
    (l, r, r * t.rowBytes + c * szBytes sz, decide (r < t.rows) && decide ((c + 1) * szBytes sz ≤ t.rowBytes)))

/-- The bytes of a tile as a group sees them: its own staged writes on top (R381). -/
def tileView (t : Tile) (h : Nat) (g : Group) : List Host.Cell :=
  g.staged.foldl (fun m op => match op with | .tile k cells => if k = h then writeCells m cells else m | _ => m) t.data

/-- The bytes from offset `o` on touch a codeword in error (R372); `badPart`: a write of them covers only part of one. -/
def Tile.isBad (t : Tile) (o n : Nat) : Bool := t.bad.any (fun k => decide (o < 16 * k + 16) && decide (16 * k < o + n))
def Tile.badPart (t : Tile) (o n : Nat) : Bool :=
  t.bad.any (fun k => decide (o < 16 * k + 16) && decide (16 * k < o + n) && !(decide (o ≤ 16 * k) && decide (16 * k + 16 ≤ o + n)))

/-- STRUCT of a tile's store: 3 core, 4 quad (R372). -/
def Tile.struct (t : Tile) : Nat := if t.quad then 4 else 3

/-- Write bytes from offset `o` on: the codewords that they touch are whole again (a write of a part was refused before). -/
def Tile.write (t : Tile) (o : Nat) (bs : List Byte) : Tile :=
  { t with data := writeBytes t.data o bs
           bad := t.bad.filter (fun k => decide (16 * k + 16 ≤ o) || decide (o + bs.length ≤ 16 * k)) }

/-- Write bytes of lanes in order. -/
def Tile.writeLanes (t : Tile) (cells : List Host.Cell) : Tile :=
  { t with data := writeCells t.data cells, bad := t.bad.filter (fun k => !cells.any (fun c => c.1 / 16 == k)) }

/-- The checks that TLD and TST share (R246): the handle, the source tags, the bounds, the range scoreboard, the codewords (R372). -/
def State.tileAccess (s : State) (g : Group) (act : Lanes) (f : FMt) (sz : BitVec 3) (srcs : List Src) (write : Bool)
    (k : Tile → List (Nat × Nat) → Res) : Res :=
  let h := f.th.toNat
  if act = 0 then .done s
  else
    match s.tile? g.blk h with
    | none => .trap s { code := 0x049, einfo := some 1 }
    | some t =>
      let srcs := if t.tag = tagRAW then [] else srcs.map (fun x => { x with tags := only t.tag })
      let bad := tagFails g act srcs
      if bad ≠ 0 then .trap s { code := 0x100, mask := some bad, einfo := none }
      else
        let ps := tilePlaces f sz t g act
        let out := ps.filter (fun p => !p.2.2.2)
        if !out.isEmpty then
          .trap s { code := 0x048, mask := some (maskOf (fun l => out.any (fun p => p.1 == l))), einfo := some 1 }
        else if ps.any (fun p => s.busyRow g h p.2.1 write) then .stall
        else
          let hit := ps.filter (fun p => if write then t.badPart p.2.2.1 (szBytes sz) else t.isBad p.2.2.1 (szBytes sz))
          if !hit.isEmpty then
            .trap s { code := 0x280, mask := some (maskOf (fun l => hit.any (fun p => p.1 == l))), einfo := some (BitVec.ofNat 64 t.struct) }
          else k t (ps.map (fun p => (p.1, p.2.2.1)))

/-- The registers that TLD loads (R246). -/
def tileRegs (sz : BitVec 3) (signed : Bool) (t : Tile) (m : List Host.Cell) (off : Nat) : List Reg :=
  let n := szBytes sz
  if n < 4 then [⟨extendTo n signed (readNat m off n), if signed then tagI32 else tagN32⟩]
  else regsOfBytes t.tag (readBytes m off n) (n / 4)

/-- TLD (R246). -/
def bodyTld (f : FMt) (sz : BitVec 3) (signed : Bool) (s : State) (g : Group) (act : Lanes) : Res :=
  s.tileAccess g act f sz [] false (fun t ps =>
    let m := tileView t f.th.toNat g
    let off (l : Nat) : Nat := ((ps.find? (fun p => p.1 == l)).map (·.2)).getD 0
    .done (s.setGroup s.cur (g.mapLanes act (fun l x => x.setRegs f.r.toNat (tileRegs sz signed t m (off l))))))

def execTld (f : FMt) (sz : BitVec 3) (signed : Bool) (s : State) : Host.Outcome State Fault Refusal :=
  run (.tld f sz signed) (bodyTld f sz signed) s

/-- TST (R246): lanes in ascending order; in Solstice mode the write is staged. -/
def bodyTst (f : FMt) (sz : BitVec 3) (s : State) (g : Group) (act : Lanes) : Res :=
  let n := szBytes sz
  let srcs : List Src := if n < 4 then [] else [{ reg := f.r.toNat, n := n / 4 }]
  s.tileAccess g act f sz srcs true (fun t ps =>
    let cells := ps.flatMap (fun p => cellsOf p.2 ((regBytes (g.lane p.1) f.r.toNat (szRegs sz)).take n))
    if s.isSolstice g.blk then .done (s.stage s.cur (.tile f.th.toNat cells) [])
    else .done (s.updBlock g.blk (fun b =>
      { b with tiles := Table.put b.tiles f.th.toNat (t.writeLanes cells) })))

def execTst (f : FMt) (sz : BitVec 3) (s : State) : Host.Outcome State Fault Refusal := run (.tst f sz) (bodyTst f sz) s

end Sys2Proof.Machine
end

