-- ==== Sys2Proof/Machine/Jobs.lean ====
section
/-! DEFINITION. The quad job scheduler: regions and edges (R158, R263, R281, R303, R423), the arrival of a card (R157, R248), credits
(R159, R253), parking and replay entries (R252, R369), the end of a job (R159, R262, R264). -/

namespace Sys2Proof.Machine

/-! ## Edges -/

/-- Two Lathe regions overlap (R263): cells do not overlap cells. -/
def LatheReg.overlaps (a b : LatheReg) : Bool :=
  match a, b with
  | .cells, .cells => false
  | .cells, .active => true
  | .active, .cells => true
  | a, b => a == b

/-- Two regions overlap (R158). -/
def Region.overlaps (a b : Region) : Bool :=
  match a, b with
  | .mem l h, .mem m k => decide (l < h) && decide (m < k) && decide (l < k) && decide (m < h)
  | .tile x t l h, .tile y u m k => x == y && t == u && decide (l < k) && decide (m < h)
  | .lathe r, .lathe q => r.overlaps q
  | .mark x, .mark y => x == y
  | _, _ => false

/-- Some region of one list overlaps some region of another. -/
def anyOverlap (xs ys : List Region) : Bool := xs.any (fun x => ys.any (fun y => x.overlaps y))

/-- The scheduler gives an edge from job `a` to the later job `b` (R158, R281 cases 1 and 2); between Burl cards of a block in
Solstice mode always (R264). -/
def edge (a b : Job) (sol : Bool) : Bool :=
  (a.part == b.part && (anyOverlap a.writes (b.reads ++ b.writes) || anyOverlap a.reads b.writes)) ||
    (a.kind.feedback && b.kind.burlRead && (a.gid == b.gid || a.seenBy.contains b.gid)) ||
    (sol && a.kind.burl && b.kind.burl)

/-- The jobs in the scheduler that have an edge to job `b` (R158). -/
def State.edgesTo (s : State) (id : Nat) (b : Job) : List Nat :=
  (s.jobs.filter (fun j => j.1 != id && j.2.quad == b.quad && s.jobHere j.2 && j.2.inFlight && edge j.2 b (s.isSolstice b.blk))).map (·.1)

/-- A job's card arrives at its quad's scheduler now. -/
def State.arriveJob (s : State) (id : Nat) : State :=
  match s.job? id with
  | none => s
  | some b => { s.updJob id (fun j => { j with st := .queued, preds := s.edgesTo id b, order := s.ticks }) with ticks := s.ticks + 1 }

/-- The scheduler of a quad holds 256 cards (R248). A card of Solstice mode enters it at its commit (R381, R382; log entry 90). -/
def State.queueFull (s : State) (q : Nat) : Bool :=
  decide (Config.cardQueue ≤ (s.jobs.filter (fun j => j.2.quad == q && s.jobHere j.2 && j.2.inFlight)).length)

/-- A new job with the next number, and its number. -/
def State.newJob (s : State) (j : Job) : Nat × State :=
  (s.ticks, { s.setJob s.ticks j with ticks := s.ticks + 1 })

/-- A card issues: its job arrives, or is staged in Solstice mode (R248, R381); with its follow-on command, if it has one (R251). -/
def State.issueCard (s : State) (gid : Nat) (j : Job) (follow : Option Job) : State :=
  let (id, s) := s.newJob { j with st := .staged }
  let s :=
    match follow with
    | none => s
    | some f => (s.newJob { f with st := .following, after := some id }).2
  if s.isSolstice j.blk then s.stage gid (.card id) [] else s.arriveJob id

/-! ## Credits -/

/-- Credit `n` bytes of a job on its copy barrier (R159, R253). -/
def State.creditJob (s : State) (j : Job) (n : Nat) : State :=
  match j.credit with
  | none => s
  | some (cb, phase) => s.updBlock j.blk (fun b => { b with cbs := Table.upd b.cbs cb (fun c => c.credit phase n) })

/-! ## Replay entries -/

/-- The free replay entries of a quad (R369). -/
def Quad.freeEntries (q : Quad) : List Nat :=
  (List.range Config.replayEntries).filter (fun e => !q.replay.any (fun x => x.1 == e))

/-- A free replay entry of a quad: which one is a free choice (log entry 11). -/
def State.pickEntry (s : State) (q : Nat) : State × Option Nat :=
  let es := (s.quad q).freeEntries
  if es.isEmpty then (s, none)
  else
    let (k, s) := s.takeFree 1
    (s, es[Config.freePick k es.length % es.length]?)

/-- Give a job a replay entry. -/
def State.takeEntry (s : State) (q e j : Nat) : State := s.updQuad q (fun r => { r with replay := Table.put r.replay e j })

/-- EINFO of ENGINE_XLATE (R252). -/
def engineInfo (j : Job) (e : Nat) (perm : Bool) : W64 :=
  BitVec.ofNat 64 (e + 256 * perm.toNat + (match j.stg with | some n => 512 * n | none => 0))

/-- A job tells its group a cause: it falls due now, and in Solstice mode where the block sees the job (R382; log entry 118). -/
def State.tell (s : State) (id : Nat) (j : Job) (d : Due) : State :=
  if s.isSolstice j.blk then s.updBlock j.blk (fun b => { b with later := b.later ++ [{ job := id, gid := j.gid, due := some d }] })
  else s.post j.gid j.blk d

/-- A job that met a fault gets entry `e`: it is parked, and its group takes ENGINE_XLATE (R252, R369). -/
def State.parkWith (s : State) (id e : Nat) (j : Job) (va : Nat) (perm : Bool) : State :=
  ((s.takeEntry j.quad e id).updJob id (fun r => { r with st := .parked (some e) })).tell id j
    { kind := .job, code := 0x050, eaddr := BitVec.ofNat 64 va, einfo := engineInfo j e perm, job := some id }

/-- The oldest job of a quad that waits for a free entry (R369). -/
def State.waitingEntry (s : State) (q : Nat) : Option (Nat × Job) :=
  (s.jobs.filter (fun j => j.2.quad == q && s.jobHere j.2 && j.2.st == .parked none)).foldl (fun acc j =>
    match acc with
    | none => some j
    | some k => if j.2.order < k.2.order then some j else some k) none

/-- Jobs that wait for an entry get the free ones, at most `n`. -/
def State.serveEntries (s : State) (q : Nat) : Nat → State
  | 0 => s
  | n + 1 =>
    match s.waitingEntry q, s.pickEntry q with
    | some (id, j), (s, some e) =>
      (s.parkWith id e j (match j.fault with | some f => f.1 | none => 0) (match j.fault with | some f => f.2 | none => false)).serveEntries q n
    | _, _ => s

/-- Jobs that wait for a replay entry on a quad get those that are free (R369). -/
def State.serveQuad (s : State) (q : Nat) : State := s.serveEntries q Config.replayEntries

/-- A job parks on a fault at address `va` (R252, R369). -/
def State.parkJob (s : State) (id : Nat) (j : Job) (va : Nat) (perm : Bool) : State :=
  let s := s.updJob id (fun r => { r with st := .parked none, fault := some (va, perm) })
  match s.pickEntry j.quad with
  | (s, some e) => s.parkWith id e j va perm
  | (s, none) => s

/-! ## The end of a job -/

/-- The follow-on command of a job. -/
def State.followOf (s : State) (id : Nat) : Option Nat := (s.jobs.find? (fun j => j.2.after == some id)).map (·.1)

/-- A job leaves the scheduler: its entries are free. -/
def State.dropJob (s : State) (id : Nat) (j : Job) : State :=
  ({ s with jobs := Table.del s.jobs id }.updQuad j.quad (fun q => q.dropJob id)).serveQuad j.quad

/-- FBC has wrapped at a job of group `gid`: FPSTAT.WR is set, and with TWR a cause falls due (R276). -/
def State.wrapFeedback (s : State) (gid b : Nat) : State :=
  let twr := match s.group? gid with | some g => fpTwr g.fpstat | none => false
  let s := s.updGroup gid (fun g => { g with fpstat := fpSet g.fpstat flWR })
  if twr then s.post gid b { kind := .wrap, code := 0x1C8 } else s

/-- A feedback job that has started ends (R276): FBC counts it, and its group sees a wrap of FBC; in Solstice mode where the block sees
the job (R382; log entry 118). -/
def State.countFeedback (s : State) (id : Nat) (j : Job) : State :=
  if !j.feeds then s
  else
    let s := s.updQuad j.quad (fun q => { q with lathe := { q.lathe with fbc := q.lathe.fbc + 1 } })
    if (s.quad j.quad).lathe.fbc ≠ 0 then s
    else if s.isSolstice j.blk then
      s.updBlock j.blk (fun b => { b with later := b.later ++ [{ job := id, gid := j.gid, due := none, wr := true }] })
    else s.wrapFeedback j.gid j.blk

/-- A release of the ticket unit owes every block of Solstice mode a further quantum end (R380). -/
def State.againAll (s : State) : State :=
  { s with blocks := Table.mapAll s.blocks (fun _ r => if r.solstice then { r with again := r.again + 1 } else r) }

/-- The jobs that the commit of block `b` at quantum end `k` carried have completed (R382). -/
def State.jobsDone (s : State) (b k : Nat) : Bool := !s.jobs.any (fun j => j.2.blk == b && j.2.quantum == some k)

/-- A completed job of a block of Solstice mode owes it a further quantum end, and every block where it was the last of a released
commit, whose release is over then (R380, R384; log entry 56). -/
def State.againEnd (s : State) (j : Job) : State :=
  match s.block? j.blk, j.quantum with
  | some r, some k =>
    if !r.solstice then s
    else if s.jobsDone j.blk k && r.commits.any (fun c => c.quantum == k && c.released) then s.againAll
    else s.updBlock j.blk (fun r => { r with again := r.again + 1 })
  | _, _ => s

/-- A job ends. `ok`: every byte has landed, and its follow-on command is handed over (R251); otherwise the follow-on is
discarded (log entry 29). The block retires when this was its last job (R48). -/
def State.endJob (s : State) (id : Nat) (ok : Bool) : State :=
  match s.job? id with
  | none => s
  | some j =>
    let s := (s.countFeedback id j).dropJob id j
    let s :=
      match s.followOf id with
      | none => s
      | some f => if ok then s.arriveJob f else { s with jobs := Table.del s.jobs f }
    (s.againEnd j).retireBlock j.blk

/-- A job ends with a cause for its group (R262, R264, R301): EADDR is the card's PC. -/
def State.failJob (s : State) (id : Nat) (code : Nat) (info : Nat) : State :=
  match s.job? id with
  | none => s
  | some j => (s.tell id j { kind := if code = 0x280 then .mce else .job, code := code, eaddr := j.pc
                             einfo := BitVec.ofNat 64 info }).endJob id false

/-! ## Memory and tiles of a job -/

/-- Operations of a released commit reach the ancestors of its block (R385 item 3). -/
def State.toAncestors (s : State) (b : Block) (ops : List (Nat × Staged)) : State :=
  b.ancestors.foldl (fun s x => if x.2.isEmpty then s else s.updBlock x.1 (fun r => { r with inbox := r.inbox ++ [(x.2, ops)] })) s

/-- The memory that a job's reads take their values from (R385). -/
def State.jobView (s : State) (j : Job) : List Host.Cell :=
  match (s.block? j.blk).bind (·.base) with
  | some v => v
  | none => s.mem

/-- A job's write of bytes at a system address. In Solstice mode it joins the view of its block and the commit that carried its
card; where that has been released it goes to memory, and to the ancestors that see the commit (R382, R384, R385; log entry 56). -/
def State.jobStore (s : State) (j : Job) (a : Nat) (bs : List Byte) : State :=
  if s.isSolstice j.blk then
    match s.block? j.blk with
    | none => s
    | some b =>
      let held := b.commits.any (fun c => some c.quantum == j.quantum && !c.released)
      let b := { b with
        base := b.base.map (fun m => writeBytes m a bs)
        commits := b.commits.map (fun c =>
          if some c.quantum == j.quantum && !c.released then { c with ops := c.ops ++ [(j.gid, .write (cellsOf a bs))] } else c) }
      let s := s.setBlock j.blk b
      let s := { s with groups := Table.mapAll s.groups (fun _ g => if g.blk = j.blk then g.breakResv a bs.length none else g) }
      if held then s else (s.store a bs none).toAncestors b [(j.gid, .write (cellsOf a bs))]
  else s.store a bs none

/-- One byte of a tile. -/
def Tile.byte (t : Tile) (k : Nat) : Byte := Sparse.get 0 t.data k

/-- `n` bytes of a tile from offset `k` on. -/
def Tile.bytes (t : Tile) (k n : Nat) : List Byte := readBytes t.data k n

/-- A tile of a job's block; an unbound handle reads as an empty tile. -/
def State.jobTile (s : State) (j : Job) (h : Nat) : Tile :=
  (s.tile? j.blk h).getD { rows := 0, rowBytes := 64, quad := true, tag := 0, e2m1 := false }

/-- Write bytes of a tile: codewords in error that they touch are cured, for a job's rows cover whole codewords (R371, R372). -/
def State.tilePut (s : State) (j : Job) (h off : Nat) (bs : List Byte) : State :=
  s.updBlock j.blk (fun b => { b with tiles := Table.upd b.tiles h (fun t => t.write off bs) })

/-- The range of `n` bytes from virtual address `va` on, as regions: two when it passes the top of the address space. -/
def memRegion (va : W64) (n : Nat) : List Region :=
  if va.toNat + n ≤ 2^64 then [.mem va.toNat (va.toNat + n)] else [.mem va.toNat (2^64), .mem 0 (va.toNat + n - 2^64)]

end Sys2Proof.Machine
end

