-- ==== Sys2Proof/Machine/Lathe.lean ====
section
/-! DEFINITION. What the Lathe computes: element formats (R113, R115, R116, R265), panels (R260, R266), matrix elements (R131 to R133,
R270), the clause machine of Burl mode (R274 to R280). -/

namespace Sys2Proof.Machine

/-! ## Formats -/

/-- A listed format code (R265). -/
def latheFmt (c : Nat) : Bool := [1, 2, 4, 5, 6, 7, 8, 9, 10, 11, 12].contains c

/-- Bits of an element (R265). -/
def latheBits (c : Nat) : Nat := if c = 2 then 1 else if c = 4 || c = 5 then 16 else if 10 ≤ c then 4 else 8

/-- The float format of a code; none: an integer or binary one (R265). -/
def latheFloat (c : Nat) : Option Fmt :=
  match c with
  | 4 => some fmtF16 | 5 => some fmtBF16 | 6 => some fmtE4M3 | 7 => some fmtE5M2 | 12 => some fmtE2M1
  | _ => none

/-- A tile's tag and E2M1 flag suit a code (R262, R265). -/
def latheTagOk (t : Tile) (c : Nat) : Bool :=
  t.tag == tagRAW || c == 2 ||
    (match c with
     | 1 => t.tag == tagBP8
     | 10 | 11 => t.tag == tagI4x8 && !t.e2m1
     | 12 => t.tag == tagI4x8
     | _ => t.tag == BitVec.ofNat 4 c)

/-- A format suits a kind's A operand, and a kind's panel (R269). -/
def kindA (kind c : Nat) : Bool :=
  match kind with
  | 0 => [8, 9, 10, 11].contains c | 1 => [4, 5, 6, 7, 12].contains c | 2 => c == 2 | _ => c == 1
def kindB (kind c : Nat) : Bool :=
  match kind with
  | 0 => [1, 8, 9, 10, 11].contains c | 1 => [4, 5, 6, 7, 12].contains c | 2 => c == 2 | _ => [1, 8, 9, 10, 11].contains c

/-- Element `k` of a tile row whose byte `i` is `row i`, as its bits (R115, R265). -/
def rawElem (c : Nat) (row : Nat → Nat) (k : Nat) : Nat :=
  if c = 1 then
    let b (p : Nat) : Nat := row (64 * (k / 64) + 8 * p + k % 64 / 8) / 2^(k % 8) % 2
    (List.range 8).foldl (fun acc p => acc + b p * 2^(7 - p)) 0
  else
    match latheBits c with
    | 1 => row (k / 8) / 2^(k % 8) % 2
    | 4 => row (k / 2) / 2^(4 * (k % 2)) % 16
    | 8 => row k
    | _ => row (2 * k) + 256 * row (2 * k + 1)

/-- bp (R116) of an 8-bit pattern, `n` planes. -/
def planes (x n : Nat) : Int := intOf 8 true (x / 2^(8 - n) * 2^(8 - n))

/-- The integer that an element of an integer or binary code is (R269), `n` planes of BP8. -/
def intElem (c n : Nat) (row : Nat → Nat) (k : Nat) : Int :=
  let x := rawElem c row k
  match c with
  | 1 => planes x n
  | 8 => intOf 8 true x
  | 10 => intOf 4 true x
  | _ => x

/-- The value of a float element, with its E8M0 scale when `sc` is set: the scales follow the `kk` elements (R113, R266). -/
def floatElemAt (f : Fmt) (c kk : Nat) (sc : Bool) (row : Nat → Nat) (k : Nat) : FVal :=
  let v := val f (rawElem c row k)
  if !sc then v
  else
    let e := row (kk * latheBits c / 8 + k / 32)
    if e = 255 then .nan
    else
      match v with
      | .fin s m x => .fin s m (x + (e : Int) - 127)
      | v => v

/-! ## Alignment -/

/-- expo of a finite nonzero value (R130). -/
def expoOf : FVal → Option Int
  | .fin _ m e => if m = 0 then none else some (expo m e)
  | _ => none

/-- The largest exponent of a K-block, 0 when it has no finite nonzero element (R132). -/
def blockExp (vs : List FVal) : Int :=
  match vs.filterMap expoOf with
  | [] => 0
  | e :: r => r.foldl max e

/-- Class of a panel element: 0 finite and positive, 1 finite and negative, 2 zero, 3 +infinity, 4 -infinity, 5 NaN (R260). -/
def classOf : FVal → Nat
  | .nan => 5
  | .inf s => if s then 4 else 3
  | .fin s m _ => if m = 0 then 2 else if s then 1 else 0

/-- qb (R132): RNE, clamped to ±127. -/
def alignB (eb : Int) : FVal → Int
  | .fin s m e =>
    let q := (roundTo .rn s m (e + 6 - eb) false 0).1
    clampInt (-127) 127 (if s then -(q : Int) else q)
  | _ => 0

/-- qa (R132): truncated. -/
def alignA (wa : Nat) (ea : Int) : FVal → Int
  | .fin s m e =>
    let q := (roundTo .rz s m (e + (wa : Int) - 1 - ea) false 0).1
    if s then -(q : Int) else q
  | _ => 0

/-- wA (R132). -/
def widthA (c : Nat) : Nat := if c = 4 || c = 5 then 12 else if c = 12 then 4 else 7

/-! ## Panels -/

/-- A panel cell's default: a zero. -/
def PCell.zero : PCell := ⟨0, 2⟩

/-- K elements of a panel (R259). -/
def panelK (lm : Nat) : Nat := 64 * 2^lm

/-- A column of a panel from a tile row: its cells, and the exponents of its K-blocks (R266). -/
def columnOf (fmt lm : Nat) (sc : Bool) (row : Nat → Nat) : List PCell × List Int :=
  let kk := panelK lm
  match latheFloat fmt with
  | none => ((List.range kk).map (fun k => let x := intElem fmt 8 row k; ⟨x, if x = 0 then 2 else if x < 0 then 1 else 0⟩), [])
  | some f =>
    let vs := (List.range kk).map (floatElemAt f fmt kk sc row)
    let ebs := (List.range (kk / 32)).map (fun b => blockExp ((vs.drop (32 * b)).take 32))
    (vs.mapIdx (fun k v => ⟨alignB (ebs.getD (k / 32) 0) v, classOf v⟩), ebs)

/-- Put a column into a panel. -/
def Panel.putColumn (p : Panel) (j : Nat) (col : List PCell × List Int) : Panel :=
  let kk := panelK p.lm
  { p with
    cells := col.1.zipIdx.foldl (fun m x => Sparse.set PCell.zero m (j * kk + x.2) x.1) p.cells
    eb := col.2.zipIdx.foldl (fun m x => Sparse.set 0 m (j * (kk / 32) + x.2) x.1) p.eb
    bad := p.bad.filter (· != j) }

/-- MLOADB on the shadow panel (R266): `row i` is tile row ROW0 + i, byte by byte. -/
def mloadbOn (p : Panel) (id lm fmt : Nat) (sc : Bool) (j0 cnt : Nat) (row : Nat → Nat → Nat) : Panel :=
  let p : Panel := if p.id = id && p.lm = lm && p.fmt = fmt then p else { id := id, lm := lm, fmt := fmt }
  (List.range cnt).foldl (fun p i => p.putColumn (j0 + i) (columnOf fmt lm sc (row i))) p

/-! ## MMA -/

/-- The specials of an element (R133): some pattern decides it; none: the procedure of R132 does. `ps` holds, for each k, the
class of a and the class of b. -/
def specials (ps : List (Nat × Nat)) (c : Nat) : Option Nat :=
  let inf (x : Nat) : Bool := x == 3 || x == 4
  let neg (x : Nat) : Bool := x == 1 || x == 4
  let bad (x : Nat × Nat) : Bool := x.1 == 5 || x.2 == 5 || (inf x.1 && x.2 == 2) || (x.1 == 2 && inf x.2)
  if ps.any bad then some fmtF32.nan
  else
    let signs := (ps.filter (fun x => inf x.1 || inf x.2)).map (fun x => neg x.1 != neg x.2)
    let signs := match val fmtF32 c with | .inf s => s :: signs | _ => signs
    match signs with
    | [] => none
    | s :: r => if r.all (· == s) then some (infPat fmtF32 s) else some fmtF32.nan

/-- One block's addition (R132): rne(acc + S * 2^e, f32). -/
def addBlock (acc : Nat) (x : Int × Int) : Nat :=
  match val fmtF32 acc with
  | .nan => fmtF32.nan
  | .inf _ => acc
  | .fin s m e => if m = 0 && x.1 = 0 then 0 else (rneF32 ((exactOf s m e).add ⟨x.1, x.2⟩)).1

/-- A float matrix element (R132, R133): `a` the row's values, panel column `j`, `c` the pattern added to. -/
def floatElement (p : Panel) (afmt j : Nat) (a : List FVal) (c : Nat) : Nat :=
  let kk := panelK p.lm
  let cell (k : Nat) : PCell := Sparse.get PCell.zero p.cells (j * kk + k)
  match specials (a.mapIdx (fun k v => (classOf v, (cell k).cls))) c with
  | some r => r
  | none =>
    let wa := widthA afmt
    let block (b : Nat) : Int × Int :=
      let vs := (a.drop (32 * b)).take 32
      let ea := blockExp vs
      let qs := vs.mapIdx (fun i v => alignA wa ea v * (cell (32 * b + i)).q)
      (qs.foldl (· + ·) 0, ea + Sparse.get 0 p.eb (j * (kk / 32) + b) - (wa : Int) - 5)
    ((List.range (kk / 32)).map block).foldl addBlock c

/-- An integer or binary matrix element (R131, R270). -/
def intElement (p : Panel) (kind : Nat) (bop : Bool) (j : Nat) (a : List Int) (c : Nat) : Nat :=
  let kk := panelK p.lm
  let b (k : Nat) : Int := (Sparse.get PCell.zero p.cells (j * kk + k)).q
  let term (k : Nat) (x : Int) : Int :=
    if kind = 2 then (if bop then x * b k else (x + b k) % 2) else x * b k
  wrapTo 32 (((a.mapIdx term).foldl (· + ·) 0) + c)

/-- One C element of an MMA (R270): the A row byte by byte, the window column, C's pattern. -/
def mmaElement (p : Panel) (kind afmt kp : Nat) (sca bop : Bool) (row : Nat → Nat) (j c : Nat) : Nat :=
  let kk := panelK p.lm
  match latheFloat afmt with
  | some f => floatElement p afmt j ((List.range kk).map (floatElemAt f afmt kk sca row)) c
  | none => intElement p kind bop j ((List.range kk).map (intElem afmt (kp + 1) row)) c

/-! ## Burl mode -/

/-- A Burl cell by its number (R274). -/
def Lathe.cell (l : Lathe) (k : Nat) : Nat := Sparse.get l.fill l.ctrs k
def Lathe.setCell (l : Lathe) (k v : Nat) : Lathe := { l with ctrs := Sparse.set l.fill l.ctrs k v }

/-- Cells from number `lo` on, `n` of them, touch a codeword in error; `badPart`: a write of them covers only part of one (R372). -/
def Lathe.badCells (l : Lathe) (lo n : Nat) : Bool := l.bad.any (fun k => decide (lo < 16 * k + 16) && decide (16 * k < lo + n))
def Lathe.badPart (l : Lathe) (lo n : Nat) : Bool :=
  l.bad.any (fun k => decide (lo < 16 * k + 16) && decide (16 * k < lo + n) &&
    !(decide (lo ≤ 16 * k) && decide (16 * k + 16 ≤ lo + n)))
/-- A write of whole codewords cures them (R372). -/
def Lathe.cure (l : Lathe) (lo n : Nat) : Lathe :=
  { l with bad := l.bad.filter (fun k => decide (16 * k + 16 ≤ lo) || decide (lo + n ≤ 16 * k)) }

/-- Literal `k` of slot `s` (R274, R277). -/
def Lathe.lit (l : Lathe) (s k : Nat) : Bool :=
  let f := k / 2
  let x := (readByte l.slots (4096 * s + f / 8)).toNat.testBit (f % 8)
  if k % 2 = 0 then x else !x

/-- Output of clause `c` on slot `s`; `empty` is the output of a clause that includes nothing (R278, R279). -/
def Lathe.clause (l : Lathe) (c s : Nat) (empty : Bool) : Bool :=
  let inc := (List.range l.literals).filter (fun k => decide (128 ≤ l.cell (c * l.literals + k)))
  if inc.isEmpty then empty else inc.all (fun k => l.lit s k)

/-- The vote of class `q` on slot `s` (R278). -/
def Lathe.voteOf (l : Lathe) (s q : Nat) (train : Bool) : Int :=
  let per := l.clauses / l.classes
  let v := (List.range per).foldl (fun (acc : Int) i =>
    let c := q * per + i
    if l.clause c s train then (if c % 2 = 0 then acc + 1 else acc - 1) else acc) 0
  clampInt (-(l.vote : Int)) l.vote v

/-- The new value of a cell under a table entry (R275, R279): `u` the draw's low half. -/
def cellMove (e : W32) (v u : Nat) : Nat :=
  let gate := e.toNat / 2^18 % 4
  let dir := e.toNat / 2^16 % 4
  let thr := e.toNat % 2^16
  let open' := gate = 0 || (gate = 1 && v < 128) || (gate = 2 && 128 ≤ v)
  if open' && dir ≠ 0 && (thr = 0xFFFF || u < thr) then (if dir = 1 then min (v + 1) 255 else v - 1) else v

/-- The low half of a draw of a stream of R276. -/
def Lathe.draw16 (l : Lathe) (key : Nat) : Nat := (drawAt (l.seed ^^^ BitVec.ofNat 64 key) l.fbc).toNat % 2^16

/-- One clause of a feedback job (R279), on the cells as they stood when the job started. -/
def Lathe.feedClause (l0 l : Lathe) (tab : List W32) (slot c : Nat) : Lathe :=
  let o := l0.clause c slot true
  (List.range l0.literals).foldl (fun l k =>
    let n := c * l0.literals + k
    let e := tab.getD ((if o then 2 else 0) + (if l0.lit slot k then 1 else 0)) 0
    l.setCell n (cellMove e (l0.cell n) (l0.draw16 (c * 2^32 + k)))) l

/-- A feedback job (R279): its moves. FBC counts the job when it ends (R276). -/
def Lathe.feedback (l : Lathe) (second : Bool) (pc pol slot cnt c0 : Nat) : Lathe :=
  let tab := if second then l.tab2 else l.tab1
  let takes (c : Nat) : Bool :=
    (pol == 0 || c % 2 == pol - 1) && (pc == 0xFFFF || decide (l.draw16 (2^63 + c) < pc))
  (((List.range cnt).map (c0 + ·)).filter takes).foldl (fun x c => Lathe.feedClause l x tab slot c) l

/-- The cells of `cnt` clauses from clause `c0` on, each as in `l` or as in `m`, by the free bits from number `k` on (R281). -/
def Lathe.mixed (l m : Lathe) (c0 cnt k : Nat) : Lathe :=
  (List.range (cnt * l.literals)).foldl (fun x i =>
    let n := c0 * l.literals + i
    if Config.freeBit (k + i) then x.setCell n (m.cell n) else x) l

/-- Codewords of input slot `slot` that hold its features, in uncorrectable error (R277, R372). -/
def Lathe.badSlot (l : Lathe) (slot : Nat) : Bool := l.badSlots.any (fun k => k / 256 == slot && decide (16 * (k % 256) < l.literals / 16))

/-- A table entry is valid (R275). -/
def goodEntry (e : Nat) : Bool := decide (e < 2^20) && decide (e / 2^18 ≠ 3) && decide (e / 2^16 % 4 ≠ 3)

/-- A Burl block is valid (R275); `w` reads the block's 4-byte words, `b` its bytes. -/
def goodBlock (w b : Nat → Nat) : Bool :=
  let c := w 1
  let l := w 2
  decide (0 < c) && decide (0 < l) && c % 64 == 0 && l % 64 == 0 && decide (c * l ≤ 262144) && decide (l ≤ 65536) &&
    decide (1 ≤ w 3) && decide (w 3 ≤ 1024) && c % (2 * w 3) == 0 && decide (1 ≤ w 4) && decide (w 4 ≤ 32767) &&
    (List.range 11).all (fun i => b (0x15 + i) == 0) && (List.range 8).all (fun i => goodEntry (w (8 + i)))

/-- AUTO.CFG (R275): the Lathe after a valid block; none: LATHE_STATE 6 (a reserved MODE bit too, log entry 30). -/
def Lathe.configure (l : Lathe) (bs : List Byte) : Option Lathe :=
  let b (i : Nat) : Nat := (bs.getD i 0).toNat
  let w (i : Nat) : Nat := natOfBytes ((bs.drop (4 * i)).take 4)
  let mode := w 0
  if 4 ≤ mode then none
  else if mode % 2 = 0 then
    some (if l.burl then { l with burl := false, active := {}, shadow := {}, fill := 0, ctrs := [], bad := [], slots := [], badSlots := [] } else l)
  else if !goodBlock w b then none
  else
    let l := if !l.burl || decide (2 ≤ mode) then { l with fill := b 0x14, ctrs := [], bad := [] } else l
    let l := if !l.burl then { l with slots := [], badSlots := [], active := {}, shadow := {} } else l
    some { l with burl := true, clauses := w 1, literals := w 2, classes := w 3, vote := w 4, init := b 0x14
                  tab1 := (List.range 4).map (fun i => BitVec.ofNat 32 (w (8 + i)))
                  tab2 := (List.range 4).map (fun i => BitVec.ofNat 32 (w (12 + i))) }

end Sys2Proof.Machine
end

