-- ==== Sys2Proof/Machine/Cards.lean ====
section
/-! DEFINITION. The issue of a Lathe card and of a follow-on command (R261 to R268, R275 to R280): its words, its checks in R262's
order, its regions (R263). -/

namespace Sys2Proof.Machine

/-- Scalar word `i` of a card (R248). -/
def cardWord (g : Group) (f : FJ) (i : Nat) : Nat := (g.sreg (f.sc.toNat + i)).toNat

/-- A card's job kind with the regions it reads and writes. -/
abbrev Card := JobKind × List Region × List Region

/-- EINFO of a check of a card, or of a follow-on command (R262). -/
def cardInfo (n : Nat) (fol : Bool) : Option W64 := some (BitVec.ofNat 64 (n + if fol then 4 else 0))

/-- LATHE_ARG in word `i` (R262). -/
def latheArg (i : Nat) (fol : Bool) : Trap := { code := 0x1C0, einfo := cardInfo i fol }

/-- A quad tile of the card's block, or TILE_HANDLE (R262). -/
def State.latheTile (s : State) (blk h : Nat) (fol : Bool) : Except Trap Tile :=
  match s.tile? blk h with
  | none => .error { code := 0x049, einfo := cardInfo 1 fol }
  | some t => if t.quad then .ok t else .error { code := 0x049, einfo := cardInfo 8 fol }

/-- TILE_BOUNDS of a card (R262). -/
def tileBounds (fol : Bool) : Trap := { code := 0x048, einfo := cardInfo 1 fol }

/-- FMT_MISMATCH of a card: EINFO the word, 4 for a follow-on command (R262, R362). -/
def cardFmt (fol : Bool) : Trap := { code := 0x100, einfo := if fol then some 4 else none }

/-- A field of a word: `n` bits from bit `lo` on. -/
def fieldOf (w lo n : Nat) : Nat := w / 2^lo % 2^n

/-- Bytes of a row that holds K elements of a format, with its scales (R266, R268). -/
def rowNeed (fmt lm : Nat) (sc : Bool) : Nat := panelK lm * latheBits fmt / 8 + (if sc then panelK lm / 32 else 0)

/-! ## Panels and MMA -/

/-- MLOADB (R266). -/
def mloadbCard (s : State) (blk h w0 w1 : Nat) (fol : Bool) : Except Trap Card :=
  let id := fieldOf w0 16 16
  let sc := w0.testBit 7
  let fmt := fieldOf w0 3 4
  let lm := fieldOf w0 0 3
  let cnt := fieldOf w1 22 10 + 1
  let j0 := fieldOf w1 10 12
  let row0 := fieldOf w1 0 10
  if id = 0 || fieldOf w0 8 8 ≠ 0 || 6 < lm || !latheFmt fmt || (sc && (latheFloat fmt).isNone) then .error (latheArg 0 fol)
  else if 64 * (64 / 2^lm) < j0 + cnt then .error (latheArg 0 fol)
  else
    match s.latheTile blk h fol with
    | .error t => .error t
    | .ok t =>
      if t.rows < row0 + cnt || t.rowBytes < rowNeed fmt lm sc then .error (tileBounds fol)
      else if !latheTagOk t fmt then .error (cardFmt fol)
      else .ok (.mloadb h id lm fmt sc j0 cnt row0, [.tile blk h row0 (row0 + cnt), .lathe .config], [.lathe .shadow])

/-- MSWAP (R267). -/
def mswapCard (w0 : Nat) (fol : Bool) : Except Trap Card :=
  if fieldOf w0 16 16 ≠ 0 then .error (latheArg 0 fol)
  else .ok (.mswap w0, [.lathe .active, .lathe .shadow], [.lathe .active, .lathe .shadow])

/-- LATHE_ARG of an MMA's words: each word's own checks, then those of several words (R268, log entry 34). -/
def mmaArg (ha w0 w1 w2 : Nat) : Option Nat :=
  let kind := fieldOf w0 0 2
  let lm := fieldOf w0 12 3
  let rows := fieldOf w1 10 10 + 1
  let arow0 := fieldOf w1 0 10
  let crow0 := fieldOf w2 0 10
  if fieldOf w0 16 16 = 0 || w0.testBit 15 || 6 < lm || !kindA kind (fieldOf w0 2 4) || (w0.testBit 10 && kind ≠ 1) ||
      (fieldOf w0 6 3 ≠ 0 && kind ≠ 3) || (w0.testBit 11 && kind ≠ 2) then some 0
  else if fieldOf w1 26 6 ≠ 0 then some 1
  else if fieldOf w2 22 10 ≠ 0 then some 2
  else if 64 / 2^lm < fieldOf w2 10 6 + fieldOf w2 16 6 + 1 then some 0
  else if ha = fieldOf w1 20 6 && arow0 < crow0 + rows && crow0 < arow0 + rows then some 1
  else none

/-- MMA (R268). Of two tiles that R262 refuses the first, tile A, gives EINFO (log entry 34). -/
def mmaCard (s : State) (blk ha w0 w1 w2 pri : Nat) (fol : Bool) : Except Trap Card :=
  match mmaArg ha w0 w1 w2 with
  | some i => .error (latheArg i fol)
  | none =>
    let kind := fieldOf w0 0 2
    let fmt := fieldOf w0 2 4
    let lm := fieldOf w0 12 3
    let sca := w0.testBit 10
    let acc := w0.testBit 9
    let hc := fieldOf w1 20 6
    let rows := fieldOf w1 10 10 + 1
    let arow0 := fieldOf w1 0 10
    let wn := fieldOf w2 16 6
    let crow0 := fieldOf w2 0 10
    match s.latheTile blk ha fol, s.latheTile blk hc fol with
    | .error t, _ => .error t
    | _, .error t => .error t
    | .ok ta, .ok tc =>
      if ta.rows < arow0 + rows || tc.rows < crow0 + rows || ta.rowBytes < rowNeed fmt lm sca || tc.rowBytes < 256 * (wn + 1) then
        .error (tileBounds fol)
      else if !latheTagOk ta fmt ||
          !(tc.tag == tagRAW || (if kind = 1 then tc.tag == tagF32 else tc.tag == tagI32 || tc.tag == tagN32)) then
        .error (cardFmt fol)
      else
        let c : Region := .tile blk hc crow0 (crow0 + rows)
        .ok (.mma ha hc (fieldOf w0 16 16) lm kind fmt (fieldOf w0 6 3) (w0.testBit 11) sca acc rows arow0 wn (fieldOf w2 10 6)
              crow0 pri,
             [.tile blk ha arow0 (arow0 + rows), .lathe .active, .lathe .config] ++ (if acc then [c] else []), [c])

/-! ## Burl -/

/-- AUTO.CFG (R275): `va` the block's address. -/
def cfgCard (va : W64) : Except Trap Card :=
  if !canonical va then .error { code := 0x044, eaddr := va, einfo := some (addrInfo 7 false 4) }
  else if va.toNat % 64 ≠ 0 then .error { code := 0x041, eaddr := va, einfo := some (addrInfo 7 false 4) }
  else .ok (.autoCfg va.toNat, memRegion va 64, [.lathe .config, .lathe .active, .lathe .shadow])

/-- AUTO.LDX (R277). -/
def ldxCard (s : State) (blk h w0 : Nat) : Except Trap Card :=
  let row0 := fieldOf w0 0 10
  let cnt := fieldOf w0 10 6 + 1
  let s0 := fieldOf w0 16 6
  if fieldOf w0 22 10 ≠ 0 || 64 < s0 + cnt then .error (latheArg 0 false)
  else
    match s.latheTile blk h false with
    | .error t => .error t
    | .ok t =>
      if t.rows < row0 + cnt then .error (tileBounds false)
      else .ok (.autoLdx h row0 cnt s0, [.tile blk h row0 (row0 + cnt), .lathe .config], [.lathe .shadow])

/-- AUTO.INF (R278). -/
def infCard (s : State) (blk h w0 w1 : Nat) (train : Bool) : Except Trap Card :=
  let s0 := fieldOf w0 0 6
  let cnt := fieldOf w0 6 6 + 1
  let row0 := fieldOf w1 0 10
  if fieldOf w0 12 20 ≠ 0 || 64 < s0 + cnt then .error (latheArg 0 false)
  else if fieldOf w1 10 22 ≠ 0 then .error (latheArg 1 false)
  else
    match s.latheTile blk h false with
    | .error t => .error t
    | .ok t =>
      if t.rows < row0 + cnt then .error (tileBounds false)
      else if !(t.tag == tagRAW || t.tag == tagI32) then .error (cardFmt false)
      else .ok (.autoInf train h s0 cnt row0, [.lathe .shadow, .lathe .config, .lathe .cells], [.tile blk h row0 (row0 + cnt)])

/-- AUTO.FB1 and AUTO.FB2 (R279). -/
def fbCard (w0 w1 : Nat) (second : Bool) : Except Trap Card :=
  let cnt := fieldOf w1 12 13
  if fieldOf w0 8 8 ≠ 0 || fieldOf w0 6 2 = 3 then .error (latheArg 0 false)
  else if fieldOf w1 25 7 ≠ 0 || cnt = 0 || 4096 < cnt then .error (latheArg 1 false)
  else .ok (.autoFb second (fieldOf w0 16 16) (fieldOf w0 6 2) (fieldOf w0 0 6) cnt (fieldOf w1 0 12),
            [.lathe .shadow, .lathe .config, .lathe .stream], [.lathe .stream, .lathe .cells])

/-- AUTO.RD and AUTO.WR (R280). -/
def rdwrCard (s : State) (blk h w0 w1 : Nat) (write : Bool) : Except Trap Card :=
  let c0 := fieldOf w0 0 12
  let cnt := fieldOf w0 12 10 + 1
  let row0 := fieldOf w1 0 10
  let l0 := 64 * fieldOf w1 10 10
  if fieldOf w0 22 10 ≠ 0 then .error (latheArg 0 false)
  else if fieldOf w1 20 12 ≠ 0 then .error (latheArg 1 false)
  else
    match s.latheTile blk h false with
    | .error t => .error t
    | .ok t =>
      let rows : Region := .tile blk h row0 (row0 + cnt)
      if t.rows < row0 + cnt then .error (tileBounds false)
      else if !(t.tag == tagRAW || t.tag == tagN8x4) then .error (cardFmt false)
      else if write then .ok (.autoWr h c0 cnt row0 l0, [rows, .lathe .config], [.lathe .active])
      else .ok (.autoRd h c0 cnt row0 l0, [.lathe .config, .lathe .cells], [rows])

/-! ## Issue -/

/-- STG of a card (R92). -/
def cardStage (f : FJ) : Option Nat := if f.stgv then some f.stg.toNat else none

/-- The barrier and phase that a card credits (R253); none without one. -/
def State.creditOf (s : State) (g : Group) (cb : Option Nat) : Option (Nat × Nat) :=
  cb.map (fun n => (n, ((s.blockOf g).copyBar n).phase))

/-- The job of a card of group `gid`. -/
def State.jobOf (s : State) (gid : Nat) (g : Group) (f : FJ) (c : Card) (cb : Option Nat) : Job :=
  { kind := c.1, part := s.partOf g, quad := s.quadOf g, gid := gid, blk := g.blk, pc := g.pc, stg := cardStage f
    scope := f.scope.toNat, credit := s.creditOf g cb, reads := c.2.1, writes := c.2.2 }

/-- The end of a card's issue (R248): the credited barrier, the queue, the job. -/
def State.cardRes (s : State) (g : Group) (f : FJ) (c : Except Trap Card) (cb : Option Nat) (follow : Option Card) : Res :=
  match c with
  | .error t => .trap s t
  | .ok c =>
    let fresh (n : Nat) : Bool := !((s.blockOf g).copyBar n).init
    if cb.any fresh then .trap s { code := 0x140, einfo := some 9 }
    else if s.queueFull (s.quadOf g) then .stall
    else .done (s.issueCard s.cur (s.jobOf s.cur g f c cb) (follow.map (fun k => s.jobOf s.cur g f k cb)))

/-- The follow-on command of a copy with destination tile `h` (R251): its words are sK+3 to sK+5; none: FOLLOW is 0. -/
def State.followCard (s : State) (g : Group) (f : FJ) (h : Nat) : Except Trap (Option Card) :=
  let w (i : Nat) := cardWord g f (3 + i)
  match f.follow.toNat with
  | 1 => (mloadbCard s g.blk h (w 0) (w 1) true).map some
  | 2 => (mmaCard s g.blk h (w 0) (w 1) (w 2) 0 true).map some
  | 3 => (mswapCard (w 0) true).map some
  | _ => .ok none

/-- The copy barrier of a card with .nb (R249, R261). -/
def cardBar (f : FJ) (nb : Bool) : Option Nat := if nb then none else some f.cb.toNat

/-! ## The Lathe cards -/

def execMloadb (f : FJ) (s : State) : Host.Outcome State Fault Refusal :=
  run (.mloadb f) (fun s g _ =>
    s.cardRes g f (mloadbCard s g.blk f.th.toNat (cardWord g f 0) (cardWord g f 1) false) none none) s

def execMswap (f : FJ) (s : State) : Host.Outcome State Fault Refusal :=
  run (.mswap f) (fun s g _ => s.cardRes g f (mswapCard (cardWord g f 0) false) none none) s

def execMma (f : FJ) (pri : BitVec 2) (nb : Bool) (s : State) : Host.Outcome State Fault Refusal :=
  run (.mma f pri nb) (fun s g _ =>
    s.cardRes g f (mmaCard s g.blk f.th.toNat (cardWord g f 0) (cardWord g f 1) (cardWord g f 2) pri.toNat false)
      (cardBar f nb) none) s

/-- AUTO.CFG (R275). -/
def execAutoCfg (f : FJ) (s : State) : Host.Outcome State Fault Refusal :=
  run (.autoCfg f) (fun s g _ =>
    s.cardRes g f (cfgCard ((g.areg f.ar.toNat).base + (g.sreg f.sc.toNat).signExtend 64)) none none) s

/-- AUTO.SEED (R276): SEED from sK and sK+1, FBC from sK+2. -/
def execAutoSeed (f : FJ) (s : State) : Host.Outcome State Fault Refusal :=
  run (.autoSeed f) (fun s g _ =>
    s.cardRes g f (.ok (.autoSeed (g.spair f.sc.toNat) (g.sreg (f.sc.toNat + 2)), [], [.lathe .stream])) none none) s

def execAutoLdx (f : FJ) (s : State) : Host.Outcome State Fault Refusal :=
  run (.autoLdx f) (fun s g _ => s.cardRes g f (ldxCard s g.blk f.th.toNat (cardWord g f 0)) none none) s

def execAutoInf (f : FJ) (train nb : Bool) (s : State) : Host.Outcome State Fault Refusal :=
  run (.autoInf f train nb) (fun s g _ =>
    s.cardRes g f (infCard s g.blk f.th.toNat (cardWord g f 0) (cardWord g f 1) train) (cardBar f nb) none) s

def execAutoFb1 (f : FJ) (s : State) : Host.Outcome State Fault Refusal :=
  run (.autoFb1 f) (fun s g _ => s.cardRes g f (fbCard (cardWord g f 0) (cardWord g f 1) false) none none) s

def execAutoFb2 (f : FJ) (s : State) : Host.Outcome State Fault Refusal :=
  run (.autoFb2 f) (fun s g _ => s.cardRes g f (fbCard (cardWord g f 0) (cardWord g f 1) true) none none) s

def execAutoRd (f : FJ) (nb : Bool) (s : State) : Host.Outcome State Fault Refusal :=
  run (.autoRd f nb) (fun s g _ =>
    s.cardRes g f (rdwrCard s g.blk f.th.toNat (cardWord g f 0) (cardWord g f 1) false) (cardBar f nb) none) s

def execAutoWr (f : FJ) (s : State) : Host.Outcome State Fault Refusal :=
  run (.autoWr f) (fun s g _ =>
    s.cardRes g f (rdwrCard s g.blk f.th.toNat (cardWord g f 0) (cardWord g f 1) true) none none) s

/-- AUTO.FENCE (R282): the group waits for its Lathe jobs. -/
def execAutoFence (f : FJ) (s : State) : Host.Outcome State Fault Refusal :=
  run (.autoFence f) (fun s g _ => s.awaitRes g .autoFence) s

end Sys2Proof.Machine
end

