-- ==== Sys2Proof/Machine/Control.lean ====
section
/-! DEFINITION. NOP, branches and calls (R173 to R175), EXIT and EXIT.J (R176, R296), loops (R183, R185), YIELD (R186). -/

namespace Sys2Proof.Machine

/-- NOP changes nothing but the PC (R107). -/
def execNop (s : State) : Host.Outcome State Fault Refusal := runG .nop (fun g _ => g) s

/-- A PC-relative target (R84). -/
def target (g : Group) (off : W32) : W64 := g.pc + 8 * off.signExtend 64

/-- JD: RA and XP as one 11-bit field (R173). -/
def joinDist (f : FC) : Nat := 8 * f.ra.toNat + f.xp.toNat

/-- Split the group's path, or trap with STACK_OVERFLOW when a needed entry is not free (R168, R171). `g` has its results of a
transfer landed. -/
def splitTo (s : State) (g : Group) (t : Lanes) (tpc fpc rpc : W64) (kind : EntryKind) : Res :=
  if splitPushes g t tpc fpc kind && s.stackFull g then .trap s { code := 0x007, einfo := none }
  else
    let x := split s.nextEntry s.cur g (s.ownEntries s.cur g) t tpc fpc rpc kind
    .jump ({ s with nextEntry := if splitPushes g t tpc fpc kind then s.nextEntry + 1 else s.nextEntry }.putPath s.cur x)

/-- BRA (R174): active lanes transfer, to PC + 8 too, and the windows of the path close (R95, log entry 23). -/
def bodyBra (f : FC) (s : State) (g : Group) (act : Lanes) : Res :=
  if act = 0 then .done s
  else
    let t := target g f.off
    let nx := g.pc + 8
    let rpc := if joinDist f = 0 then (if nx.toNat ≤ t.toNat then t else nx) else g.pc + 8 * BitVec.ofNat 64 (joinDist f)
    splitTo s g.landPath act t nx rpc .br

def execBra (f : FC) (s : State) : Host.Outcome State Fault Refusal := run (.bra f) (bodyBra f) s

/-- Target pairs of the active lanes, checked for NONCANON and then ALIGN (R174). -/
def targetsOf (g : Group) (act : Lanes) (ra : Nat) : Except Trap (List (Nat × W64)) :=
  let ts := (lanesOf act).map (fun l => (l, (g.lane l).pair ra))
  let fails := ts.filterMap (fun x =>
    if !canonical x.2 then some (x.1, x.2, ({ rank := 0 } : AddrFail))
    else if x.2.toNat % 8 ≠ 0 then some (x.1, x.2, ({ rank := 1 } : AddrFail))
    else none)
  match failTrap 5 fails with
  | some t => .error t
  | none => .ok ts

/-- BRX and CALLX (R174): lanes with the first lane's target go, the others stay at this PC. -/
def bodyIndirect (f : FC) (rpc : Group → W64) (kind : EntryKind) (s : State) (g : Group) (act : Lanes) : Res :=
  match targetsOf g act f.ra.toNat with
  | .error t => .trap s t
  | .ok ts =>
    match ts with
    | [] => .done s
    | (_, t0) :: _ =>
      let same := maskOf (fun l => ts.any (fun x => x.1 == l && x.2 == t0))
      splitTo s g.landPath same t0 g.pc (rpc g) kind

def execBrx (f : FC) (s : State) : Host.Outcome State Fault Refusal :=
  run (.brx f) (bodyIndirect f (fun g => target g f.off) .br) s

/-- CALL (R174). -/
def bodyCall (f : FC) (s : State) (g : Group) (act : Lanes) : Res :=
  if act = 0 then .done s
  else splitTo s g.landPath act (target g f.off) (g.pc + 8) (g.pc + 8) .call

def execCall (f : FC) (s : State) : Host.Outcome State Fault Refusal := run (.call f) (bodyCall f) s

def execCallx (f : FC) (s : State) : Host.Outcome State Fault Refusal :=
  run (.callx f) (bodyIndirect f (fun g => g.pc + 8) .call) s

/-- RET (R174): lanes of the path that are not active go on in sequence. -/
def bodyRet (_f : FC) (s : State) (g : Group) (act : Lanes) : Res :=
  if act = 0 then .done s
  else
    let es := s.ownEntries s.cur g
    let chain := chainOf es g.cur
    match chain.find? (fun e => e.kind == .call && act &&& ~~~e.full == 0) with
    | none => .trap s { code := 0x009, mask := some act, einfo := none }
    | some c =>
      let inner := (chain.takeWhile (fun e => e.id != c.id)).map (·.id)
      let g := g.landPath
      let es := es.map (fun e =>
        if inner.contains e.id then e.without act
        else if e.id = c.id then { e with wait := e.wait ||| act, wen := e.wen ||| (g.em &&& act) }
        else e)
      let g' := { g with path := g.path &&& ~~~act, em := g.em &&& ~~~act }
      let x := settle g'.goOn es
      .jump (s.putPath s.cur (x.1.restart g, x.2))

def execRet (f : FC) (s : State) : Host.Outcome State Fault Refusal := run (.ret f) (bodyRet f) s

/-- SBR (R175). -/
def bodySbr (f : FC) (z : Bool) (s : State) (g : Group) (_ : Lanes) : Res :=
  if (g.sreg f.ra.toNat == 0) == z then .jump (s.setGroup s.cur { g with pc := target g f.off }) else .done s

def execSbr (f : FC) (z : Bool) (s : State) : Host.Outcome State Fault Refusal := run (.sbr f z) (bodySbr f z) s

/-! ## EXIT -/

/-- Registers that a will captures (R31, R192): those within the budget, values and tags as they stand. -/
def willRegs (g : Group) (x : Lane) (w : Will) : List (Nat × Reg) :=
  ((List.range w.count).map (w.first + ·)).filterMap (fun r => if r < 8 * g.budget then some (r, x.reg r) else none)

/-- The wills of lanes: lane, its context, the will (R31). -/
def willsOf (g : Group) (a : Lanes) : List (Nat × Lane × Will) :=
  (lanesOf a).filterMap (fun l => match (g.lane l).will with | some w => some (l, g.lane l, w) | none => none)

/-- Lanes whose will has the tag and key of one the launch has given before, or of a lower lane's (R36). In Solstice mode only
wills of the same block conflict (R390). -/
def conflicts (seen : List (BitVec 16 × W64)) : List (Nat × Lane × Will) → List (Nat × BitVec 16)
  | [] => []
  | (l, x, w) :: r =>
    let rest := conflicts ((w.tag, x.wid) :: seen) r
    if seen.contains (w.tag, x.wid) then (l, w.tag) :: rest else rest

/-- The estate that a captured will becomes. -/
def estateOf (b : Block) (bid : Nat) (la : Launch) (lid : Nat) (wid : W64) (w : Will) (regs : List (Nat × Reg)) : Estate :=
  { tag := w.tag, wid := wid, part := b.part, vf := la.vf, stream := la.stream, estgen := la.seq, life := w.life, regs := regs
    core := b.core, order := 0, launch := lid, blk := bid, index := b.index, captured := true }

/-- Capture wills into slots of the core, or stage them (R327, R390). -/
def State.giveWills (s : State) (gid : Nat) (g : Group) (ws : List (Nat × Lane × Will)) : State :=
  match s.block? g.blk with
  | none => s
  | some b =>
    match b.launch with
    | none => s
    | some lid =>
      match s.launch? lid with
      | none => s
      | some la =>
        let s := s.updLaunch lid (fun la => { la with willed := la.willed ++ ws.map (fun x => (g.blk, x.2.2.tag, x.2.1.wid)) })
        let got := (ws.map (fun x => (x.2.1.wid, x.2.2, willRegs g x.2.1 x.2.2))).filter (fun x => !x.2.2.isEmpty)
        if got.isEmpty then s
        else if b.solstice then s.updGroup gid (fun g => { g with staged := g.staged ++ [.wills got] })
        else got.foldl (fun s x => s.captureWill (estateOf b g.blk la lid x.1 x.2.1 x.2.2)) s

/-- Tags and keys that a group's wills must not repeat (R36, R390). -/
def State.seenWills (s : State) (g : Group) : List (BitVec 16 × W64) :=
  match s.block? g.blk with
  | none => []
  | some b =>
    match b.launch.bind (fun l => s.launch? l) with
    | none => []
    | some la => (la.willed.filter (fun x => !b.solstice || x.1 == g.blk)).map (·.2)

/-- Lanes leave the group and every mask of every entry, and the PC advances (R176 steps 3 and 4, R366). A path that shrinks is
another path for the fairness count (R172). -/
def State.dropLanes (s : State) (gid : Nat) (a : Lanes) : State :=
  match s.group? gid with
  | none => s
  | some g =>
    let a := a &&& g.occ
    let g := { g with
      occ := g.occ &&& ~~~a, path := g.path &&& ~~~a, em := g.em &&& ~~~a, hset := g.hset &&& ~~~a, emaskf := g.emaskf &&& ~~~a
      fair := if g.path &&& a = 0 then g.fair else 0
      saved := g.saved.map (fun (v : Saved) =>
        { v with path := v.path &&& ~~~a, em := v.em &&& ~~~a, fair := if v.path &&& a = 0 then v.fair else 0 })
      hseg := g.hseg.map (fun (e : Entry) => e.without a)
      lanes := (List.range 32).map (fun l => if a.getLsbD l then {} else g.lane l) }
    (s.setGroup gid g.goOn).updBlock g.blk (fun b => { b with
      stack := b.stack.map (fun e => if e.owner = gid then e.without a else e)
      compact := b.compact.map (fun c => { c with places := c.places.filter (fun x => !(x.1.1 == gid && a.getLsbD x.1.2)) }) })

/-- Lanes end (R176 steps 3 to 5): they leave, a handler without a lane left ends (R366) and frees its
job's replay entry (R369), the group settles. -/
def State.endLanes (s : State) (gid : Nat) (a : Lanes) : State :=
  let s := s.dropLanes gid a
  match s.group? gid with
  | none => s
  | some g =>
    if g.supervisor && g.hset = 0 then
      ((s.handlerDone gid).settleGroup gid).serveQuad (s.quadOf g)
    else s.settleGroup gid

/-- A lane of `a` has a pending register that its will names (R333). -/
def willPending (g : Group) (ws : List (Nat × Lane × Will)) : Bool :=
  ws.any (fun x => x.2.1.pend.any (fun p =>
    decide (x.2.2.first ≤ p.reg) && decide (p.reg < x.2.2.first + x.2.2.count) && decide (p.reg < 8 * g.budget)))

/-- A will names a register in error: its capture reads it (R332, R372). -/
def willBad (g : Group) (act : Lanes) (ws : List (Nat × Lane × Will)) : Option Trap :=
  badTrapOf g act (fun l r => ws.any (fun x => x.1 == l && decide (x.2.2.first ≤ r) && decide (r < x.2.2.first + x.2.2.count) &&
    decide (r < 8 * g.budget)))

/-- EXIT (R176). -/
def bodyExit (_f : FC) (s : State) (g : Group) (act : Lanes) : Res :=
  if act = 0 then .done s
  else
    let ws := willsOf g act
    if willPending g ws then .stall
    else
      match willBad g act ws with
      | some t => .trap s t
      | none =>
      match conflicts (s.seenWills g) ws with
      | (l, t) :: r =>
        .trap s { code := 0x182, mask := some (maskOf (fun k => ((l, t) :: r).any (fun x => x.1 == k)))
                  einfo := some (BitVec.ofNat 64 t.toNat) }
      | [] => .jump ((s.giveWills s.cur g ws).endLanes s.cur act)

def execExit (f : FC) (s : State) : Host.Outcome State Fault Refusal := run (.exit f) (bodyExit f) s

/-- One decrement of EXIT.J (R296): a counter at 0 stays, and its lane fails. -/
def joinDec (gid : Nat) (x : State × Lanes) (y : Nat × W64 × Nat) : State × Lanes :=
  let v := readNat x.1.mem y.2.2 8
  if v = 0 then (x.1, x.2 ||| BitVec.ofNat 32 (2^y.1))
  else (x.1.store y.2.2 (bytesOfNat 8 (v - 1)) (some (gid, y.1)), x.2)

/-- The decrements of EXIT.J: atomics in lane order; in Solstice mode one staged operation on the lanes whose view of the counter
is not 0 (R296, R381; log entry 95). -/
def State.joinDecs (s : State) (gid : Nat) (g : Group) (xs : List (Nat × W64 × Nat)) : State × Lanes :=
  if s.isSolstice g.blk then
    let x := xs.foldl (fun (acc : List Host.Cell × List (Nat × Nat) × Lanes) y =>
      if readNat acc.1 y.2.2 8 = 0 then (acc.1, acc.2.1, acc.2.2 ||| BitVec.ofNat 32 (2^y.1))
      else (decOn acc.1 y.2.2, acc.2.1 ++ [(y.1, y.2.2)], acc.2.2)) (s.view g, [], 0)
    (if x.2.1.isEmpty then s else s.stage gid (.dec x.2.1) (x.2.1.map (fun y => (some y.1, y.2, 8))), x.2.2)
  else xs.foldl (joinDec gid) (s, 0)

/-- EXIT.J (R296). -/
def bodyExitJ (_f : FC) (s : State) (g : Group) (act : Lanes) : Res :=
  if act = 0 then .done s
  else
    let js := (lanesOf act).filterMap (fun l => match (g.lane l).join with | some va => some (l, va) | none => none)
    match s.checkLanes (s.partOf g) {} js 8 .rmw with
    | .error t => .trap s t
    | .ok xs =>
      if xs.any (fun x => s.busy g x.2.1 8 true) then .stall
      else
        match s.badTrap xs 8 false with
        | some t => .trap s t
        | none =>
          let (s, failed) := s.joinDecs s.cur g xs
          if failed = 0 then .jump (s.endLanes s.cur act)
          else
            let low := match xs.find? (fun x => failed.getLsbD x.1) with | some x => x.2.1 | none => 0
            .jumpAfter (s.dropLanes s.cur (act &&& ~~~failed)) { code := 0x183, mask := some failed, eaddr := low }

def execExitJ (f : FC) (s : State) : Host.Outcome State Fault Refusal := run (.exitJ f) (bodyExitJ f) s

/-! ## Loops -/

/-- LOOP (R183). -/
def bodyLoop (f : FC) (imm : Bool) (s : State) (g : Group) (_ : Lanes) : Res :=
  let n := f.xp.toNat
  let stop := target g f.off
  if (g.loop n).live || g.nest.any (fun k => decide ((g.loop k).stop.toNat < stop.toNat)) then
    .trap s { code := 0x006, einfo := none }
  else
    let c : W32 := if imm then f.ra.zeroExtend 32 else g.sreg f.ra.toNat
    if c = 0 then .jump (s.setGroup s.cur { g with pc := stop })
    else
      let g' := g.setLoop n { live := true, count := c, start := g.pc + 8, stop := stop }
      .jump (s.setGroup s.cur { g' with nest := n :: g.nest, pc := g.pc + 8 })

def execLoop (f : FC) (imm : Bool) (s : State) : Host.Outcome State Fault Refusal := run (.loop f imm) (bodyLoop f imm) s

/-- LBRK (R185). -/
def bodyLbrk (f : FC) (s : State) (g : Group) (_ : Lanes) : Res :=
  let n := f.xp.toNat
  if !(g.loop n).live then .trap s { code := 0x006, einfo := none }
  else
    let inner := g.nest.takeWhile (· != n) ++ [n]
    let g' := inner.foldl (fun g k => g.setLoop k {}) g
    .jump (s.setGroup s.cur { g' with nest := g.nest.filter (fun k => !inner.contains k), pc := (g.loop n).stop })

def execLbrk (f : FC) (s : State) : Host.Outcome State Fault Refusal := run (.lbrk f) (bodyLbrk f) s

/-- YIELD (R95, R186): results land, and the group lets another of its core issue first; its next instruction ends that (R349). -/
def execYield (f : FC) (s : State) : Host.Outcome State Fault Refusal :=
  runG (.yield f) (fun g _ => { g with yielded := true }) s

end Sys2Proof.Machine
end

