-- ==== Sys2Proof/Machine/Pgt.lean ====
section
/-! DEFINITION. Process-group tables (R352): the module's own rank, the ranks of a table, the participants of a communicator. -/

namespace Sys2Proof.Machine

/-- Read `n` bytes of partition `p` at a virtual address; none: no translation, or no read permission. -/
def State.readVirt (s : State) (p : Nat) (va : W64) (n : Nat) : Option Nat :=
  match s.walk p va with
  | .page pg => if pg.r && canonical va then some (readNat s.mem (pg.at va) n) else none
  | .stop .. => none

/-- NRANK of the table at `t`. -/
def State.tableRanks (s : State) (p : Nat) (t : W64) : Option Nat := s.readVirt p (t + 8) 4

/-- The module's rank: the index of the entry that holds its identifier (R352). -/
def State.moduleRank (s : State) (p : Nat) (t : W64) : Option Nat :=
  match s.tableRanks p t, s.readVirt p (t + 0x10) 8 with
  | some n, some off =>
    (List.range (min n 4096)).find? (fun i =>
      s.readVirt p (t + BitVec.ofNat 64 (off + 8 * i)) 4 == some Config.moduleId.toNat)
  | _, _ => none

/-- The rank list of communicator `c` of the table at `t`: where it stands and its participants; none: beyond NCOMM. -/
def State.rankList (s : State) (p : Nat) (t : W64) (c : Nat) : Option (W64 × Nat) :=
  match s.readVirt p (t + 6) 2, s.readVirt p (t + 0x18) 8 with
  | some ncomm, some off =>
    if ncomm ≤ c then none
    else
      let e := t + BitVec.ofNat 64 (off + 16 * c)
      match s.readVirt p e 8, s.readVirt p (e + 8) 4 with
      | some lst, some n => some (t + BitVec.ofNat 64 lst, n)
      | _, _ => none
  | _, _ => none

/-- The participants of communicator `c` of a table, and this module's participant rank (R352). -/
def State.tableComm (s : State) (p : Nat) (t : W64) (c : Nat) : Option (Nat × Nat) :=
  match s.rankList p t c, s.moduleRank p t with
  | some (lst, n), some rank =>
    ((List.range (min n 4096)).find? (fun i => s.readVirt p (lst + BitVec.ofNat 64 (2 * i)) 2 == some rank)).map (fun r => (n, r))
  | _, _ => none

/-- The process-group table of a group's launch. -/
def State.pgtOf (s : State) (g : Group) : Option W64 :=
  match s.block? g.blk with
  | some b => b.pgt
  | none => none

/-- The participants of a communicator and this module's rank among them, as the table stands in memory; none: not in the table, or
without this module (log entry 113). -/
def State.communicator (s : State) (g : Group) (c : Nat) : Option (Nat × Nat) :=
  match s.pgtOf g with
  | some t => s.tableComm (s.partOf g) t c
  | none => none

end Sys2Proof.Machine
end

