-- ==== Sys2Proof/Machine/Copies.lean ====
section
/-! DEFINITION. Copy cards (R248 to R251), copy barriers (R253 to R255), collectives (R256, R257), checkpoint cards (R301, R423),
GLAUNCH (R304). -/

namespace Sys2Proof.Machine

/-! ## CPY -/

/-- COPY_ARG: the first scalar word with a nonzero reserved bit (R248, R362). -/
def copyArg (bad : List Bool) : Option Trap :=
  match bad.findIdx? id with
  | some i => some { code := 0x051, einfo := some (BitVec.ofNat 64 i) }
  | none => none

/-- NONCANON and then ALIGN of a card's range (R248): its first and last byte, and its alignment. -/
def rangeFault (va : W64) (n : Nat) (aligned : Bool) : Option Trap :=
  let last := va + BitVec.ofNat 64 (n - 1)
  let info := some (addrInfo 7 false 4)
  if !canonical va then some { code := 0x044, eaddr := va, einfo := info }
  else if !canonical last then some { code := 0x044, eaddr := last, einfo := info }
  else if !aligned then some { code := 0x041, eaddr := va, einfo := info }
  else none

/-- CPY .t2t (R249). -/
def cpyTile (s : State) (blk h w0 w1 : Nat) : Except Trap Card :=
  let hs := fieldOf w0 0 6
  let srow0 := fieldOf w0 6 10
  let row0 := fieldOf w1 0 10
  let rows := fieldOf w1 10 10 + 1
  match s.tile? blk h, s.tile? blk hs with
  | some t, some src =>
    if t.rows < row0 + rows || src.rows < srow0 + rows then .error { code := 0x048, einfo := some 1 }
    else if t.rowBytes ≠ src.rowBytes then .error { code := 0x048, einfo := some 3 }
    else .ok (.cpy .t2t h hs row0 rows srow0 0 0 t.rowBytes, [.tile blk hs srow0 (srow0 + rows)], [.tile blk h row0 (row0 + rows)])
  | _, _ => .error { code := 0x049, einfo := some 1 }

/-- CPY .g2t and .t2g (R249): `va` the first global byte. -/
def cpyGlobal (s : State) (blk h w1 pitch : Nat) (va : W64) (mode : CpyMode) : Except Trap Card :=
  let row0 := fieldOf w1 0 10
  let rows := fieldOf w1 10 10 + 1
  match s.tile? blk h with
  | none => .error { code := 0x049, einfo := some 1 }
  | some t =>
    if t.rows < row0 + rows then .error { code := 0x048, einfo := some 1 }
    else
      let p := if pitch = 0 then t.rowBytes else pitch
      let n := (rows - 1) * p + t.rowBytes
      match rangeFault va n (va.toNat % 64 == 0 && p % 64 == 0) with
      | some tr => .error tr
      | none =>
        let mem := memRegion va n
        let tile : List Region := [.tile blk h row0 (row0 + rows)]
        let k : JobKind := .cpy mode h 0 row0 rows 0 va.toNat p t.rowBytes
        .ok (match mode with | .t2g => (k, tile, mem) | _ => (k, mem, tile))

/-- The card of a CPY (R248, R249). -/
def cpyCard (s : State) (g : Group) (f : FJ) (mode : CpyMode) : Except Trap Card :=
  let w (i : Nat) := cardWord g f i
  match mode with
  | .t2t =>
    match copyArg [fieldOf (w 0) 16 16 != 0, fieldOf (w 1) 20 12 != 0, w 2 != 0] with
    | some t => .error t
    | none => cpyTile s g.blk f.th.toNat (w 0) (w 1)
  | m =>
    match copyArg [false, fieldOf (w 1) 20 12 != 0, false] with
    | some t => .error t
    | none =>
      cpyGlobal s g.blk f.th.toNat (w 1) (w 2) ((g.areg f.ar.toNat).base + (g.sreg f.sc.toNat).signExtend 64) m

/-- The end of a copy's issue, with its follow-on command (R248 step 5, R251). -/
def State.copyRes (s : State) (g : Group) (f : FJ) (nb : Bool) (c : Except Trap Card) : Res :=
  match c with
  | .error t => .trap s t
  | .ok c =>
    match s.followCard g f f.th.toNat with
    | .error t => .trap s t
    | .ok k => s.cardRes g f (.ok c) (cardBar f nb) k

def execCpy (f : FJ) (mode : CpyMode) (nb : Bool) (s : State) : Host.Outcome State Fault Refusal :=
  run (.cpy f mode nb) (fun s g _ => s.copyRes g f nb (cpyCard s g f mode)) s

/-! ## CPYG and CPYS -/

/-- Element bytes of a gather or scatter (R250). -/
def gatherBytes (e : BitVec 3) : Nat := 4 * 2^e.toNat

/-- Address faults of the lanes of a gather or scatter (R248 step 4): lanes in EMASKF (R362). -/
def gatherFault (xs : List (Nat × W64)) (e : Nat) : Option Trap :=
  failTrap 4 (xs.filterMap (fun x =>
    if !canonical x.2 || !canonical (x.2 + BitVec.ofNat 64 (e - 1)) then some (x.1, x.2, { rank := 0 })
    else if x.2.toNat % e ≠ 0 then some (x.1, x.2, { rank := 1 })
    else none))

/-- The range from the lowest lane address to the highest, and its element (R250). -/
def gatherRegion (xs : List (Nat × W64)) (e : Nat) : List Region :=
  match xs with
  | [] => []
  | x :: r =>
    [.mem (r.foldl (fun acc y => min acc y.2.toNat) x.2.toNat) (r.foldl (fun acc y => max acc y.2.toNat) x.2.toNat + e)]

/-- The card of a CPYG or CPYS (R248, R250). -/
def gatherCard (s : State) (g : Group) (act : Lanes) (f : FJ) (scatter : Bool) (e : Nat) : Except Trap Card :=
  let w1 := cardWord g f 1
  match copyArg [false, fieldOf w1 10 22 != 0] with
  | some t => .error t
  | none =>
    match s.tile? g.blk f.th.toNat with
    | none => .error { code := 0x049, einfo := some 1 }
    | some t =>
      let row0 := fieldOf w1 0 10
      let base := (g.areg f.ar.toNat).base + (g.sreg f.sc.toNat).signExtend 64
      let xs := (lanesOf act).map (fun l => (l, base + ((g.lane l).reg f.vo.toNat).val.signExtend 64))
      if xs.any (fun x => decide (t.rows ≤ row0 + x.1 * e / t.rowBytes)) then .error { code := 0x048, einfo := some 1 }
      else
        match gatherFault xs e with
        | some tr => .error tr
        | none =>
          let k : JobKind := .gather scatter f.th.toNat row0 e t.rowBytes (xs.map (fun x => (x.1, x.2.toNat)))
          let mem := gatherRegion xs e
          let row (x : Nat × W64) : Nat := row0 + x.1 * e / t.rowBytes
          let rows : List Region :=
            match xs.head?, xs.getLast? with
            | some x, some y => [.tile g.blk f.th.toNat (row x) (row y + 1)]
            | _, _ => []
          .ok (if scatter then (k, rows, mem) else (k, mem, rows))

/-- CPYG and CPYS; with no active lane they change nothing but the PC (R66; log entry 36). -/
def bodyGather (f : FJ) (scatter : Bool) (e : BitVec 3) (nb : Bool) (s : State) (g : Group) (act : Lanes) : Res :=
  if act = 0 then .done s else s.copyRes g f nb (gatherCard s g act f scatter (gatherBytes e))

def execCpyg (f : FJ) (e : BitVec 3) (nb : Bool) (s : State) : Host.Outcome State Fault Refusal :=
  run (.cpyg f e nb) (bodyGather f false e nb) s

def execCpys (f : FJ) (e : BitVec 3) (nb : Bool) (s : State) : Host.Outcome State Fault Refusal :=
  run (.cpys f e nb) (bodyGather f true e nb) s

/-! ## Copy barriers -/

/-- Groups of a block that wait on a copy barrier whose phase is complete go on before the phase ends (R161, R253). -/
def State.releaseCopy (s : State) (blk n : Nat) : State :=
  if s.isSolstice blk || !(match s.block? blk with | some b => (b.copyBar n).complete | none => false) then s
  else ((s.liveGroups blk).filter (fun g => g.2.st == .waiting (.copy n))).foldl (fun s g => s.endWait g.1 (.copy n)) s

/-- A card of the group's block that has issued credits copy barrier `n` and has not completed (R253). In Solstice mode a group sees
its own staged cards, and those of the block that the last quantum end committed as in flight until the next (R381, R382). -/
def State.credited (s : State) (g : Group) (n : Nat) : Bool :=
  let hits (j : Job) : Bool := match j.credit with | some c => c.1 == n | none => false
  if s.isSolstice g.blk then
    (s.blockOf g).cbsBusy.contains n ||
      g.staged.any (fun x => match x with
        | .card id => s.jobs.any (fun j => (j.1 == id || j.2.after == some id) && hits j.2)
        | _ => false)
  else s.jobs.any (fun j => j.2.blk == g.blk && hits j.2)

/-- CBINIT (R253): it acts at once, in Solstice mode too (log entry 111). -/
def bodyCbinit (f : FJ) (s : State) (g : Group) (_ : Lanes) : Res :=
  let n := f.cb.toNat
  if s.credited g n then
    .trap s { code := 0x140, einfo := some 8 }
  else
    let s := s.releaseCopy g.blk n
    .done (s.updBlock g.blk (fun b => { b with
      cbs := Table.put b.cbs n { init := true, phase := (b.copyBar n).phase + 1, expect := cardWord g f 0, landed := 0 } }))

def execCbinit (f : FJ) (s : State) : Host.Outcome State Fault Refusal := run (.cbinit f) (bodyCbinit f) s

/-- The block's copy barrier `n`, if it has been initialised since the block's birth (R254). -/
def State.liveBar (s : State) (g : Group) (n : Nat) : Option CopyBar :=
  let c := (s.blockOf g).copyBar n
  if c.init then some c else none

/-- CBARR (R254). -/
def bodyCbarr (f : FJ) (s : State) (g : Group) (_ : Lanes) : Res :=
  let n := f.cb.toNat
  match s.liveBar g n with
  | none => .trap s { code := 0x140, einfo := some 9 }
  | some c => .done (s.updBlock g.blk (fun b => { b with cbs := Table.put b.cbs n (c.credit c.phase (cardWord g f 0)) }))

def execCbarr (f : FJ) (s : State) : Host.Outcome State Fault Refusal := run (.cbarr f) (bodyCbarr f) s

/-- CBWAIT (R255). -/
def bodyCbwait (f : FJ) (s : State) (g : Group) (_ : Lanes) : Res :=
  let n := f.cb.toNat
  match s.liveBar g n with
  | none => .trap s { code := 0x140, einfo := some 9 }
  | some _ => s.awaitRes g (.copy n)

def execCbwait (f : FJ) (s : State) : Host.Outcome State Fault Refusal := run (.cbwait f) (bodyCbwait f) s

/-- CBTEST (R255); in Solstice mode it reports the barrier as of the last quantum end (R166), false where a CBINIT has started another
phase since (log entry 111). -/
def bodyCbtest (f : FJ) (s : State) (g : Group) (act : Lanes) : Res :=
  let n := f.cb.toNat
  match s.liveBar g n with
  | none => if act = 0 then .done s else .trap s { code := 0x140, einfo := some 9 }
  | some c =>
    let b := s.blockOf g
    let ok := if b.solstice then ((Table.get? b.cbsSeen n).getD {}).complete && ((Table.get? b.cbsSeen n).getD {}).phase == c.phase
      else c.complete
    .done (s.setGroup s.cur (g.writeP act f.vo.toNat (fun _ _ => ok)))

def execCbtest (f : FJ) (s : State) : Host.Outcome State Fault Refusal := run (.cbtest f) (bodyCbtest f) s

/-! ## COLL -/

/-- Source and destination elements of a participant (R256). -/
def collExtents (k : CollKind) (n p r : Nat) : Nat × Nat :=
  match k with
  | .allreduce => (n, n)
  | .redscat => (n * p, n)
  | .allgather => (n, n * p)
  | .bcast => (if r = 0 then n else 0, n)
  | .barrier => (0, 0)

/-- COLL_ARG (R257, R362). -/
def collArg (n : Nat) : Trap := { code := 0x143, einfo := some (BitVec.ofNat 64 n) }

/-- Two ranges of bytes overlap, past the top of the address space too. -/
def rangesMeet (a : W64) (m : Nat) (b : W64) (n : Nat) : Bool := anyOverlap (memRegion a m) (memRegion b n)

/-- The card of a COLL (R256, R257, R403). -/
def collCard (s : State) (g : Group) (f : FJ) (kind : CollKind) (op : CollOp) : Except Trap Card :=
  let w (i : Nat) := cardWord g f i
  let n := w 1
  match s.communicator g (w 0) with
  | none => .error (collArg 1)
  | some (p, r) =>
    if n = 0 || 2^28 < n then .error (collArg 2)
    else
      let base := (g.areg f.ar.toNat).base
      let src := base + (g.sreg (f.sc.toNat + 2)).signExtend 64
      let dst := base + (g.sreg (f.sc.toNat + 3)).signExtend 64
      let (m, d) := collExtents kind n p r
      let same := src == dst && (kind == .allreduce || kind == .bcast)
      if rangesMeet src (4 * m) dst (4 * d) && !same then .error (collArg 3)
      else if s.dev.loans.any (fun l => l.quads.contains (s.quadOf g)) then .error (collArg 4)
      else
        let bad (va : W64) (k : Nat) : Option Trap := if k = 0 then none else rangeFault va (4 * k) (va.toNat % 4 == 0)
        match bad src m, bad dst d with
        | some t, some u => .error (if t.code = 0x041 && u.code = 0x044 then u else t)
        | some t, none => .error t
        | none, some u => .error u
        | none, none =>
          .ok (.coll kind op (w 0) n src.toNat dst.toNat,
               if m = 0 then [] else memRegion src (4 * m), if d = 0 then [] else memRegion dst (4 * d))

def execColl (f : FJ) (kind : CollKind) (op : CollOp) (s : State) : Host.Outcome State Fault Refusal :=
  run (.coll f kind op) (fun s g _ => s.cardRes g f (collCard s g f kind op) (some f.cb.toNat) none) s

/-! ## Checkpoint cards -/

/-- CK_ARG in word `i` (R301). -/
def ckArg (i : Nat) : Trap := { code := 0x058, einfo := some (BitVec.ofNat 64 i) }

/-- The range that a CKMARK job of a partition's slot is to mark (R423): its card has issued, and the job has not acted. -/
def Job.marks (j : Job) (p slot : Nat) : List Region :=
  match j.kind with
  | .ckmark va n k => if j.part = p && k = slot then memRegion (BitVec.ofNat 64 va) (256 * n) else []
  | _ => []

/-- The regions of a checkpoint card on a slot (R303, R423): the marked region, that of CKMARK cards issued before with it. -/
def State.markRegions (s : State) (p slot : Nat) : List Region :=
  .mark slot ::
    ((match Table.get? (s.part p).marks slot with
      | some m => memRegion (BitVec.ofNat 64 m.lo) (m.hi - m.lo)
      | none => []) ++ s.jobs.flatMap (fun j => j.2.marks p slot))

/-- CKMARK (R301). -/
def ckmarkCard (g : Group) (f : FJ) : Except Trap Card :=
  let w (i : Nat) := cardWord g f i
  let va := (g.areg f.ar.toNat).base + (g.sreg f.sc.toNat).signExtend 64
  if w 1 = 0 || 2^24 < w 1 then .error (ckArg 1)
  else if 64 ≤ w 2 then .error (ckArg 2)
  else
    match rangeFault va (256 * w 1) (va.toNat % 256 == 0) with
    | some t => .error t
    | none => .ok (.ckmark va.toNat (w 1) (w 2), [], .mark (w 2) :: memRegion va (256 * w 1))

/-- CKSNAP, CKROLL, CKDROP (R301): slot and snapshot. -/
def ckCard (s : State) (g : Group) (f : FJ) (k : Nat → Nat → JobKind) (reads : Bool) : Except Trap Card :=
  let w := cardWord g f 0
  let slot := fieldOf w 0 6
  if w ≠ slot + 256 * fieldOf w 8 2 then .error (ckArg 0)
  else
    let rs := s.markRegions (s.partOf g) slot
    .ok (k slot (fieldOf w 8 2), if reads then rs else [], rs)

def execCkmark (f : FJ) (nb : Bool) (s : State) : Host.Outcome State Fault Refusal :=
  run (.ckmark f nb) (fun s g _ => s.cardRes g f (ckmarkCard g f) (cardBar f nb) none) s
def execCksnap (f : FJ) (nb : Bool) (s : State) : Host.Outcome State Fault Refusal :=
  run (.cksnap f nb) (fun s g _ => s.cardRes g f (ckCard s g f .cksnap true) (cardBar f nb) none) s
def execCkroll (f : FJ) (nb : Bool) (s : State) : Host.Outcome State Fault Refusal :=
  run (.ckroll f nb) (fun s g _ => s.cardRes g f (ckCard s g f .ckroll false) (cardBar f nb) none) s
def execCkdrop (f : FJ) (nb all unmark : Bool) (s : State) : Host.Outcome State Fault Refusal :=
  run (.ckdrop f nb all unmark) (fun s g _ =>
    s.cardRes g f (ckCard s g f (fun slot snap => .ckdrop slot snap all unmark) false) (cardBar f nb) none) s

/-! ## GLAUNCH -/

/-- GLAUNCH (R304): sK+1 has no stated check (log entry 35). -/
def execGlaunch (f : FJ) (nb : Bool) (s : State) : Host.Outcome State Fault Refusal :=
  run (.glaunch f nb) (fun s g _ =>
    let va := (g.areg f.ar.toNat).base + (g.sreg f.sc.toNat).signExtend 64
    let c : Except Trap Card :=
      if !canonical va then .error { code := 0x044, eaddr := va, einfo := some (addrInfo 7 false 4) }
      else if va.toNat % 256 ≠ 0 then .error { code := 0x041, eaddr := va, einfo := some (addrInfo 7 false 4) }
      else .ok (.glaunch va.toNat, [], [])
    s.cardRes g f c (cardBar f nb) none) s

end Sys2Proof.Machine
end

