-- ==== Sys2Proof/Machine/CrossLane.lean ====
section
/-! DEFINITION. Forms that look across lanes: SHFL (R225), the fixed trees (R135 to R139) of REDG and SCANG (R226, R227) and of
SCANP and SCANL (R272, R273), and the quantised reduction forms (R307). -/

namespace Sys2Proof.Machine

/-! ## SHFL -/

/-- The source lane of a rule, unbounded, or on the ring (R225). -/
def shflSource (rule : ShflRule) (ring : Bool) (l d : Nat) : Int :=
  let s : Int :=
    match rule with
    | .from => d
    | .lag => (l : Int) - d
    | .lead => (l : Int) + d
    | .pair => ((l ^^^ d : Nat) : Int)
  if ring then s % 32 else s

/-- What a lane receives: an active source lane's register; zero under .zf, or in a handler when the source lies outside its lane
set; else its own (R225, R366). -/
def shflValue (g : Group) (act : Lanes) (a : Nat) (zf : Bool) (l : Nat) (src : Int) : Reg :=
  if decide (0 ≤ src) && decide (src < 32) && act.getLsbD src.toNat then (g.lane src.toNat).reg a
  else if zf || (g.supervisor && decide (0 ≤ src) && decide (src < 32) && !g.hset.getLsbD src.toNat) then Reg.zero
  else (g.lane l).reg a

/-- SHFL (R225): every lane reads before any lane writes. -/
def shfl (o : OpShfl) (rule : ShflRule) (ring zf : Bool) (g : Group) (act : Lanes) : Group :=
  match o with
  | .a f => g.writeV act f.d.toNat (fun l x =>
      shflValue g act f.a.toNat zf l (shflSource rule ring l (x.reg f.b.toNat).val.toNat))
  | .i _ d a k _ => g.writeV act d.toNat (fun l _ => shflValue g act a.toNat zf l (shflSource rule ring l k.toNat))

def execShfl (o : OpShfl) (rule : ShflRule) (ring zf : Bool) (s : State) : Host.Outcome State Fault Refusal :=
  runG (.shfl o rule ring zf) (shfl o rule ring zf) s

/-! ## Trees -/

/-- The values at the 32 positions of a tree, and the flags raised so far with the lanes they are attributed to. -/
structure Tree (α : Type) where
  vals : List (Option α)
  flags : List (Nat × FlagSet)

/-- A node (R135): the operation when both operands are there, else the one that is. -/
def comb {α : Type} (op : α → α → α × FlagSet) : Option α → Option α → Option α × FlagSet
  | none, y => (y, 0)
  | x, none => (x, 0)
  | some x, some y => let r := op x y; (some r.1, r.2)

/-- The lane that a node's flags belong to: the lowest active lane at or above its left operand (R227). -/
def flagLane (act : Lanes) (pos : Nat) : Nat := ((lanesOf act).find? (fun l => decide (pos ≤ l))).getD 0

/-- One level: position i takes the node of positions `left i` and `right i`, or keeps its value. -/
def Tree.level {α : Type} (t : Tree α) (act : Lanes) (op : α → α → α × FlagSet) (node : Nat → Option (Nat × Nat)) : Tree α :=
  let rs : List ((Option α × FlagSet) × Nat) := (List.range 32).map (fun i =>
    match node i with
    | none => ((t.vals.getD i none, (0 : FlagSet)), i)
    | some (p, q) => (comb op (t.vals.getD p none) (t.vals.getD q none), p))
  { vals := rs.map (·.1.1)
    flags := t.flags ++ (rs.filter (fun r => r.1.2 != 0)).map (fun r => (flagLane act r.2, r.1.2)) }

/-- The tree of R136. -/
def reduceTree {α : Type} (act : Lanes) (op : α → α → α × FlagSet) (vals : List (Option α)) : Tree α :=
  [1, 2, 3, 4, 5].foldl (fun t k => t.level act op (fun i => if i % 2^k = 0 then some (i, i + 2^(k - 1)) else none)) ⟨vals, []⟩

/-- The tree of R137. -/
def scanTree {α : Type} (act : Lanes) (op : α → α → α × FlagSet) (vals : List (Option α)) : Tree α :=
  [1, 2, 4, 8, 16].foldl (fun t d => t.level act op (fun i => if d ≤ i then some (i - d, i) else none)) ⟨vals, []⟩

/-- The values of a register in the active lanes, inactive lanes empty (R135). -/
def laneVals (g : Group) (act : Lanes) (r : Nat) : List (Option W32) :=
  (List.range 32).map (fun l => if act.getLsbD l then some ((g.lane l).reg r).val else none)

/-- The operation of a node of REDG and SCANG (R227). -/
def redNode (op : RedOp) (ty : RedTy) (mode : RMode) (x y : W32) : W32 × FlagSet :=
  match ty with
  | .f32 =>
    let r : Nat × FlagSet :=
      match op with
      | .min => (fMinMax fmtF32 false false x.toNat y.toNat, 0)
      | .max => (fMinMax fmtF32 false true x.toNat y.toNat, 0)
      | _ => fAdd fmtF32 mode false x.toNat y.toNat
    (BitVec.ofNat 32 r.1, r.2)
  | ty =>
    let less (a b : W32) : Bool := if ty = .s32 then a.slt b else a.ult b
    let v :=
      match op with
      | .add => x + y
      | .min => if less y x then y else x
      | .max => if less x y then y else x
      | .and => x &&& y
      | .or => x ||| y
      | .xor => x ^^^ y
    (v, 0)

/-- The identity that an empty result is written as (R227). -/
def redIdentity (op : RedOp) (ty : RedTy) : W32 :=
  match op, ty with
  | .min, .s32 => 0x7FFFFFFF
  | .min, .n32 => 0xFFFFFFFF
  | .min, .f32 => 0x7F800000
  | .max, .s32 => 0x80000000
  | .max, .f32 => 0xFF800000
  | .and, .s32 | .and, .n32 => 0xFFFFFFFF
  | _, _ => 0

/-- Result tag of a reduction type (R226). -/
def redTag (ty : RedTy) : BitVec 4 :=
  match ty with
  | .s32 => tagI32 | .n32 => tagN32 | .f32 => tagF32

/-- The end of a tree form: flags and enabled traps at issue, the result of each active lane at the landing. -/
def treeRes (s : State) (g : Group) (act : Lanes) (d : Nat) (flags : List (Nat × FlagSet)) (value : Nat → Reg) : Res :=
  withFlags s g flags (fun g' => .late (s.setGroup s.cur g') ((lanesOf act).map (fun l => Landing.vec l d (value l))) none)

/-- REDG (R227). -/
def bodyRedg (f : FA) (op : RedOp) (ty : RedTy) (rm : Rm) (s : State) (g : Group) (act : Lanes) : Res :=
  let t := reduceTree act (redNode op ty (rmodeOf rm 0 0)) (laneVals g act f.a.toNat)
  treeRes s g act f.d.toNat t.flags (fun _ => ⟨(t.vals.getD 0 none).getD (redIdentity op ty), redTag ty⟩)

def execRedg (f : FA) (op : RedOp) (ty : RedTy) (rm : Rm) (s : State) : Host.Outcome State Fault Refusal :=
  run (.redg f op ty rm) (bodyRedg f op ty rm) s

/-- SCANG (R227). -/
def bodyScang (f : FA) (excl : Bool) (op : RedOp) (ty : RedTy) (rm : Rm) (s : State) (g : Group) (act : Lanes) : Res :=
  let t := scanTree act (redNode op ty (rmodeOf rm 0 0)) (laneVals g act f.a.toNat)
  let at' (l : Nat) : Option W32 := if excl then (if l = 0 then none else t.vals.getD (l - 1) none) else t.vals.getD l none
  treeRes s g act f.d.toNat t.flags (fun l => ⟨(at' l).getD (redIdentity op ty), redTag ty⟩)

def execScang (f : FA) (excl : Bool) (op : RedOp) (ty : RedTy) (rm : Rm) (s : State) : Host.Outcome State Fault Refusal :=
  run (.scang f excl op ty rm) (bodyScang f excl op ty rm) s

/-- An element of a recurrence scan (R138): coefficient, term, reset. -/
structure Scan where
  a : Nat
  b : Nat
  r : Bool
  deriving DecidableEq, Repr

/-- combine of R138: a product and a fused step. -/
def scanpNode (mode : RMode) (x y : Scan) : Scan × FlagSet :=
  if y.r then (y, 0)
  else
    let p := fMul fmtF32 mode false y.a x.a
    let q := fFma fmtF32 mode false y.a x.b y.b
    (⟨p.1, q.1, x.r⟩, p.2 ||| q.2)

/-- combine of R139: one sum. -/
def scanlNode (mode : RMode) (x y : Scan) : Scan × FlagSet :=
  if y.r then (y, 0) else let q := fAdd fmtF32 mode false x.b y.b; (⟨0, q.1, x.r⟩, q.2)

/-- The elements of the active lanes; `b` names the term's register, `pr` the reset predicate (R273). -/
def scanVals (g : Group) (act : Lanes) (a b : Nat) (rv : Bool) (pr : Nat) : List (Option Scan) :=
  (List.range 32).map (fun l =>
    if act.getLsbD l then some ⟨((g.lane l).reg a).val.toNat, ((g.lane l).reg b).val.toNat, rv && (g.lane l).pred pr⟩ else none)

/-- A scan with carry-in (R138, R139): the tree, then the final step in each active lane. -/
def scanRes (s : State) (g : Group) (act : Lanes) (d c : Nat) (node : Scan → Scan → Scan × FlagSet)
    (last : Nat → Scan → Nat × FlagSet) (vals : List (Option Scan)) : Res :=
  let t := scanTree act node vals
  let hin := match lowest act with | some l => ((g.lane l).reg c).val.toNat | none => 0
  let fin (l : Nat) : Nat × FlagSet :=
    match t.vals.getD l none with
    | some e => if e.r then (e.b, 0) else last hin e
    | none => (0, 0)
  treeRes s g act d (t.flags ++ (lanesOf act).map (fun l => (l, (fin l).2))) (fun l => ⟨BitVec.ofNat 32 (fin l).1, tagF32⟩)

/-- SCANP (R273). -/
def bodyScanp (f : FA) (rm : Rm) (rv : Bool) (pr : BitVec 3) (s : State) (g : Group) (act : Lanes) : Res :=
  let mode := rmodeOf rm (fpRm g.fpstat) 0
  scanRes s g act f.d.toNat f.c.toNat (scanpNode mode) (fun h e => fFma fmtF32 mode false e.a h e.b)
    (scanVals g act f.a.toNat f.b.toNat rv pr.toNat)

def execScanp (f : FA) (rm : Rm) (rv : Bool) (pr : BitVec 3) (s : State) : Host.Outcome State Fault Refusal :=
  run (.scanp f rm rv pr) (bodyScanp f rm rv pr) s

/-- SCANL (R273): the term is vA. -/
def bodyScanl (f : FA) (rm : Rm) (rv : Bool) (pr : BitVec 3) (s : State) (g : Group) (act : Lanes) : Res :=
  let mode := rmodeOf rm (fpRm g.fpstat) 0
  scanRes s g act f.d.toNat f.c.toNat (scanlNode mode) (fun h e => fAdd fmtF32 mode false h e.b)
    (scanVals g act 0 f.a.toNat rv pr.toNat)

def execScanl (f : FA) (rm : Rm) (rv : Bool) (pr : BitVec 3) (s : State) : Host.Outcome State Fault Refusal :=
  run (.scanl f rm rv pr) (bodyScanl f rm rv pr) s

/-! ## Quantised reduction -/

/-- The scale codes: no contribution yet, and a contribution that is infinite or NaN (R307). -/
def scaleNone : Int := -(2^31)
def scaleBad : Int := 2^31 - 1

/-- e(x) of R307. -/
def scaleOf (x : Nat) : Int :=
  match val fmtF32 x with
  | .fin _ m e => if m = 0 then scaleNone else expo m e
  | _ => scaleBad

/-- RQSCALE (R307). -/
def rqscale (f : FA) (grp : Bool) (g : Group) (act : Lanes) : Group :=
  let t (l : Nat) : Int := max (((g.lane l).reg f.c.toNat).val.toInt) (scaleOf ((g.lane l).reg f.a.toNat).val.toNat)
  let all := (lanesOf act).foldl (fun acc l => max acc (t l)) scaleNone
  g.writeV act f.d.toNat (fun l _ => ⟨BitVec.ofInt 32 (if grp then all else t l), tagI32⟩)

def execRqscale (f : FA) (grp : Bool) (s : State) : Host.Outcome State Fault Refusal := runG (.rqscale f grp) (rqscale f grp) s

/-- The exponent that RQUANT and RDEQ scale by. -/
def scaleExp (e : Int) : Int := if e = scaleNone then 0 else e

/-- rint(val(x) * 2^k, RNE) before the clamp, and whether it is inexact (R307). Values that clamp are not formed: an infinity clamps
too. A NaN has no stated integer: both are the free value `nan` (log entry 37). -/
def quantise (x : Nat) (k : Int) (nan : Int × Bool) : Int × Bool :=
  match val fmtF32 x with
  | .nan => nan
  | .inf s => (if s then -(2^64) else 2^64, false)
  | .fin s m e =>
    if m = 0 then (0, false)
    else if 64 < expo m e + k then (if s then -(2^64) else 2^64, false)
    else if expo m e + k < -2 then (0, true)
    else
      let r := roundTo .rn s m (e + k) false 0
      (if s then -(r.1 : Int) else r.1, r.2)

/-- RQUANT in a lane (R307); `n` numbers the lane's free values. -/
def laneRquant (f : FA) (n : Nat) (x : Lane) : LaneOut :=
  let e := (x.reg f.b.toNat).val.toInt
  if e = scaleBad then (pairRegs 0 tagI64, 0)
  else
    let free : Int × Bool := ((Config.freeWord n ++ Config.freeWord (n + 1)).toInt, Config.freeBit n)
    let q := quantise (x.reg f.a.toNat).val.toNat (30 - scaleExp e) free
    let c := clampInt (-(2^62)) (2^62) q.1
    (pairRegs (BitVec.ofInt 64 c) tagI64, (if q.2 then flNX else 0) ||| (if c = q.1 then 0 else flSAT))

/-- An active lane gives RQUANT a NaN. -/
def anyNan (g : Group) (act : Lanes) (r : Nat) : Bool := (lanesOf act).any (fun l => isNan fmtF32 ((g.lane l).reg r).val.toNat)

/-- RQUANT (R307). -/
def bodyRquant (f : FA) (s : State) (g : Group) (act : Lanes) : Res :=
  let (n, s) := s.takeFree (if anyNan g act f.a.toNat then 64 else 0)
  vecBody f.d.toNat (fun _ l x => laneRquant f (n + 2 * l) x) s g act

def execRquant (f : FA) (s : State) : Host.Outcome State Fault Refusal := run (.rquant f) (bodyRquant f) s

/-- RDEQ (R307); an exponent beyond any float's overflows or vanishes alike. -/
def laneRdeq (f : FA) (_ : Group) (_ : Nat) (x : Lane) : LaneOut :=
  let e := (x.reg f.b.toNat).val.toInt
  if e = scaleBad then ([⟨BitVec.ofNat 32 fmtF32.nan, tagF32⟩], 0)
  else
    let r := rneF32 ⟨(x.pair f.a.toNat).toInt, clampInt (-1000) 1000 (scaleExp e - 30)⟩
    ([⟨BitVec.ofNat 32 r.1, tagF32⟩], r.2)

def execRdeq (f : FA) (s : State) : Host.Outcome State Fault Refusal := run (.rdeq f) (vecBody f.d.toNat (laneRdeq f)) s

end Sys2Proof.Machine
end

