-- ==== Sys2Proof/Machine/JobRun.lean ====
section
/-! DEFINITION. Jobs at work: dispatch (R347, R348), the landing of their data (R159), faults (R252), passes of an MMA (R271, R348),
collectives (R140, R141, R256, R257), checkpoints (R301, R302), completion (R159). -/

namespace Sys2Proof.Machine

/-! ## Dispatch -/

/-- The engine of a job (R248, R261, R301, R304): copies, the Lathe's panel loads, other Lathe jobs, collectives, checkpoints,
graphs. -/
def JobKind.engine : JobKind → Nat
  | .cpy .. | .gather .. => 0
  | .mloadb .. | .autoLdx .. => 1
  | .coll .. => 3
  | .ckmark .. | .cksnap .. | .ckroll .. | .ckdrop .. => 4
  | .glaunch _ => 5
  | _ => 2

def JobKind.mma? : JobKind → Bool
  | .mma .. => true
  | _ => false

/-- A card is ready (R347): every card that it has an edge from has completed. An MMA needs a place in the reservation table
(R348). -/
def State.ready (s : State) (j : Job) : Bool :=
  j.st == .queued && j.preds.all (fun k => (s.job? k).isNone) &&
    (!j.kind.mma? || decide ((s.quad j.quad).table.length < Config.latheTable))

/-- No older ready card waits for the same engine (R347). -/
def State.oldestReady (s : State) (j : Job) : Bool :=
  !s.jobs.any (fun k => k.2.quad == j.quad && s.jobHere k.2 && k.2.kind.engine == j.kind.engine && decide (k.2.order < j.order) && s.ready k.2)

/-- The reason for which a Lathe job fails its start checks (R262; order: log entry 31). In THAW there is no Lathe (R415). -/
def State.startReason (s : State) (j : Job) : Option Nat :=
  if s.dev.life == .thaw && j.kind.lathe then some 7
  else
  let l := (s.quad j.quad).lathe
  let rowBytes (h : Nat) : Nat := (s.jobTile j h).rowBytes
  match j.kind with
  | .mloadb .. => if l.burl then some 4 else none
  | .mswap id => if l.burl then some 4 else if id ≠ 0 && id ≠ l.shadow.id then some 1 else none
  | .mma _ _ id lm kind .. =>
    if l.burl then some 4
    else if l.active.id ≠ id then some 1
    else if l.active.lm ≠ lm then some 2
    else if !kindB kind l.active.fmt then some 3
    else none
  | .autoLdx .. => if l.burl then none else some 4
  | .autoInf _ h .. => if !l.burl then some 4 else if rowBytes h < 4 * l.classes then some 5 else none
  | .autoFb _ _ _ _ cnt c0 => if !l.burl then some 4 else if l.clauses < c0 + cnt then some 5 else none
  | .autoRd _ c0 cnt _ l0 | .autoWr _ c0 cnt _ l0 =>
    if !l.burl then some 4 else if l.clauses < c0 + cnt || l.literals ≤ l0 then some 5 else none
  | _ => none

/-- Units of a job's work: 8-byte elements of a copy, lanes of a gather, elements of a collective, rows of a Burl read, passes of
an MMA; one for another Lathe job, none for a job that acts when it starts; `copied` the granules that a rollback restores. -/
def JobKind.units (copied : Nat) : JobKind → Nat
  | .cpy _ _ _ _ rows _ _ _ rowBytes => rows * rowBytes / 8
  | .gather _ _ _ _ _ ls => ls.length
  | .autoInf _ _ _ cnt _ => cnt
  | .autoRd _ _ cnt _ _ => cnt
  | .mma _ _ _ _ _ _ _ _ _ _ rows _ _ _ _ _ => (rows + 63) / 64
  | .mloadb .. | .mswap _ | .autoCfg _ | .autoSeed .. | .autoLdx .. | .autoFb .. | .autoWr .. => 1
  | .ckroll .. => copied
  | _ => 0

/-! ## Checkpoints -/

/-- Granules of partition memory that a virtual range names (R302); none: a page has no translation. -/
def State.markedGranules (s : State) (p va n : Nat) : Option (List Nat) :=
  (List.range n).mapM (fun i =>
    let a := BitVec.ofNat 64 (va + ckBytes * i)
    if !canonical a then none
    else
      match s.walk p a with
      | .page pg => some (pg.at a / ckBytes)
      | .stop .. => none)

/-- Every granule lies in the partition's granted device memory (R301 reason 2). -/
def inGrant (d : Device) (p : Nat) (ks : List Nat) : Bool :=
  ks.all (fun k => (partBlocks d p).any (fun b => b.2 == k * ckBytes / Config.blockBytes))

/-- Pool room, in granules, that a partition's live snapshots hold (R302). -/
def Part.poolUsed (p : Part) : Nat := p.marks.foldl (fun acc m => acc + m.2.snaps.length * m.2.granules.length) 0

/-- Change a partition's marked region. -/
def State.updMark (s : State) (p slot : Nat) (f : Marked → Marked) : State :=
  s.updPart p (fun r => { r with marks := Table.upd r.marks slot f })

/-- CKMARK at its start (R301, R302): a reason, or the state with the region. Of several reasons the order is log entry 115's. -/
def State.ckMark (s : State) (p va n slot : Nat) : Except Nat State :=
  let part := s.part p
  if (Table.get? part.marks slot).isSome then .error 1
  else
    match s.markedGranules p va n with
    | none => .error 6
    | some ks =>
      if !inGrant s.dev p ks || part.marks.any (fun m => m.2.granules.any ks.contains) then .error 2
      else .ok (s.updPart p (fun r => { r with
        marks := Table.put r.marks slot { lo := va, hi := va + ckBytes * n, granules := ks } }))

/-- A new snapshot of granules `ks` (R302). In Solstice mode it is of the view of the card's block, whose earlier writes may not have
been released: its granules are copied at once (R303, R385). -/
def State.newSnap (s : State) (j : Job) (order : Nat) (ks : List Nat) : Snap :=
  if s.isSolstice j.blk then
    { order := order, copied := ks.reverse
      old := ks.foldl (fun m k => writeBytes m (k * ckBytes) (readBytes (s.jobView j) (k * ckBytes) ckBytes)) [] }
  else { order := order, copied := [], old := [] }

/-- CKSNAP (R302); order of the reasons: log entry 115. -/
def State.ckSnap (s : State) (j : Job) (p slot snap : Nat) : Except Nat State :=
  let part := s.part p
  match Table.get? part.marks slot with
  | none => .error 1
  | some m =>
    if (Table.get? m.snaps snap).isSome then .error 3
    else if part.ckpool < part.poolUsed + m.granules.length then .error 5
    else
      let sn := s.newSnap j part.nextSnap m.granules
      let s := s.updMark p slot (fun m => { m with snaps := Table.put m.snaps snap sn })
      .ok (s.updPart p (fun r => { r with nextSnap := r.nextSnap + 1 }))

/-- A live snapshot. -/
def State.snap? (s : State) (p slot snap : Nat) : Option Snap :=
  (Table.get? (s.part p).marks slot).bind (fun m => Table.get? m.snaps snap)

/-- CKROLL at its start (R301). -/
def State.ckRoll (s : State) (p slot snap : Nat) : Except Nat State :=
  if (Table.get? (s.part p).marks slot).isNone then .error 1
  else if (s.snap? p slot snap).isNone then .error 4
  else .ok s

/-- Granules that a rollback restores: those copied since the snapshot; the others hold its values (R302). In Solstice mode every one,
since the block's own writes may not have been released (R303, R385). -/
def State.rollGranules (s : State) (j : Job) (slot snap : Nat) : List Nat :=
  match Table.get? (s.part j.part).marks slot with
  | none => []
  | some m =>
    match Table.get? m.snaps snap with
    | none => []
    | some sn => if s.isSolstice j.blk then m.granules else sn.copied.reverse

/-- How many they are. -/
def State.rollCount (s : State) (j : Job) : Nat :=
  match j.kind with
  | .ckroll slot snap => (s.rollGranules j slot snap).length
  | _ => 0

/-- A rollback has restored every granule: the later snapshots are dropped (R302). -/
def State.rollDone (s : State) (j : Job) : State :=
  match j.kind with
  | .ckroll slot snap =>
    match s.snap? j.part slot snap with
    | some sn => s.updMark j.part slot (fun m => { m with snaps := m.snaps.filter (fun x => decide (x.2.order ≤ sn.order)) })
    | none => s
  | _ => s

/-- CKDROP (R302). -/
def State.ckDrop (s : State) (p slot snap : Nat) (all unmark : Bool) : Except Nat State :=
  match Table.get? (s.part p).marks slot with
  | none => .error 1
  | some m =>
    if !all && (Table.get? m.snaps snap).isNone then .error 4
    else if unmark then .ok (s.updPart p (fun r => { r with marks := Table.del r.marks slot }))
    else .ok (s.updMark p slot (fun m => { m with snaps := if all then [] else Table.del m.snaps snap }))

/-- What a checkpoint job does when it starts. -/
def State.ckStart (s : State) (j : Job) : Except Nat State :=
  match j.kind with
  | .ckmark va n slot => s.ckMark j.part va n slot
  | .cksnap slot snap => s.ckSnap j j.part slot snap
  | .ckroll slot snap => s.ckRoll j.part slot snap
  | .ckdrop slot snap all unmark => s.ckDrop j.part slot snap all unmark
  | _ => .ok s

/-- A job starts on its engine (R262, R301, R348). -/
def State.startJob (s : State) (id : Nat) (j : Job) : State :=
  match s.startReason j with
  | some r => s.failJob id 0x1C1 (r + if j.after.isSome then 256 else 0)
  | none =>
    match s.ckStart j with
    | .error r => s.failJob id 0x059 r
    | .ok s =>
      let s := s.updJob id (fun j => { j with st := .running, total := j.kind.units (s.rollCount j) })
      if j.kind.mma? then s.updQuad j.quad (fun q => { q with table := q.table ++ [id] }) else s

/-- The partition's engines run (R374). -/
def State.jobsRun (s : State) (j : Job) : Bool :=
  (s.part j.part).st == .running && (match s.block? j.blk with | some b => b.detached.isNone | none => true)

/-- JOB_DISPATCH (R347). -/
def execJobDispatch (id : Nat) (s : State) : Host.Outcome State Fault Refusal :=
  match s.job? id with
  | none => .next s
  | some j => .next (if s.jobsRun j && s.ready j && s.oldestReady j then s.startJob id j else s)

/-! ## Units -/

/-- What the landing of one unit comes to: the state with the bytes to credit, a fault at an address, an error in the data, or a
reason of R262. -/
inductive Landed where
  | ok (s : State) (n : Nat)
  | fault (va : Nat) (perm : Bool)
  | bad (k : Nat)
  | reason (r : Nat)

/-- Translate one byte of a job's range. -/
def State.jobAddr (s : State) (j : Job) (va : Nat) (n : Need) : Except (Nat × Bool) Nat :=
  let v := BitVec.ofNat 64 va
  match s.checkAddr j.part v 1 n with
  | .ok a => .ok a
  | .error e => .error (v.toNat, e.rank == 3)

/-- A job reads `n` bytes at a virtual address. -/
def State.jobGet (s : State) (j : Job) (va n : Nat) (k : List Byte → Landed) : Landed :=
  match s.jobAddr j va .load with
  | .error e => .fault e.1 e.2
  | .ok a => if s.isBad a n then .bad (s.structOf a n) else k (readBytes (s.jobView j) a n)

/-- A job reads `n` bytes of a tile (R372). -/
def State.tileGet (s : State) (j : Job) (h off n : Nat) (k : List Byte → Landed) : Landed :=
  let t := s.jobTile j h
  if t.isBad off n then .bad t.struct else k (t.bytes off n)

/-- A job writes bytes at a virtual address within a range of its own, `lo` below and `hi` above the address: a codeword in error
that the range covers is cured, another is consumed (R372). -/
def State.jobPut (s : State) (j : Job) (va : Nat) (bs : List Byte) (lo hi credit : Nat) : Landed :=
  match s.jobAddr j va .store with
  | .error e => .fault e.1 e.2
  | .ok a =>
    let whole (k : Nat) : Bool := decide (a ≤ 16 * k + lo) && decide (16 * k + 16 ≤ a + hi)
    let hit (k : Nat) : Bool := decide (a < 16 * k + 16) && decide (16 * k < a + bs.length)
    if s.badCw.any (fun k => hit k.1 && !whole k.1) then .bad (s.structOf a bs.length)
    else
      let s' : State := { s with badCw := s.badCw.filter (fun k => !hit k.1) }
      .ok (s'.jobStore j a bs) credit

/-- Row and offset of element `i` of a copy, 8 bytes each. -/
def cpyPlace (rowBytes i : Nat) : Nat × Nat := (8 * i / rowBytes, 8 * i % rowBytes)

/-- The landing of unit `i` of a copy (R249). Rows land in ascending order, each 8-byte element read after the earlier writes: what
overlapping rows of .t2g and of .t2t come to is the model's choice (log entry 92). -/
def landCpy (s : State) (j : Job) (mode : CpyMode) (h hs row0 srow0 addr pitch rb i : Nat) : Landed :=
  let (r, o) := cpyPlace rb i
  let dst := (row0 + r) * rb + o
  match mode with
  | .t2t => s.tileGet j hs ((srow0 + r) * rb + o) 8 (fun bs => .ok (s.tilePut j h dst bs) 8)
  | .g2t => s.jobGet j (addr + r * pitch + o) 8 (fun bs => .ok (s.tilePut j h dst bs) 8)
  | .t2g => s.tileGet j h dst 8 (fun bs => s.jobPut j (addr + r * pitch + o) bs o (rb - o) 8)

/-- The landing of one lane of a gather or scatter (R250). -/
def landGather (s : State) (j : Job) (scatter : Bool) (h row0 e rb : Nat) (x : Nat × Nat) : Landed :=
  let slot := row0 * rb + x.1 * e
  if scatter then s.tileGet j h slot e (fun bs => s.jobPut j x.2 bs 0 e e)
  else
    s.jobGet j x.2 e (fun bs =>
      if (s.jobTile j h).badPart slot e then .bad (s.jobTile j h).struct else .ok (s.tilePut j h slot bs) e)

/-- The landing of one element of a collective's result (R256). -/
def landColl (s : State) (j : Job) (dst i : Nat) : Landed :=
  match j.result with
  | none => .ok s 0
  | some r => s.jobPut j (dst + 4 * i) (bytesOfNat 4 (r.getD i 0).toNat) (4 * i) (4 * (r.length - i)) 4

/-- A row of a tile byte by byte, as numbers. -/
def Tile.row (t : Tile) (r i : Nat) : Nat := (t.byte (r * t.rowBytes + i)).toNat

/-- Change a job's Lathe. -/
def State.updLathe (s : State) (j : Job) (f : Lathe → Lathe) : State := s.updQuad j.quad (fun q => { q with lathe := f q.lathe })

/-- The first `n` planes of the plane blocks of `cnt` tile rows from `row0` on, `kk` elements a row, touch a codeword in error (R116). -/
def Tile.badPlanes (t : Tile) (row0 cnt kk n : Nat) : Bool :=
  (List.range cnt).any (fun r => (List.range (kk / 64)).any (fun b => t.isBad ((row0 + r) * t.rowBytes + 64 * b) (8 * n)))

/-- Some of the `n` bytes at the start of each of `cnt` tile rows from `row0` on touch a codeword in error. -/
def Tile.badRows (t : Tile) (row0 cnt n : Nat) : Bool := (List.range cnt).any (fun r => t.isBad ((row0 + r) * t.rowBytes) n)

/-- STRUCT of a codeword in error that unit `i` of a Lathe job consumes (R264, R372): tile rows, panel columns, Burl cells, input
slots. -/
def State.latheBad (s : State) (j : Job) (i : Nat) : Option Nat :=
  let l := (s.quad j.quad).lathe
  let first (xs : List (Bool × Nat)) : Option Nat := (xs.find? (·.1)).map (·.2)
  match j.kind with
  | .mloadb h _ lm fmt sc _ cnt row0 => let t := s.jobTile j h; first [(t.badRows row0 cnt (rowNeed fmt lm sc), t.struct)]
  | .autoLdx h row0 cnt _ => let t := s.jobTile j h; first [(t.badRows row0 cnt t.rowBytes, t.struct)]
  | .autoInf _ h s0 _ row0 =>
    let t := s.jobTile j h
    first [(l.badCells 0 (l.clauses * l.literals) || l.badSlot (s0 + i), 7), (t.badPart ((row0 + i) * t.rowBytes) (4 * l.classes), t.struct)]
  | .autoFb _ _ _ slot cnt c0 => first [(l.badCells (c0 * l.literals) (cnt * l.literals) || l.badSlot slot, 7)]
  | .autoRd h c0 _ row0 l0 =>
    let t := s.jobTile j h
    let n := min t.rowBytes (l.literals - l0)
    first [(l.badCells ((c0 + i) * l.literals + l0) n, 7), (t.badPart ((row0 + i) * t.rowBytes) n, t.struct)]
  | .autoWr h c0 cnt row0 l0 =>
    let t := s.jobTile j h
    let n := min t.rowBytes (l.literals - l0)
    first [(t.badRows row0 cnt n, t.struct), ((List.range cnt).any (fun r => l.badPart ((c0 + r) * l.literals + l0) n), 7)]
  | .mma ha hc _ lm _ afmt kp _ sca acc rows arow0 wn wj crow0 _ =>
    let ta := s.jobTile j ha
    let tc := s.jobTile j hc
    let n := min 64 (rows - 64 * i)
    first [(if afmt = 1 then ta.badPlanes (arow0 + 64 * i) n (panelK lm) (kp + 1) else ta.badRows (arow0 + 64 * i) n (rowNeed afmt lm sca),
        ta.struct),
      (acc && tc.badRows (crow0 + 64 * i) n (256 * (wn + 1)), tc.struct),
      (l.active.bad.any (fun c => decide (64 * wj ≤ c) && decide (c < 64 * (wj + wn + 1))), 7)]
  | _ => none

/-- The Lathe as a Burl read sees it (R281): cells that a running feedback job of the quad moves read old or new, each by a free
bit. -/
def State.seenLathe (s : State) (j : Job) : State × Lathe :=
  let l := (s.quad j.quad).lathe
  match s.jobs.find? (fun k => k.2.quad == j.quad && s.jobHere k.2 && k.2.feeds && k.2.off == 0) with
  | some (_, k) =>
    match k.kind with
    | .autoFb second pc pol slot cnt c0 =>
      let (n, s) := s.takeFree (cnt * l.literals)
      (s, l.mixed (l.feedback second pc pol slot cnt c0) c0 cnt n)
    | _ => (s, l)
  | none => (s, l)

/-- What a Lathe job without passes does (R266, R267, R275 to R280); `i` the row of a Burl read. -/
def landLathe (s : State) (id : Nat) (j : Job) (i : Nat) : Landed :=
  let l := (s.quad j.quad).lathe
  match j.kind with
  | .mloadb h pid lm fmt sc j0 cnt row0 =>
    let t := s.jobTile j h
    .ok (s.updLathe j (fun l => { l with shadow := mloadbOn l.shadow pid lm fmt sc j0 cnt (fun r => t.row (row0 + r)) })) 0
  | .mswap _ => .ok (s.updLathe j (fun l => { l with active := l.shadow, shadow := l.active })) 0
  | .autoCfg va =>
    s.jobGet j va 64 (fun bs =>
      match l.configure bs with
      | none => .reason 6
      | some l' => .ok (s.updLathe j (fun _ => l')) 0)
  | .autoSeed seed fbc => .ok (s.updLathe j (fun l => { l with seed := seed, fbc := fbc.zeroExtend 48 })) 0
  | .autoLdx h row0 cnt s0 =>
    let t := s.jobTile j h
    let slot (l : Lathe) (r : Nat) : Lathe :=
      let bs := t.bytes ((row0 + r) * t.rowBytes) t.rowBytes ++ List.replicate (4096 - t.rowBytes) 0
      { l with slots := writeBytes l.slots (4096 * (s0 + r)) bs, badSlots := l.badSlots.filter (fun k => k / 256 != s0 + r) }
    .ok (s.updLathe j (fun l => (List.range cnt).foldl slot l)) 0
  | .autoInf train h s0 _ row0 =>
    let (s, l) := s.seenLathe j
    let t := s.jobTile j h
    let row := (List.range l.classes).flatMap (fun q => bytesOfNat 4 (wrapTo 32 (l.voteOf (s0 + i) q train)))
    .ok (s.tilePut j h ((row0 + i) * t.rowBytes) row) (4 * l.classes)
  | .autoFb second pc pol slot cnt c0 =>
    .ok (s.updLathe j (fun l => l.feedback second pc pol slot cnt c0)) 0
  | .autoRd h c0 _ row0 l0 =>
    let (s, l) := s.seenLathe j
    let t := s.jobTile j h
    let n := min t.rowBytes (l.literals - l0)
    let bs := (List.range n).map (fun b => BitVec.ofNat 8 (l.cell ((c0 + i) * l.literals + l0 + b)))
    .ok (s.tilePut j h ((row0 + i) * t.rowBytes) bs) n
  | .autoWr h c0 cnt row0 l0 =>
    let t := s.jobTile j h
    let n := min t.rowBytes (l.literals - l0)
    let row (x : Lathe) (r : Nat) : Lathe :=
      ((List.range n).foldl (fun x b => x.setCell ((c0 + r) * l.literals + l0 + b) (t.row (row0 + r) b)) x).cure
        ((c0 + r) * l.literals + l0) n
    .ok (s.updLathe j (fun l => (List.range cnt).foldl row l)) 0
  | _ => let _ := id; .ok s 0

/-- The next granule of a rollback returns to its value in the snapshot, at one instant (R302, R303). -/
def landRoll (s : State) (j : Job) (slot snap : Nat) : Landed :=
  match s.snap? j.part slot snap with
  | none => .ok s 0
  | some sn =>
    match (s.rollGranules j slot snap)[j.off]? with
    | none => .ok s 0
    | some k => .ok (s.jobStore j (k * ckBytes) (readBytes (if sn.copied.contains k then sn.old else s.mem) (k * ckBytes) ckBytes)) 0

/-- The landing of the next unit of a running job; an MMA lands by passes (R348). -/
def landUnit (s : State) (id : Nat) (j : Job) : Landed :=
  match j.kind with
  | .cpy mode h hs row0 _ srow0 addr pitch rb => landCpy s j mode h hs row0 srow0 addr pitch rb j.off
  | .gather sc h row0 e rb ls => landGather s j sc h row0 e rb (ls.getD j.off (0, 0))
  | .coll _ _ _ _ _ dst => landColl s j dst j.off
  | .ckroll slot snap => landRoll s j slot snap
  | _ =>
    match s.latheBad j j.off with
    | some k => .bad k
    | none => landLathe s id j j.off

/-- The virtual address that unit `i` of a job translates. -/
def JobKind.unitAddr (k : JobKind) (i : Nat) : Option Nat :=
  match k with
  | .cpy .t2t .. => none
  | .cpy _ _ _ _ _ _ addr pitch rb => some (addr + (cpyPlace rb i).1 * pitch + (cpyPlace rb i).2)
  | .gather _ _ _ _ _ ls => (ls[i]?).map (·.2)
  | .coll _ _ _ _ _ dst => some (dst + 4 * i)
  | .autoCfg va => some va
  | _ => none

/-- The TLBs cache the page that the next unit of a job translates (R356). -/
def State.cacheUnit (s : State) (j : Job) : State :=
  match j.kind.unitAddr j.off with
  | some va => s.cache j.part (BitVec.ofNat 64 va)
  | none => s

/-- The next `n` units of a job land, as far as it gets (R159, R252, R264): in ascending order, which the spec leaves open (log entry
92). -/
def State.landJob (s : State) (id : Nat) : Nat → State
  | 0 => s
  | n + 1 =>
    match s.job? id with
    | none => s
    | some j =>
      if j.st != .running || j.kind.mma? || decide (j.total ≤ j.off) then s
      else
        let s := s.cacheUnit j
        match landUnit s id j with
        | .ok s' k => ((s'.creditJob j k).updJob id (fun j => { j with off := j.off + 1 })).landJob id n
        | .fault va perm => s.parkJob id j va perm
        | .bad k => s.failJob id 0x280 k
        | .reason r => s.failJob id 0x1C1 (r + if j.after.isSome then 256 else 0)

/-- JOB_DATA_LANDS (R159). -/
def execJobDataLands (id n : Nat) (s : State) : Host.Outcome State Fault Refusal :=
  match s.job? id with
  | none => .next s
  | some j => .next (if s.jobsRun j then s.landJob id n else s)

/-- JOB_TRANSLATION_FAULT (R252, R369): the next unit of a running job meets a fault; the entry of a job that waits for one is created
when one has become free. -/
def execJobTranslationFault (id : Nat) (s : State) : Host.Outcome State Fault Refusal :=
  match s.job? id with
  | none => .next s
  | some j =>
    if s.jobsRun j && j.st == .parked none then .next (s.serveQuad j.quad)
    else if !s.jobsRun j || j.st != .running || j.kind.mma? || decide (j.total ≤ j.off) then .next s
    else
      match landUnit s id j with
      | .fault va perm => .next ((s.cacheUnit j).parkJob id j va perm)
      | _ => .next s

/-! ## MMA -/

/-- One C row of an MMA (R270): `i` the A row. -/
def State.mmaRow (s : State) (j : Job) (ha hc kind afmt kp : Nat) (bop sca acc : Bool) (arow0 wn wj crow0 i : Nat) : State :=
  let p := (s.quad j.quad).lathe.active
  let ta := s.jobTile j ha
  let tc := s.jobTile j hc
  let at' := (crow0 + i) * tc.rowBytes
  let elem (k : Nat) : List Byte :=
    let c := if acc then natOfBytes (tc.bytes (at' + 4 * k) 4) else 0
    bytesOfNat 4 (mmaElement p kind afmt kp sca bop (ta.row (arow0 + i)) (64 * wj + k) c)
  s.tilePut j hc at' ((List.range (64 * (wn + 1))).flatMap elem)

/-- One pass of an MMA (R271): up to 64 rows, and their credit; an error in what it reads ends the job (R264). -/
def State.mmaPass (s : State) (id : Nat) (j : Job) : State :=
  match j.kind with
  | .mma ha hc _ _ kind afmt kp bop sca acc rows arow0 wn wj crow0 _ =>
    match s.latheBad j j.off with
    | some k => s.failJob id 0x280 k
    | none =>
    let n := min 64 (rows - 64 * j.off)
    let s := (List.range n).foldl (fun s k => s.mmaRow j ha hc kind afmt kp bop sca acc arow0 wn wj crow0 (64 * j.off + k)) s
    (s.creditJob j (256 * (wn + 1) * n)).updJob id (fun j => { j with off := j.off + 1 })
  | _ => s

/-- The priority of an MMA's card (R268). -/
def JobKind.pri : JobKind → Nat
  | .mma _ _ _ _ _ _ _ _ _ _ _ _ _ _ _ p => p
  | _ => 0

/-- A request ahead of that of job `id` in the reservation table, of no lower card priority: its job has waited at least as long,
and a tie goes to the job that entered first, so the arbiter grants it first at any time (R348). -/
def State.outranked (s : State) (q id pri : Nat) : Bool :=
  ((s.quad q).table.takeWhile (· != id)).any (fun k =>
    match s.job? k with
    | some j => j.st == .running && decide (j.off < j.total) && decide (pri ≤ j.kind.pri)
    | none => false)

/-- MMA_PASS_GRANT (R348): a job in the reservation table gets a pass; among jobs whose effective priority depends on their waiting
times the arbiter may choose any (log entry 38). -/
def execMmaPassGrant (q id : Nat) (s : State) : Host.Outcome State Fault Refusal :=
  match s.job? id with
  | none => .next s
  | some j =>
    .next (if s.jobsRun j && j.quad == q && (s.quad q).table.contains id && j.st == .running && decide (j.off < j.total) &&
        !s.outranked q id j.kind.pri then
      s.mmaPass id j else s)

/-! ## Collectives -/

/-- A reduction of two words (R140, R211, R256). -/
def collNode (op : CollOp) (x y : W32) : W32 :=
  match op with
  | .addF32 | .qaddF32 => BitVec.ofNat 32 (fAdd fmtF32 .rn false x.toNat y.toNat).1
  | .addS32 => x + y
  | .minF32 => BitVec.ofNat 32 (fMinMax fmtF32 false false x.toNat y.toNat)
  | .maxF32 => BitVec.ofNat 32 (fMinMax fmtF32 false true x.toNat y.toNat)
  | .minS32 => if x.toInt ≤ y.toInt then x else y
  | .maxS32 => if x.toInt ≤ y.toInt then y else x

/-- One level of the tree of R136 over any number of participants: neighbours combine, the lower rank on the left. -/
def pairUp (op : CollOp) : List W32 → List W32
  | x :: y :: r => collNode op x y :: pairUp op r
  | l => l

/-- The root of the tree (R140); `n` bounds its levels. -/
def treeRoot (op : CollOp) : Nat → List W32 → W32
  | 0, l => l.headD 0
  | n + 1, l => if l.length ≤ 1 then l.headD 0 else treeRoot op n (pairUp op l)

/-- The quantised sum of one element over the contributions of its block (R141): `e` the block's exponent, none when a
contribution is not finite. -/
def quantSum (e : Option Int) (xs : List W32) : W32 :=
  match e with
  | none => BitVec.ofNat 32 fmtF32.nan
  | some e =>
    let q := xs.foldl (fun acc x => acc + (quantise x.toNat (30 - e) (0, false)).1) 0
    BitVec.ofNat 32 (rneF32 ⟨q, e - 30⟩).1

/-- The agreed exponent of a block's contributions (R141). -/
def quantExp (xs : List W32) : Option Int :=
  if xs.any (fun x => match val fmtF32 x.toNat with | .fin .. => false | _ => true) then none
  else some (blockExp (xs.map (fun x => val fmtF32 x.toNat)))

/-- The reduction of the contributions, `m` elements each (R256). -/
def reduceAll (op : CollOp) (m : Nat) (cs : List (List W32)) : List W32 :=
  let col (i : Nat) : List W32 := cs.map (·.getD i 0)
  match op with
  | .qaddF32 =>
    let es := (List.range ((m + 31) / 32)).map (fun b => quantExp ((List.range (min 32 (m - 32 * b))).flatMap (fun k => col (32 * b + k))))
    (List.range m).map (fun i => quantSum (es.getD (i / 32) none) (col i))
  | op => (List.range m).map (fun i => treeRoot op 13 (col i))

/-- The result words of rank `r` (R256): `cs` every rank's source. -/
def collResult (k : CollKind) (op : CollOp) (n r : Nat) (cs : List (List W32)) : List W32 :=
  match k with
  | .allreduce => reduceAll op n cs
  | .redscat => ((reduceAll op (n * cs.length) cs).drop (r * n)).take n
  | .allgather => cs.flatMap (fun c => (List.range n).map (c.getD · 0))
  | .bcast => (List.range n).map ((cs.headD []).getD · 0)
  | .barrier => []

/-- A job reads `m` words of its own source. -/
def State.jobWords (s : State) (j : Job) (va m : Nat) : Except Landed (List W32) :=
  (List.range m).mapM (fun i =>
    match s.jobGet j (va + 4 * i) 4 (fun bs => .reason (natOfBytes bs)) with
    | .reason v => .ok (BitVec.ofNat 32 v)
    | e => .error e)

/-- An earlier COLL of the partition on the same communicator has not exchanged its parameters: the k-th of each rank join (R257). -/
def State.collAhead (s : State) (j : Job) (c : Nat) : Bool :=
  let table (k : Job) : Option W64 := (s.block? k.blk).bind (·.pgt)
  s.jobs.any (fun k => k.2.part == j.part && k.2.inFlight && k.2.result.isNone && decide (k.2.order < j.order) && table k.2 == table j &&
    (match k.2.kind with | .coll _ _ d _ _ _ => d == c | _ => false))

/-- What a rank brings to a collective: kind, op, n and the words of its source (R256, R257). -/
abbrev RankWords := CollKind × CollOp × Nat × List W32

/-- What the ranks bring, by rank. -/
def rankWords (params : List (CollKind × CollOp × Nat)) (words : List (List W32)) : List RankWords :=
  params.zipIdx.map (fun x => (x.1.1, x.1.2.1, x.1.2.2, words.getD x.2 []))

/-- The parameters are exchanged (R257): `ranks` what each rank of the communicator brings, by rank, the own entry unused. THAW leaves
the Ramnar Link off (R415). On a difference the job ends with COLL_MISMATCH; else the result is formed from the own source and the others'. -/
def State.collExchange (s : State) (id : Nat) (j : Job) (ranks : List RankWords) : State :=
  match j.kind with
  | .coll kind op c n src _ =>
    match (s.group? j.gid).bind (fun g => s.communicator g c) with
    | none => s
    | some (p, r) =>
      if ranks.length ≠ p || s.collAhead j c || (decide (1 < p) && s.dev.life != .full) then s
      else if !ranks.zipIdx.all (fun x => x.2 == r || (x.1.1 == kind && x.1.2.1 == op && x.1.2.2.1 == n)) then s.failJob id 0x142 c
      else
        match s.jobWords j src (collExtents kind n p r).1 with
        | .error (.fault va perm) => s.parkJob id j va perm
        | .error (.bad k) => s.failJob id 0x280 k
        | .error _ => s
        | .ok own =>
          let s := s.cacheRange j.part (BitVec.ofNat 64 src) (4 * own.length)
          let cs := ranks.zipIdx.map (fun x => if x.2 = r then own else x.1.2.2.2)
          let res := collResult kind op n r cs
          s.updJob id (fun j => { j with result := some res, total := res.length })
  | _ => s

/-- COLL_PARAM_EXCHANGE (R257). -/
def execCollParamExchange (id : Nat) (params : List (CollKind × CollOp × Nat)) (words : List (List W32)) (s : State) :
    Host.Outcome State Fault Refusal :=
  match s.job? id with
  | none => .next s
  | some j =>
    .next (if s.jobsRun j && j.st == .running && j.result.isNone then s.collExchange id j (rankWords params words) else s)

/-! ## Completion -/

/-- Bytes that a job credits when it completes (R256, R301, R304). -/
def JobKind.endCredit : JobKind → Nat
  | .coll .barrier .. | .ckmark .. | .cksnap .. | .ckroll .. | .ckdrop .. => 4
  | _ => 0

/-- Every unit has landed: a collective has exchanged its parameters; a graph is accepted by SPINDLE_ACCEPT_GRAPH. -/
def Job.finished (j : Job) : Bool :=
  j.st == .running && decide (j.total ≤ j.off) &&
    (match j.kind with
     | .coll .. => j.result.isSome
     | .glaunch _ => false
     | _ => true)

/-- A job completes (R159): its last credit, its place, its follow-on command. -/
def State.completeJob (s : State) (id : Nat) (j : Job) : State := ((s.rollDone j).creditJob j j.kind.endCredit).endJob id true

/-- JOB_COMPLETE (R159). -/
def execJobComplete (id : Nat) (s : State) : Host.Outcome State Fault Refusal :=
  match s.job? id with
  | none => .next s
  | some j => .next (if s.jobsRun j && j.finished then s.completeJob id j else s)

end Sys2Proof.Machine
end

