-- ==== Sys2Proof/Machine/Place.lean ====
section
/-! DEFINITION. Room on a core and the birth of a group: residency slots (R407), the first seat (R46), admission
(R29, R317, R330), eligible cores (R341, R342), argument words (R18, R422). -/

namespace Sys2Proof.Machine

/-! ## Residency -/

/-- A free residency slot of a core (R407): which one is a free choice, by the free value `k` (log entry 11). -/
def State.freeSlot (s : State) (c k : Nat) : Nat :=
  let xs := (List.range Config.residentGroups).filter (fun k => !(s.onCore c).any (fun g => g.2.slot == k))
  xs.getD (Config.freePick k xs.length % max 1 xs.length) 0

/-- A context as it finds a seat of the Sapwood, or none: ACTIVE or PARKED (R46). -/
def Group.seatedAt (g : Group) (seat : Option (Nat × Bool)) (tick : Nat) : Group :=
  match seat with
  | some x => { g with st := .active, sapwood := true, resBlocks := x.1, resSlot := x.2, since := tick }
  | none => { g with st := .parked, sapwood := false, resBlocks := 0, resSlot := false }

/-- A group is born on a core (R46, R47): slot and age, ACTIVE if the Sapwood has room and PARKED otherwise; `eligible`: it may use
the reserve (R321). -/
def State.bear (s : State) (gid c : Nat) (g : Group) (eligible : Bool) : State :=
  let seat := s.seatFor c g.budget eligible
  let (k, s) := s.takeFree 1
  let g : Group := { g.seatedAt seat s.ticks with slot := s.freeSlot c k, age := (s.core c).nextAge }
  (s.setGroup gid g).updCore c (fun r => { r with nextAge := r.nextAge + 1 })

/-! ## Admission -/

/-- Estates and captured wills of a core that may give way to a block whose heirs take the estates `own` (R329, R330). -/
def State.evictable (s : State) (c : Nat) (own : List Nat) : List Estate :=
  (s.estatesOn c).filter (fun e => !e.claimed && !own.contains e.order)

/-- Heartwood blocks of a core for a reservation, when `k` of its estates have gone (R330). -/
def State.heartRoom (s : State) (c k : Nat) : Nat :=
  Config.heartwoodBlocks - Config.nodeReserve - s.reservedBlocks c - ((s.estatesOn c).length - k + 7) / 8

/-- The Heartwood can take a reservation of `need` blocks (R29, R330). -/
def State.heartFits (s : State) (c need : Nat) (own : List Nat) : Bool :=
  let mine := (own.filter (fun o => (s.estatesOn c).any (fun e => e.order == o))).length
  decide (need ≤ s.heartRoom c (mine + (s.evictable c own).length))

/-- Evict estates of a core, least-recently-willed first, until the reservation fits; at most `n` (R330). -/
def State.makeRoom (s : State) (c need : Nat) (own : List Nat) : Nat → State
  | 0 => s
  | n + 1 =>
    let mine := (own.filter (fun o => (s.estatesOn c).any (fun e => e.order == o))).length
    if need ≤ s.heartRoom c mine then s
    else
      match oldest (s.evictable c own) with
      | none => s
      | some e => (s.evict e).makeRoom c need own n

/-- Marked hot or droopy, and the marks count for the partition (R342). -/
def State.marked (s : State) (p c : Nat) : Bool :=
  !(s.part p).override && ((s.core c).hot || (s.quad (Sys2Proof.Machine.quadOf c)).droopy)

/-- A core can take a block of `n` groups and `need` Heartwood blocks (R341). -/
def State.eligible (s : State) (p c n need : Nat) (own : List Nat) : Bool :=
  !s.marked p c && s.heartFits c need own && decide ((s.onCore c).length + n ≤ Config.residentGroups)

/-- Of a list of cores in ascending order, the one with the fewest resident groups, the lowest first (R341). -/
def State.fewest (s : State) : List Nat → Option Nat
  | [] => none
  | c :: r =>
    match s.fewest r with
    | none => some c
    | some d => if (s.onCore d).length < (s.onCore c).length then some d else some c

/-- Quads that a partition has on loan (R403). -/
def lentTo (d : Device) (p : Nat) : List Nat := (d.loans.filter (fun l => l.borrower == p)).flatMap (·.quads)

/-! ## Argument words -/

/-- One word of an argument block: a byte after the other, in the memory `m` (R422); an address that is not canonical has no
translation (log entry 40). -/
def State.argWord (s : State) (m : List Host.Cell) (p : Nat) (va : W64) : Except AddrFail Nat :=
  let byte (k : Nat) : Except AddrFail Byte :=
    let a := va + BitVec.ofNat 64 k
    match s.checkAddr p a 1 .load with
    | .ok pa => .ok (readByte m pa)
    | .error e => .error (if e.rank = 0 then { rank := 2 } else e)
  match (List.range 4).mapM byte with
  | .ok bs => .ok (natOfBytes bs)
  | .error e => .error e

/-- Words `lo` to 7 of an argument block of `size` bytes (R18): a word at or beyond the size reads as 0, and so does one that
cannot be read; with the first of those and its address. -/
def State.argWords (s : State) (m : List Host.Cell) (p : Nat) (base : W64) (size lo : Nat) :
    List (Nat × W32) × Option (W64 × AddrFail) :=
  ((List.range 8).filter (fun i => decide (lo ≤ i) && decide (4 * i < size))).foldl (fun acc i =>
    let va := base + BitVec.ofNat 64 (4 * i)
    match s.argWord m p va with
    | .ok v => (Sparse.set 0 acc.1 i (BitVec.ofNat 32 v), acc.2)
    | .error e => (acc.1, match acc.2 with | none => some (va, e) | some x => some x)) ([], none)

/-- a0 bound to an argument block, with limit equal to its size (R18, R47). -/
def State.argReg (s : State) (p : Nat) (base : W64) (size : Nat) : AddrReg :=
  { bindAddr s p base (BitVec.ofNat 32 size) with limit := BitVec.ofNat 32 size }

end Sys2Proof.Machine
end

