-- ==== Sys2Proof/Machine/Nodes.lean ====
section
/-! DEFINITION. Nodes and the Chuck: handles (R37), slots and swapping (R344), the offer of a record (R290), the overflow region
(R286, R346), the launch of groups from a bin (R39, R345, R377, R421, R422), dead records (R291, R408). -/

namespace Sys2Proof.Machine

/-! ## Handles -/

/-- The handle of node index `i` (R37). -/
def Node.handle (n : Node) (i : Nat) : W32 := BitVec.ofNat 32 (4096 * i + n.gen)

/-- Index of a handle (R37). -/
def nodeIndex (h : W32) : Nat := h.toNat / 4096

/-- The node that a handle names in partition `p`: of its generation and not deleted (R287). -/
def State.liveNode (s : State) (p : Nat) (h : W32) : Option Node :=
  match s.node? (nodeIndex h) with
  | some n => if n.live && n.part == p && n.handle (nodeIndex h) == h then some n else none
  | none => none

/-- Records that a node holds in its overflow region. -/
def Node.spilledCount (n : Node) : Nat := n.segments.foldl (fun acc x => acc + x.2.length) 0

/-- The overflow region has room for a record (R286). -/
def Node.hasOvf (n : Node) : Bool := decide (n.spilledCount < n.ovfSize / 64)

/-- The node's home quad is on loan: its records are saved with the lender's work there (R403, R404; log entry 74). -/
def State.nodeAway (s : State) (n : Node) : Bool := s.dev.loans.any (fun l => l.lender == n.part && l.quads.contains n.homeQuad)

/-- The node's records and its slot are in the Chuck of its home quad. -/
def State.nodeOn (s : State) (n : Node) : Bool := s.onChip n.part && !s.nodeAway n

/-- Records that the Chuck of quad `q` holds (R344). -/
def State.chuckHeld (s : State) (q : Nat) : Nat :=
  (s.nodes.filter (fun n => n.2.homeQuad == q && s.nodeOn n.2)).foldl (fun acc n => acc + n.2.bin.length) 0

/-- The bin is not full (R344). -/
def State.binRoom (s : State) (n : Node) : Bool :=
  decide (n.bin.length < Config.binRecords) && decide (s.chuckHeld n.homeQuad < Config.chuckRecords)

/-- A deleted node whose last record has launched frees its index (R287). -/
def State.reap (s : State) (i : Nat) : State :=
  match s.node? i with
  | some n => if !n.live && n.bin.isEmpty && n.spilledCount == 0 then { s with nodes := Table.del s.nodes i } else s
  | none => s

/-! ## Dead records -/

/-- The 64 bytes of a dead record (R408). -/
def deadBytes (r : Rec) (cause : Nat) : List Byte :=
  bytesOfNat 4 r.handle.toNat ++ bytesOfNat 2 cause ++ bytesOfNat 2 r.rank ++ bytesOfNat 8 r.origin.toNat ++
    ((List.range 4).flatMap (fun i => bytesOfNat 4 (match r.payload[i]? with | some x => x.1.toNat | none => 0))) ++
    bytesOfNat 4 r.key.toNat ++ bytesOfNat 4 0 ++ bytesOfNat 8 (match r.join with | some a => a.toNat | none => 0) ++
    bytesOfNat 16 0

/-- A remote record counts at the node that holds its index at the target, of whatever generation (R288, R291; log entry 94). -/
def State.countDead (s : State) (p : Nat) (r : Rec) : State :=
  if !r.fab then s else s.updNode (nodeIndex r.handle) (fun n => if n.part = p then { n with dead := n.dead + 1 } else n)

/-- A record goes to the dead-record area of partition `p` (R291, R408); the area is partition-physical (log entry 41). -/
def State.deadRecord (s : State) (p : Nat) (r : Rec) (cause : Nat) : State :=
  let part := s.part p
  let s := s.countDead p r
  let lost := s.updPart p (fun x => { x with drlost := x.drlost + 1 })
  if part.drsize.toNat < part.drnext.toNat + 64 then lost
  else
    match sysAddr s.dev p ((part.drbase + part.drnext).toNat % 2^52) with
    | none => lost
    | some a => (s.store a (deadBytes r cause) none).updPart p (fun x => { x with drnext := x.drnext + 64 })

/-! ## Slots -/

/-- Nodes that hold a slot of the Chuck of quad `q` (R344). -/
def State.slotted (s : State) (q : Nat) : List (Nat × Node) := s.nodes.filter (fun n => n.2.homeQuad == q && n.2.inSlot && s.nodeOn n.2)

/-- Of a list of nodes, the index of the one that has gone longest without a record (R344). -/
def stalest : List (Nat × Node) → Option Nat
  | [] => none
  | x :: r => some (r.foldl (fun acc y => if y.2.lastUse < acc.2.lastUse then y else acc) x).1

/-- The ticket unit has not released the commit of block `b` at quantum end `k`, which may still be in progress (R384). -/
def State.unreleasedAt (s : State) (b k : Nat) : Bool :=
  match s.block? b with
  | none => false
  | some r => !r.commits.any (fun c => c.quantum == k && c.released)

/-- The changes of a node's slot that NODEQ does not show yet (R387). -/
def State.hiddenSwaps (s : State) (n : Node) : List (Bool × Nat × Nat) := n.swaps.filter (fun x => s.unreleasedAt x.2.1 x.2.2)

/-- What NODEQ shows of a node's slot: as it was before the first change by a record whose commit has not been released (R387; log entry
119). -/
def State.swapShown (s : State) (n : Node) : Bool := match s.hiddenSwaps n with | x :: _ => x.1 | [] => n.swapped

/-- A record, of batch `b` in Solstice mode, has node `i` enter a slot (`out` false) or swapped out. -/
def State.swapNode (s : State) (i : Nat) (out : Bool) (b : Option Batch) : State :=
  match s.node? i with
  | none => s
  | some n =>
    let more : List (Bool × Nat × Nat) := match b with | some x => if n.swapped = out then [] else [(n.swapped, x.blk, x.k)] | none => []
    s.setNode i { n with inSlot := !out, swapped := out, swaps := s.hiddenSwaps n ++ more }

/-- A record of batch `b` arrives for node `i`, swapped out or not: it needs a slot (R344). The node whose bin is empty and has gone
longest without a record is swapped out for it, or it is swapped out itself. -/
def State.seat (s : State) (i : Nat) (b : Option Batch) : State :=
  match s.node? i with
  | none => s
  | some n =>
    if n.inSlot then s
    else
      let xs := s.slotted n.homeQuad
      if xs.length < Config.nodeSlots then s.swapNode i false b
      else
        match stalest (xs.filter (fun x => x.2.bin.isEmpty)) with
        | some k => (s.swapNode k true b).swapNode i false b
        | none => s.swapNode i true b

/-! ## The offer of a record -/

/-- How long ago a node accepted a record: larger is earlier (R9: numbers wrap). -/
def Node.age (n : Node) (h : Held) : Nat := (n.accepted - h.serial).toNat

/-- Put a record into a list in order of acceptance. -/
def Node.insert (n : Node) (h : Held) : List Held → List Held
  | [] => [h]
  | x :: r => if n.age x < n.age h then h :: x :: r else x :: n.insert h r

/-- The record is numbered and held by a bin (R9, R345). -/
def Node.accept (n : Node) (h : Held) (tick : Nat) : Node :=
  { n with bin := n.bin ++ [{ h with serial := n.accepted }], accepted := n.accepted + 1, lastUse := tick
           timerOn := true }

/-- Slot `k` of a region of `m` slots, or the next one after it that no held record takes; at most `fuel` tries. -/
def freeFrom (used : List Nat) (m k : Nat) : Nat → Nat
  | 0 => k
  | f + 1 => if used.contains k then freeFrom used m ((k + 1) % m) f else k

/-- The bytes of sixteen free words from number `k` on. -/
def freeBytes (k : Nat) : List Byte := (List.range 16).flatMap (fun i => bytesOfNat 4 (Config.freeWord (k + i)).toNat)

/-- The place of a spilled record in the overflow region, and what stands there (R286): its layout belongs to the Chuck, so the
slot is a free choice and the bytes are free values (log entry 42). -/
def State.spillPlace (s : State) (n : Node) : State × Option (Nat × Nat) :=
  let m := n.ovfSize / 64
  let (k, s) := s.takeFree 17
  let used := (n.segments.flatMap (·.2)).filterMap (·.place)
  let addr (j : Nat) : Option Nat :=
    let va := n.ovfBase + BitVec.ofNat 64 (64 * j)
    match s.walk n.part va with
    | .page pg => if pg.w && canonical va then some (pg.at va) else none
    | .stop .. => none
  let taken := (List.range (n.spilledCount + 1)).filter (fun j => used.any (fun u => addr j == some u.1))
  match addr (freeFrom taken m (Config.freePick k m % m) (n.spilledCount + 1)) with
  | none => (s, none)
  | some a => (s.store a (freeBytes (k + 1)) none, some (a, k + 1))

/-- Add a record to the last open segment, or open one: a segment closes at 64 records (R346). -/
def addSegment (h : Held) : List (Bool × List Held) → List (Bool × List Held)
  | [] => [(false, [h])]
  | [(c, hs)] => if c then [(c, hs), (false, [h])] else [(decide (64 ≤ hs.length + 1), hs ++ [h])]
  | x :: y :: r => x :: addSegment h (y :: r)

/-- The Chuck of node `i` takes no record now: it is off chip (`off`), or its quad is on loan (R375, R403). -/
def State.chuckOff (s : State) (i : Nat) (off : Bool) : Bool := off || (match s.node? i with | some n => s.nodeAway n | none => false)

/-- Offer a record to node index `i` (R290): accepted on chip, into the overflow region, or refused (none). `off`: its partition is off
chip (R375). -/
def State.offer (s : State) (i : Nat) (h : Held) (off : Bool) : Option State :=
  let away := s.chuckOff i off
  let s := if away then s else s.seat i h.batch
  match s.node? i with
  | none => none
  | some n =>
    let tick := s.ticks
    let s' : State := { s with ticks := s.ticks + 1 }
    if !away && !n.swapped && s.binRoom n then some (s'.setNode i (n.accept h tick))
    else if n.hasOvf then
      let (s', pl) := s'.spillPlace n
      some (s'.setNode i { n with
        segments := addSegment { h with serial := n.accepted, place := pl } n.segments
        accepted := n.accepted + 1, lastUse := tick })
    else none

/-- Offer records in lane order, each to its own node: the state, and the lanes refused. -/
def State.offerAll (s : State) (xs : List (Nat × Nat × Held)) : State × Lanes :=
  xs.foldl (fun acc x =>
    match acc.1.offer x.2.1 x.2.2 false with
    | some s' => (s', acc.2)
    | none => (acc.1, acc.2 ||| BitVec.ofNat 32 (2^x.1))) (s, 0)

/-! ## Which records launch -/

/-- Insert by key, after equal keys. -/
def insertKey (h : Held) : List Held → List Held
  | [] => [h]
  | x :: r => if h.r.key < x.r.key then h :: x :: r else x :: insertKey h r

/-- Records in launch order (R345): an ordered node's by key, equal keys in ascending serial. -/
def Node.launchOrder (n : Node) (hs : List Held) : List Held :=
  if n.ordered then hs.foldl (fun acc h => insertKey h acc) [] else hs

/-- The records that the bin's next group takes (R345, R377): up to COUNT; the group ends before a record of another mode. The
records of a batch launch by R388 instead (log entry 43). -/
def Node.chosen (n : Node) : List Held :=
  let hs := (n.launchOrder n.bin).dropWhile (·.batch.isSome)
  match hs with
  | [] => []
  | x :: _ => (hs.takeWhile (fun h => h.batch.isNone && h.r.quantum == x.r.quantum)).take n.count

/-- Records of the bin that no batch holds. -/
def Node.loose (n : Node) : Nat := (n.bin.filter (·.batch.isNone)).length

/-! ## The birth of a group from records -/

/-- %wid of a Solstice child (R389). -/
def hierKey (parent : W64) (n : Nat) : W64 :=
  let x := parent ^^^ (BitVec.ofNat 64 (n + 1) * 0x9E3779B97F4A7C15)
  let x := x ^^^ (x >>> 31)
  let x := x * 0xC2B51A7E93D46F1B
  let x := x ^^^ (x >>> 27)
  let x := x * 0x8F3D5E27B61A94C5
  x ^^^ (x >>> 33)

/-- The key of a spawned work-item (R9, R389). -/
def Node.wid (n : Node) (i : Nat) (h : Held) : W64 :=
  match n.keyWord with
  | some k => (match h.r.payload[k]? with | some x => x.1 | none => 0).zeroExtend 64
  | none =>
    match h.r.quantum with
    | some _ => hierKey h.r.origin h.r.nth
    | none => n.handle i ++ h.serial

/-- The lane of a record (R39, R18, R22). -/
def Node.lane (n : Node) (i : Nat) (h : Held) : Lane :=
  let wid := n.wid i h
  let x : Lane := { wid := wid, key := n.seed ^^^ wid, join := h.r.join, joinFab := h.r.fab }
  x.setRegs 1 ((h.r.payload.take n.npay).mapIdx (fun k w => ⟨w.1, n.tags.getD k 0⟩))

/-- Earlier in ticket order: keys compare from the left, and a prefix comes first (R383). -/
def ticketLt : List Nat → List Nat → Bool
  | [], [] => false
  | [], _ :: _ => true
  | _ :: _, [] => false
  | x :: xs, y :: ys => decide (x < y) || (x == y && ticketLt xs ys)

/-- The place of a record in ticket order; outside Solstice mode it has none. -/
def Held.ticket (h : Held) : List Nat := match h.batch with | some x => x.ticket | none => []

/-- The record of a list that stands last in ticket order (R383). -/
def lastTicket : List Held → Option Held
  | [] => none
  | h :: r =>
    match lastTicket r with
    | none => some h
    | some x => if ticketLt h.ticket x.ticket then some x else some h

/-- The block of a group born from node `n` (R23, R47, R377): the record that stands last in ticket order gives a Solstice child its
place and its view (log entry 44); a Solstice child of a remote record has a tree of its own (`State.bornFrom`). -/
def Node.block (n : Node) (i core : Nat) (inReserve : Bool) (wdog : W32) (hs : List Held) : Block :=
  let last := lastTicket hs
  let q := last.bind (fun h => h.r.quantum)
  let b := last.bind (·.batch)
  { part := n.part, core := core, launch := none, node := some i, launchId := n.launchId, vf := n.vf, seed := n.seed
    solstice := q.isSome, quantum := q.getD 4096, reserved := if inReserve then 0 else n.budget + 2, inReserve := inReserve
    bwdog := wdog, base := b.map (·.view), root := b.bind (·.root), ticket := match b with | some x => x.ticket | none => []
    ancestors := match b with | some x => x.ancestors ++ [(x.blk, hs.filterMap (fun h => h.r.join))] | none => [] }

/-- What NODEQ tells of a node (R288, R387): of the records whose acceptance the ticket unit has not released, `unreleased` are among
those accepted and `hidden` in the overflow region; `out`: it shows as swapped out. -/
def Node.values (n : Node) (unreleased hidden : Nat) (out : Bool) : List W32 :=
  let cap := n.ovfSize / 64
  let full := decide (0 < cap) && decide (cap ≤ n.spilledCount - hidden)
  [BitVec.ofNat 32 (1 + (if n.ordered then 2 else 0) + (if out then 4 else 0) + (if full then 8 else 0)),
   BitVec.ofNat 32 n.bin.length, BitVec.ofNat 32 n.spilledCount, BitVec.ofNat 32 (cap - n.spilledCount),
   BitVec.ofNat 32 n.segments.length, n.accepted - BitVec.ofNat 32 unreleased, n.dead]

/-- Records in commits that the ticket unit has not released, for a handle (R387). -/
def State.unreleased (s : State) (h : W32) : Nat :=
  let inOp (o : Nat × Staged) : Nat :=
    match o.2 with
    | .spawn _ false rs => (rs.filter (fun r => r.2.handle == h)).length
    | _ => 0
  let inCommit (c : Commit) : Nat := if c.released then 0 else c.ops.foldl (fun acc o => acc + inOp o) 0
  s.blocks.foldl (fun acc b => acc + b.2.commits.foldl (fun acc c => acc + inCommit c) 0) 0

/-- The ticket unit has not released the commit that carried a record (R384). -/
def State.heldBack (s : State) (h : Held) : Bool :=
  match h.batch with
  | none => false
  | some x =>
    match s.block? x.blk with
    | none => false
    | some b => b.commits.any (fun c => c.quantum == x.k && !c.released)

/-- The NODEQ values of every live node of a partition, by handle (R288, R380 step 3). -/
def State.nodesNow (s : State) (p : Nat) : List (Nat × List W32) :=
  (s.nodes.filter (fun n => n.2.live && n.2.part == p)).map (fun n =>
    ((n.2.handle n.1).toNat,
      n.2.values (s.unreleased (n.2.handle n.1)) ((n.2.segments.flatMap (·.2)).filter s.heldBack).length (s.swapShown n.2)))

/-- Cores among `cs` that can take a group of node `n` (R341, R345). -/
def State.nodeCores (s : State) (n : Node) (cs : List Nat) : List Nat :=
  let reserveFree (c : Nat) : Bool := !s.blocks.any (fun b => b.2.core == c && !b.2.gone && b.2.inReserve && s.resides b.2)
  cs.filter (fun c => !s.marked n.part c && decide ((s.onCore c).length + 1 ≤ Config.residentGroups) &&
    (s.heartFits c (n.budget + 2) [] || reserveFree c))

/-- The core of a group born from a node (R345): of the home quad, else of the home die. -/
def State.nodeCore (s : State) (n : Node) : Option Nat :=
  let quadCores (q : Nat) : List Nat := (List.range Config.coresPerQuad).map (q * Config.coresPerQuad + ·)
  let die := (partQuads s.dev n.part).filter (fun q => dieOf q == dieOf n.homeQuad)
  match s.fewest (s.nodeCores n (quadCores n.homeQuad)) with
  | some c => some c
  | none => s.fewest (s.nodeCores n (die.flatMap quadCores))

/-- A child of Solstice mode that no commit of this module has made, of a remote record: its view is memory at its birth, and its commits
are a tree of their own (R385; log entry 53). -/
def Block.alone (b : Block) (bid : Nat) (m : List Host.Cell) : Block :=
  if b.solstice && b.base.isNone then { b with base := some m, root := some bid } else b

/-- A group is born from records of node `i` on core `c` (R39, R47, R345, R422). -/
def State.bornFrom (s : State) (i c : Nat) (n : Node) (hs : List Held) : State :=
  let fits := s.heartFits c (n.budget + 2) []
  let s := if fits then s.makeRoom c (n.budget + 2) [] s.estates.length else s
  let bid := s.ticks
  let gid := s.ticks + 1
  let s := s.cacheRange n.part n.argBase (min n.argSize 32)
  let b := (n.block i c (!fits) (s.part n.part).wdogdef hs).alone bid s.mem
  let m := match b.base with | some v => v | none => s.mem
  let (ws, bad) := s.argWords m n.part n.argBase n.argSize 2
  let occ := maskOf (fun l => decide (l < hs.length))
  let due : List Due :=
    match bad with
    | none => []
    | some (va, e) => [{ kind := .job, code := e.code, eaddr := va, einfo := addrInfo e.level e.mal 0 }]
  let regs := Sparse.set 0 (Sparse.set 0 ws 0 (n.handle i)) 1 (BitVec.ofNat 32 hs.length)
  let g : Group :=
    { blk := bid, budget := n.budget, occ := occ, path := occ, em := occ, pc := n.entry, due := due, s := regs
      lanes := (List.range 32).map (fun l => match hs[l]? with | some h => n.lane i h | none => {})
      a := Sparse.set {} [] 0 (s.argReg n.part n.argBase n.argSize) }
  let s' : State := { s with ticks := s.ticks + 2 }
  (s'.setBlock bid { b with nodesSeen := s.nodesNow n.part }).bear gid c g true

/-- Launch one group of the records `hs` of node `i`; none: no core can take it. -/
def State.launchFrom (s : State) (i : Nat) (n : Node) (hs : List Held) : Option State :=
  match s.nodeCore n with
  | none => none
  | some c =>
    let s := s.bornFrom i c n hs
    let out (h : Held) : Bool := hs.any (fun x => x.serial == h.serial)
    some (s.updNode i (fun n => { n with bin := n.bin.filter (fun h => !out h) }))

/-- The partition's Chucks launch (R374, R415). -/
def State.chuckRuns (s : State) (p : Nat) : Bool := s.dev.life != .cold && (s.part p).st == .running

/-- The node's Chuck launches: it is on its quad, and its partition runs. -/
def State.nodeRuns (s : State) (n : Node) : Bool := s.chuckRuns n.part && !s.nodeAway n

/-- Launch groups from a bin while a launch is due (R345, R421): the count is held, the timer is due (`timer`, once), TIMER is 0,
or a launch is owed; at most `k` groups. -/
def State.runBin (s : State) (i : Nat) (timer : Bool) : Nat → State
  | 0 => s
  | k + 1 =>
    match s.node? i with
    | none => s
    | some n =>
      if !s.nodeRuns n then s
      else if n.chosen.isEmpty then (s.updNode i (fun n => { n with timerOn := decide (0 < n.loose), owed := false })).reap i
      else if !(decide (n.count ≤ n.loose) || timer || n.timer == 0 || n.owed) then s.updNode i (fun n => { n with timerOn := true })
      else
        match s.launchFrom i n n.chosen with
        | none => s.updNode i (fun n => { n with owed := true })
        | some s' => (s'.updNode i (fun n => { n with owed := false })).runBin i false k

/-- The bins that records reached launch what is due (R421). -/
def State.runBins (s : State) (is : List Nat) : State := is.eraseDups.foldl (fun s i => s.runBin i false 300) s

end Sys2Proof.Machine
end

