-- ==== Sys2Proof/Machine/Turn.lean ====
section
/-! DEFINITION. What stands before an instruction's issue: which groups issue (R45, R374), due causes first (R364), settling
(R170), the fairness switch (R172), the fetch (R83, R108 steps 1 to 4); and how an instruction is placed to run first. -/

namespace Sys2Proof.Machine

/-- The word at PC, as memory holds it now (R83, log entry 3), or the cause of step 1 of R108. A non-canonical PC meets R42. -/
def State.fetch (s : State) (g : Group) : Except Trap W64 :=
  let p := s.partOf g
  if !canonical g.pc then .error { code := 0x044, eaddr := g.pc, einfo := some (addrInfo 7 false 3) }
  else
    match s.walk p g.pc with
    | .stop l mal => .error { code := 0x040, eaddr := g.pc, einfo := some (addrInfo l mal 3) }
    | .page pg =>
      if !pg.x then .error { code := 0x042, eaddr := g.pc, einfo := some (addrInfo 7 false 3) }
      else if s.isBad (pg.at g.pc) 8 then .error { code := 0x280, eaddr := g.pc, einfo := some 8 }
      else .ok (BitVec.ofNat 64 (readNat s.mem (pg.at g.pc) 8))

/-- What a turn comes to before an instruction acts: it is over, or an instruction issues. -/
inductive Ready where
  | over (s : State)
  | issue (s : State) (i : Instr)

/-- Fetch and decode at PC (R108 steps 1 to 4). The TLBs cache the page at PC, and those of the instruction's accesses (R356). A word
that these steps refuse has not issued: no count takes it (R52, R172; log entry 110). -/
def State.fetchReady (s : State) (gid : Nat) (g : Group) : Ready :=
  let w := s.fetch g
  let s := s.cache (s.partOf g) g.pc
  match w with
  | .error t => .over (s.take gid t g.pc (t.einfo.getD 0))
  | .ok w =>
    match decode w with
    | .ok i => .issue (s.translate g i) i
    | .error .illegalField => .over (s.take gid { code := 0x002 } g.pc w)
    | .error .illegalPair => .over (s.take gid { code := 0x003 } g.pc w)

/-- The entries of CUR's chain that hold a deferred path, innermost first (R172). -/
def State.deferredPaths (s : State) (gid : Nat) (g : Group) : List Entry :=
  (chainOf (s.ownEntries gid g) g.cur).filter (fun e => e.defl != 0)

/-- The fairness timer of a group exchanges the running path with a deferred one (R172); with none deferred, it does nothing and
the count restarts (log entry 22). -/
def State.switchPath (s : State) (gid : Nat) (g : Group) : State :=
  let es := s.ownEntries gid g
  let kept := s.deferredPaths gid g
  match kept[g.switches % kept.length]? with
  | none => s.setGroup gid { g with fair := 0 }
  | some e =>
    let g' := { g with path := e.defl, em := e.den, pc := e.dpc, fair := 0, switches := g.switches + 1, latch := [] }
    let es := putEntry es { e with defl := g.path, den := g.em, dpc := g.pc }
    (s.putPath gid ({ g' with cur := curOf es g'.path }, es)).settleGroup gid

/-- The group has used up its quantum (R379); a handler that a cause of its wait has started issues past it (R364, R387). -/
def State.quantumUsed (s : State) (g : Group) : Bool :=
  match s.block? g.blk with
  | some b =>
    b.solstice && ((!g.past && (g.quantumDone || decide (b.quantum ≤ g.qcount))) || decide (Config.stagingEntries ≤ g.staged.length))
  | none => false

/-- A group reaches the end of its quantum: its results land and it waits (R323, R379). -/
def Group.endQuantum (g : Group) : Group := { g.landAll.waits .quantum true with quantumDone := true, past := false }

/-- The partition of a group runs (R374, R415). -/
def State.partRuns (s : State) (g : Group) : Bool :=
  match s.block? g.blk with
  | some b => s.dev.life != .cold && (s.part b.part).st == .running && b.detached.isNone
  | none => false

/-- An active group's turn: a quantum that is used up ends, a due cause is taken at the boundary, the path settles, a due
fairness switch happens (with no deferred path the count restarts: log entry 22), and the word at PC is fetched (R170, R172, R364, R379). -/
def State.activeReady (s : State) (gid : Nat) (g : Group) : Ready :=
  if s.quantumUsed g then .over (s.setGroup gid g.endQuantum)
  else
    let s := s.settleGroup gid
    match s.group? gid with
    | none => .over s
    | some g =>
      if g.st != .active then .over s
      else if !g.due.isEmpty && g.canTake then .over (s.deliver gid g)
      else if decide (g.fair < Config.fairness) then s.fetchReady gid g
      else if (s.deferredPaths gid g).isEmpty then
        let g' : Group := { g with fair := 0 }
        (s.setGroup gid g').fetchReady gid g'
      else if g.windows.isEmpty then .over (s.switchPath gid g)
      else s.fetchReady gid g

/-- A WAITING group's turn: its wait is looked at again. In Solstice mode that happens at block quantum ends only (R387). A
stalled SPAWN.b issues again whole (R290); the fairness count has taken it (R172). -/
def State.waitReady (s : State) (gid : Nat) (g : Group) (w : Wait) : Ready :=
  match s.block? g.blk with
  | none => .over s
  | some b =>
    if b.solstice then .over s
    else
      match w with
      | .spawn _ =>
        let g' : Group := { g with st := .active, fair := g.fair - 1 }
        if g.sapwood then (s.setGroup gid g').fetchReady gid g' else .over s
      | .jwait va ar => .over (s.jwaitRead gid g va ar)
      | w => if s.waitMet gid g b w then .over (s.endWait gid w) else .over s

/-- What a turn of group `gid` comes to. -/
def State.prepare (s : State) (gid : Nat) : Ready :=
  match s.group? gid with
  | none => .over s
  | some g =>
    if !s.partRuns g then .over s
    else
      match g.st with
      | .active => s.activeReady gid g
      | .waiting w => if !g.due.isEmpty && g.canTake then .over (s.deliver gid g) else s.waitReady gid g w
      | _ => .over s

/-- An uncorrectable error strikes a codeword (R371): what holds nothing there is not struck. A register's structure is where the
context lies (R372); a scalar, an address register and a predicate are struck in the Sapwood's slot only, since in the Heartwood they
belong to the context header (R315, R316, R373). The cells of a Lathe are its panels' columns, in Burl mode the clause counters (R274) and the input slots (R259). -/
def State.strike (s : State) : Struck → State
  | .memory k l2 => { s with badCw := s.badCw.filter (·.1 != k) ++ [(k, l2)] }
  | .register g l r =>
    s.updGroup g (fun x =>
      if r = 0 || x.st = .retired then x
      else
        let y := x.lane l
        let st := if x.inSapwood then 5 else 6
        { x with lanes := x.lanes.set l { y with badRegs := y.badRegs.filter (·.1 != r) ++ [(r, st)] } })
  | .scalar g r => s.updGroup g (fun x => if x.inSapwood then { x with badScal := x.badScal.filter (· != r) ++ [r] } else x)
  | .address g r => s.updGroup g (fun x => if x.inSapwood then { x with badAddr := x.badAddr.filter (· != r) ++ [r] } else x)
  | .pred g l p =>
    s.updGroup g (fun x =>
      if x.inSapwood && p != 0 then
        let y := x.lane l
        { x with lanes := x.lanes.set l { y with badPreds := y.badPreds.filter (· != p) ++ [p] } }
      else x)
  | .tile b h k =>
    s.updBlock b (fun r => { r with tiles := Table.upd r.tiles h (fun t =>
      if 16 * k < t.rows * t.rowBytes then { t with bad := t.bad.filter (· != k) ++ [k] } else t) })
  | .column q shadow j =>
    let hit (p : Panel) : Panel := { p with bad := p.bad.filter (· != j) ++ [j] }
    s.updQuad q (fun r =>
      let l := r.lathe
      { r with lathe := if l.burl then l else if shadow then { l with shadow := hit l.shadow } else { l with active := hit l.active } })
  | .cells q k =>
    s.updQuad q (fun r =>
      let l := r.lathe
      { r with lathe := if l.burl then { l with bad := l.bad.filter (· != k) ++ [k] } else l })
  | .slots q k =>
    s.updQuad q (fun r =>
      let l := r.lathe
      { r with lathe := if l.burl then { l with badSlots := l.badSlots.filter (· != k) ++ [k] } else l })

/-- An MCE_CONTEXT is reported (R373): DETAIL names the structure (R372, R406). -/
def State.contextError (s : State) (e : Event) (struct : Nat) : State :=
  (s.event { e with code := 0x281, detail := BitVec.ofNat 32 struct }).suspect e.part

/-- An uncorrectable error takes state that no instruction consumes (R373): its owner ends. A context header lies in the Sapwood or the
Heartwood (R316), an estate in the Heartwood (R327); the structure that names a Chuck's record is not stated, a free value (log entry
60). -/
def State.lose (s : State) : Lost → State
  | .header g =>
    match s.group? g with
    | none => s
    | some r =>
      match s.block? r.blk with
      | none => s
      | some b =>
        let e : Event := { code := 0x281, part := b.part, vf := b.vf, core := b.core, grp := r.grp, slot := r.slot, launch := b.launchId }
        if r.st = .retired then s else (s.contextError e (if r.inSapwood then 5 else 6)).terminateBlock r.blk g 0x281 0 0 0
  | .estate k =>
    match s.estates.find? (fun e => e.order == k) with
    | none => s
    | some e => if e.claimed then s else (s.contextError { code := 0x281, part := e.part, core := e.core } 6).discard e
  | .record n k =>
    match s.node? n with
    | none => s
    | some r =>
      match r.bin.find? (fun h => h.serial == k) with
      | none => s
      | some h =>
        let s := s.setNode n { r with bin := r.bin.filter (fun h => h.serial != k) }
        let (k, s) := s.takeFree 1
        let s := (s.deadRecord r.part h.r 0x281).contextError { code := 0x281, part := r.part } ((Config.freeWord k).toNat % 16)
        (s.reap n).finishRoot (h.batch.bind (·.root))

/-! ## A place for a first instruction -/

/-- Where the code of `loaded` stands, and the page of its tables (log entry 1). -/
def loadPc : Nat := 0x10000

/-- Entries of the page tables of `loaded`: level 4, level 3, and one leaf of 1 GiB with R, W and X at address 0 (R353, R354). -/
def loadTables : List Host.Cell :=
  cellsOf 0x1000 (bytesOfNat 8 0x2001) ++ cellsOf 0x2000 (bytesOfNat 8 0x3001) ++ cellsOf 0x3000 (bytesOfNat 8 0x3B)

/-- The machine with one group of 32 lanes about to issue at `loadPc` (log entry 1): FULL, partition 0 with the quads of die 0
and memory block 0, one block of one group born as R18 and R47 say. -/
def State.loaded (s : State) : State :=
  { s with
    mem := writeCells s.mem loadTables
    dev := { s.dev with life := .full, trained := true, pown := (List.range 10).map (fun q => (q, 0)), bmap := [(0, 0)] }
    parts := Table.put s.parts 0 { (s.part 0) with troot := 0x1000, tlb := [], st := .running }
    blocks := Table.put s.blocks 0 { part := 0, core := 0, launch := none, reserved := 6 }
    groups := Table.put s.groups 0 { blk := 0, occ := 0xFFFFFFFF, path := 0xFFFFFFFF, em := 0xFFFFFFFF, pc := BitVec.ofNat 64 loadPc
                                     lanes := (List.range 32).map (fun l => { wid := BitVec.ofNat 64 l, key := BitVec.ofNat 64 l }) }
    agenda := [], cur := 0 }

/-- System address of the word that the next step fetches, when that is plain: an active group's, with nothing before its issue. -/
def State.fetchAt (s : State) : Option Nat :=
  match s.agenda, s.group? s.cur with
  | [], some g =>
    if g.st = .active && s.partRuns g && g.due.isEmpty && !g.yielded && g.cur.isNone && !s.quantumUsed g &&
        decide (g.fair < Config.fairness) then
      match s.walk (match s.block? g.blk with | some b => b.part | none => 0) g.pc with
      | .page pg => if pg.x then some (pg.at g.pc) else none
      | .stop .. => none
    else none
  | _, _ => none

end Sys2Proof.Machine
end

