-- ==== Sys2Proof/Machine/Spawn.lean ====
section
/-! DEFINITION. Node instructions (R285 to R288), SPAWN (R289 to R292), join counters (R294, R295), wills (R297 to R299), the graph
condition (R305). -/

namespace Sys2Proof.Machine

/-! ## Nodes -/

/-- A field of a node descriptor: the number in `n` bytes at offset `o` (R77). -/
def descField (bs : List Byte) (o n : Nat) : Nat := natOfBytes ((bs.drop o).take n)

/-- The entry PC of a node descriptor at address `a` (R77, R285). -/
def descEntry (bs : List Byte) (a : W64) : W64 := a + BitVec.ofNat 64 (descField bs 0 8)

/-- The checks of a node descriptor, by ascending offset (R285): the offset of the first field that fails. -/
def descFails (bs : List Byte) (a : W64) : Option Nat :=
  let f := descField bs
  let flags := f 0x0A 1
  let checks : List (Nat × Bool) :=
    [(0x00, canonical (descEntry bs a) && decide ((descEntry bs a).toNat % 8 = 0)),
     (0x08, decide (4 ≤ f 0x08 1) && decide (f 0x08 1 ≤ 32)),
     (0x09, decide (1 ≤ f 0x09 1) && decide (f 0x09 1 ≤ 32)),
     (0x0A, decide (flags < 4)),
     (0x0B, decide (f 0x0B 1 ≤ 4)),
     (0x0C, !flags.testBit 1 || decide (f 0x0C 1 < f 0x0B 1)),
     (0x0D, f 0x0D 1 == 0),
     (0x0E, (List.range 4).all (fun i => decide (f 0x0E 2 / 16^i % 16 < 15))),
     (0x12, f 0x12 2 == 0),
     (0x18, f 0x18 8 % 64 == 0),
     (0x20, f 0x20 8 % 64 == 0),
     (0x3C, f 0x3C 4 == 0)]
  (checks.find? (fun c => !c.2)).map (·.1)

/-- A free index of the node table, a free choice (R285; log entry 11): from some number on, the next that no node takes. -/
def State.freeIndex (s : State) : State × Option Nat :=
  let (k, s) := s.takeFree 1
  if Config.nodeIndices ≤ s.nodes.length then (s, none)
  else
    (s, some (freeFrom (s.nodes.map (·.1)) Config.nodeIndices (Config.freePick k Config.nodeIndices % Config.nodeIndices)
      (s.nodes.length + 1)))

/-- Quads of a partition that can be home quads (R344, R403). -/
def homeQuads (d : Device) (p : Nat) : List Nat := (partQuads d p).filter (fun q => !(lentTo d p).contains q)

/-- The generation after `g` (R37). -/
def nextGen (g : Nat) : Nat := g % 4095 + 1

/-- The node that a checked descriptor makes (R38, R285). -/
def nodeOf (bs : List Byte) (a : W64) (p vf gen : Nat) (launchId : W32) (home : Nat) : Node :=
  let f := descField bs
  { part := p, vf := vf, gen := gen, live := true, launchId := launchId, entry := descEntry bs a, budget := f 0x08 1
    count := f 0x09 1, ordered := (f 0x0A 1).testBit 0, keyWord := if (f 0x0A 1).testBit 1 then some (f 0x0C 1) else none
    npay := f 0x0B 1, tags := (List.range 4).map (fun i => BitVec.ofNat 4 (f 0x0E 2 / 16^i)), timer := f 0x10 2
    timeout := f 0x14 4, ovfBase := BitVec.ofNat 64 (f 0x18 8), ovfSize := f 0x20 8, seed := BitVec.ofNat 64 (f 0x28 8)
    argBase := BitVec.ofNat 64 (f 0x30 8), argSize := f 0x38 4, homeQuad := home }

/-- Make a node in partition `p`: the state and its handle, 0 when there is no index for it (R285). -/
def State.makeNode (s : State) (bs : List Byte) (a : W64) (p vf : Nat) : State × W32 :=
  let held := (s.nodes.filter (fun n => n.2.part == p)).length
  if (s.part p).nodemax ≤ held then (s, 0)
  else
    match s.freeIndex with
    | (s, none) => (s, 0)
    | (s, some i) =>
      let gen := nextGen (Sparse.get 0 s.nodeGens i)
      let h : W32 := BitVec.ofNat 32 (4096 * i + gen)
      let qs := homeQuads s.dev p
      let home := qs.getD (Config.homeHash h % max 1 qs.length) 0
      let s := s.setNode i (nodeOf bs a p vf gen (s.launchName p) home)
      let s : State := { s with nodeGens := Sparse.set 0 s.nodeGens i gen }
      (s.updPart p (fun r => { r with nextLaunch := r.nextLaunch + 1 }), h)

/-- NODEMK (R285). -/
def bodyNodemk (f : FMg) (s : State) (g : Group) (_ : Lanes) : Res :=
  let va := groupAddr g f
  match s.checkGroup (s.partOf g) (g.areg f.ar.toNat) va 64 .load with
  | .error t => .trap s t
  | .ok a =>
    if s.busy g va 64 false then .stall
    else if s.isBad a 64 then .trap s { code := 0x280, eaddr := va, einfo := some (BitVec.ofNat 64 (s.structOf a 64)) }
    else
      let bs := readBytes (s.view g) a 64
      match descFails bs va with
      | some o => .trap s { code := 0x184, einfo := some (BitVec.ofNat 64 o) }
      | none =>
        let (s, h) := s.makeNode bs va (s.partOf g) (s.blockOf g).vf
        .done (s.setGroup s.cur (g.setS f.r.toNat h))

def execNodemk (f : FMg) (s : State) : Host.Outcome State Fault Refusal := run (.nodemk f) (bodyNodemk f) s

/-- NODE_STALE for a handle (R287, R290). -/
def nodeStale (h : W32) (m : Option Lanes) : Trap := { code := 0x181, mask := m, einfo := some (h.zeroExtend 64) }

/-- NODEDEL (R287): remote records that wait for room are not accepted yet and go to the dead-record area (R293). -/
def bodyNodedel (f : FS) (s : State) (g : Group) (_ : Lanes) : Res :=
  let h := g.sreg f.ra.toNat
  match s.liveNode (s.partOf g) h with
  | none => .trap s (nodeStale h none)
  | some n =>
    let s := n.remote.foldl (fun s r => s.deadRecord n.part r 0x181) s
    let s := s.updNode (nodeIndex h) (fun n => { n with live := false, remote := [] })
    .done (s.reap (nodeIndex h))

def execNodedel (f : FS) (s : State) : Host.Outcome State Fault Refusal := run (.nodedel f) (bodyNodedel f) s

/-- NODEQ (R288): a stale handle gives 0; in Solstice mode the values of the last quantum end. -/
def bodyNodeq (f : FS) (s : State) (g : Group) (_ : Lanes) : Res :=
  let h := g.sreg f.ra.toNat
  let b := s.blockOf g
  let now := if b.solstice then b.nodesSeen else s.nodesNow b.part
  let v := match Table.get? now h.toNat with | some vs => vs.getD f.num.toNat 0 | none => 0
  .done (s.setGroup s.cur (g.setS f.rd.toNat v))

def execNodeq (f : FS) (s : State) : Host.Outcome State Fault Refusal := run (.nodeq f) (bodyNodeq f) s

/-! ## SPAWN -/

/-- The record that a lane sends (R39, R289, R290): `k` payload words of vP, or zeros. -/
def laneRec (g : Group) (l : Nat) (f : FA) (o : Bool) (k : Nat) (join : Option W64) (fab : Bool) (q : Option Nat) (rank : Nat) : Rec :=
  let x := g.lane l
  { handle := (x.reg f.a.toNat).val
    payload := (List.range k).map (fun i =>
      if f.b = 0 then (0, tagRAW) else ((x.reg (f.b.toNat + i)).val, (x.reg (f.b.toNat + i)).tag))
    ordered := o, key := if o then (x.reg f.c.toNat).val else 0, join := join, origin := x.wid, quantum := q, rank := rank
    fab := fab, nth := 0 }

/-- The counter that a SPAWN names, 0 being none (R39, R289; log entry 39), or ALIGN. -/
def spawnJoin (g : Group) (act : Lanes) (aj : BitVec 3) (j : Bool) : Except Trap (Option W64) :=
  let base := (g.areg aj.toNat).base
  if !j || base = 0 then .ok none
  else if base.toNat % 8 ≠ 0 then .error { code := 0x041, mask := some act, eaddr := base, einfo := some (addrInfo 7 false 7) }
  else .ok (some base)

/-- Which check of R290 a record fails, if any: 1, 2 or 3. -/
def State.spawnFails (s : State) (p : Nat) (r : Rec) : Option Nat :=
  match s.liveNode p r.handle with
  | none => some 1
  | some n =>
    if n.ordered != r.ordered then some 2
    else if (r.payload.take n.npay).zipIdx.any (fun w => !(w.1.2 == tagRAW || w.1.2 == n.tags.getD w.2 0)) then some 3
    else none

/-- The earliest cause of R290 that a lane reached. -/
def State.spawnTrap (s : State) (p : Nat) (rs : List (Nat × Rec)) : Option Trap :=
  let fails := rs.filterMap (fun x => (s.spawnFails p x.2).map (fun k => (x.1, x.2.handle, k)))
  let at' (k : Nat) := fails.filter (fun x => x.2.2 == k)
  let mask (xs : List (Nat × W32 × Nat)) : Lanes := maskOf (fun l => xs.any (fun x => x.1 == l))
  match at' 1, at' 2, at' 3 with
  | x :: xs, _, _ => some (nodeStale x.2.1 (some (mask (x :: xs))))
  | [], _ :: _, _ => some { code := 0x184, einfo := some 0 }
  | [], [], x :: xs => some { code := 0x100, mask := some (mask (x :: xs)), einfo := none }
  | [], [], [] => none

/-- Records to offer: lane, node index, record with its node's payload words. -/
def State.offers (s : State) (rs : List (Nat × Rec)) (batch : Nat → Option Batch) : List (Nat × Nat × Held) :=
  rs.zipIdx.map (fun x =>
    let i := nodeIndex x.1.2.handle
    let k := match s.node? i with | some n => n.npay | none => 0
    (x.1.1, i, { r := { x.1.2 with payload := x.1.2.payload.take k }, serial := 0, batch := batch x.2 }))

/-- The records of a SPAWN in lane order. -/
def spawnRecs (s : State) (g : Group) (act : Lanes) (f : FA) (o remote : Bool) (join : Option W64) : List (Nat × Rec) :=
  let b := s.blockOf g
  let q := if b.solstice then some b.quantum else none
  let rank := match b.pgt with | some t => (s.moduleRank b.part t).getD 0 | none => 0
  (lanesOf act).map (fun l => (l, laneRec g l f o 4 join remote q (if remote then rank else 0)))

/-- A lane names a rank outside the process-group table (R291). -/
def State.badRank (s : State) (g : Group) (act : Lanes) (f : FA) : Bool :=
  let n := match s.pgtOf g with | some t => (s.tableRanks (s.partOf g) t).getD 0 | none => 0
  (lanesOf act).any (fun l => decide (n ≤ ((g.lane l).reg (f.a.toNat + 1)).val.toNat))

/-- The checks of a SPAWN, and its records (R289 to R291). -/
def State.spawnChecks (s : State) (g : Group) (act : Lanes) (f : FA) (o remote : Bool) (aj : BitVec 3) (j : Bool) :
    Except Trap (List (Nat × Rec)) :=
  match spawnJoin g act aj j with
  | .error t => .error t
  | .ok join =>
    let rs := spawnRecs s g act f o remote join
    if remote then (if s.badRank g act f then .error { code := 0x184, einfo := some 1 } else .ok rs)
    else
      match s.spawnTrap (s.partOf g) rs with
      | some t => .error t
      | none => .ok rs

/-- Lanes of a SPAWN.b whose records lack room now, by timeout: those that lack room, and whether one's timeout is 0 (R290). -/
def State.lacking (s : State) (rs : List (Nat × Rec)) : Lanes × Bool :=
  let lack := (s.offerAll (s.offers rs (fun _ => none))).2
  (lack, rs.any (fun x => lack.getLsbD x.1 && (match s.node? (nodeIndex x.2.handle) with | some n => n.timeout == 0 | none => false)))

/-- A local SPAWN outside Solstice mode, once its checks have passed (R290, R421). -/
def State.spawnNow (s : State) (g : Group) (act : Lanes) (pd : Option Nat) (rs : List (Nat × Rec)) : Res :=
  let xs := s.offers rs (fun _ => none)
  let (s', refused) := s.offerAll xs
  let finish (t : State) : Res := .done (t.runBins (xs.map (·.2.1)))
  match pd with
  | some p => finish (s'.updGroup s.cur (fun h => h.writeP act p (fun l _ => !refused.getLsbD l)))
  | none =>
    if refused = 0 then finish s'
    else if (s.lacking rs).2 then .trap s { code := 0x180, mask := some refused }
    else .wait (s.park s.cur g (.spawn []))

/-- A remote SPAWN outside Solstice mode (R291): the local port accepts each record or not, a free choice; with .b every one.
THAW leaves the port off: it accepts none, and a SPAWN.b stalls (R415). -/
def State.spawnAway (s : State) (g : Group) (act : Lanes) (pd : Option Nat) : Res :=
  let on := s.dev.life == .full
  match pd with
  | none => if on then .done s else .stall
  | some p =>
    let (k, s) := s.takeFree 32
    .done (s.setGroup s.cur (g.writeP act p (fun l _ => on && Config.freeBit (k + l))))

/-- SPAWN (R289 to R292). In Solstice mode the group waits; its hold and its reads count at its issue (R325). -/
def bodySpawn (f : FA) (b o remote : Bool) (aj : BitVec 3) (j : Bool) (s : State) (g : Group) (act : Lanes) : Res :=
  if act = 0 then .done s
  else
    match s.spawnChecks g act f o remote aj j with
    | .error t => .trap s t
    | .ok rs =>
      let pd := if b then none else some (f.d.toNat % 8)
      if s.isSolstice g.blk then
        let i : Instr := .spawn f b o remote aj j
        .wait (((s.stage s.cur (.spawn pd remote rs) []).updGroup s.cur (fun g => g.holds i)).park s.cur g (.spawn (released (useOf i))))
      else if remote then s.spawnAway g act pd
      else s.spawnNow g act pd rs

def execSpawn (f : FA) (b o remote : Bool) (aj : BitVec 3) (j : Bool) (s : State) : Host.Outcome State Fault Refusal :=
  run (.spawn f b o remote aj j) (bodySpawn f b o remote aj j) s

/-- The SPAWN.b that a waiting group stands at: its records (R290). -/
def State.spawnAt (s : State) (g : Group) : List (Nat × Rec) :=
  match s.fetch g with
  | .error _ => []
  | .ok w =>
    match decode w with
    | .ok (.spawn f _ o remote aj j) =>
      (match s.spawnChecks g (g.active f.g) f o remote aj j with | .ok rs => rs | .error _ => [])
    | _ => []

/-- The wait of a SPAWN ends with a cause: nothing of it is accepted, and it issues again after ERET (R290, R293). -/
def State.endSpawn (s : State) (gid : Nat) (g : Group) (t : Trap) : State :=
  ((s.updGroup gid (fun g => { g.wake s.ticks with past := g.quantumDone })).cancelWait gid g (.spawn [])).take gid t g.pc (t.einfo.getD 0)

/-- A SPAWN of Solstice mode whose commit has accepted nothing (R290, R293): a stale handle traps, and so does a node of timeout 0 that
lacks room; the others wait on. -/
def State.spawnStuck (s : State) (gid : Nat) (g : Group) (rs : List (Nat × Rec)) : State :=
  match s.spawnTrap (s.partOf g) rs with
  | some t => s.endSpawn gid g t
  | none => if (s.lacking rs).2 then s.endSpawn gid g { code := 0x180, mask := some (s.lacking rs).1 } else s

/-- SPAWN_BLOCKING_TIMEOUT (R290): a SPAWN.b that still lacks room traps with the lanes that lack it. In Solstice mode its records
are staged. -/
def execSpawnBlockingTimeout (gid : Nat) (s : State) : Host.Outcome State Fault Refusal :=
  match s.group? gid with
  | none => .next s
  | some g =>
    match g.st with
    | .waiting (.spawn _) =>
      let staged := g.staged.filterMap (fun x => match x with | .spawn none false rs => some rs | _ => none)
      let rs := if s.isSolstice g.blk then staged.flatten else s.spawnAt g
      let lack := (s.lacking rs).1
      .next (if lack = 0 || !s.partRuns g then s else s.endSpawn gid g { code := 0x180, mask := some lack })
    | _ => .next s

/-! ## Join counters -/

/-- A group-wide store of bytes (R294, R305). -/
def groupStore (f : FMg) (n : Nat) (bs : Group → List Byte) (s : State) (g : Group) (_ : Lanes) : Res :=
  let va := groupAddr g f
  match s.checkGroup (s.partOf g) (g.areg f.ar.toNat) va n .store with
  | .error t => .trap s t
  | .ok a =>
    if s.busy g va n true then .stall
    else if s.isBadPart a n then .trap s { code := 0x280, eaddr := va, einfo := some (BitVec.ofNat 64 (s.structOf a n)) }
    else .done (s.laneStores s.cur g [(0, a, bs g)] false)

/-- JINIT (R294). -/
def execJinit (f : FMg) (s : State) : Host.Outcome State Fault Refusal :=
  run (.jinit f) (groupStore f 8 (fun g => bytesOfNat 8 (g.sreg f.r.toNat).toNat)) s

/-- GCOND (R305). -/
def execGcond (f : FMg) (s : State) : Host.Outcome State Fault Refusal :=
  run (.gcond f) (groupStore f 4 (fun g => bytesOfNat 4 (g.sreg f.r.toNat).toNat)) s

/-- JWAIT (R295): in Solstice mode the counter is read at quantum ends only. The context waits in the Heartwood, where it goes once no
estate fetch of the group is in flight (R45, R319). -/
def bodyJwait (f : FMg) (s : State) (g : Group) (_ : Lanes) : Res :=
  let va := groupAddr g f
  let sol := s.isSolstice g.blk
  let s' := s.park s.cur g (.jwait va f.ar.toNat)
  match s.readCounter g (g.areg f.ar.toNat) va with
  | .fault t => .trap s t
  | .stall => .stall
  | .value v => if !sol && v == 0 then .done s else .wait (if fetchesLanded g then s'.toHeart s.cur sol else s')

def execJwait (f : FMg) (s : State) : Host.Outcome State Fault Refusal := run (.jwait f) (bodyJwait f) s

/-! ## Wills -/

/-- ESTW (R297, R31). -/
def bodyEstw (f : FS) (tagHi : BitVec 4) (s : State) (g : Group) (act : Lanes) : Res :=
  let tag : BitVec 16 := tagHi ++ f.num
  if act = 0 then .done s
  else if !(s.blockOf g).willTags.contains tag then .trap s { code := 0x185, einfo := some (tag.zeroExtend 64) }
  else
    let w : Will := { tag := tag, life := f.rd.toNat / 16, first := f.ra.toNat, count := f.rd.toNat % 16 + 1 }
    .done (s.setGroup s.cur (g.mapLanes act (fun _ x => { x with will := some w })))

def execEstw (f : FS) (tagHi : BitVec 4) (s : State) : Host.Outcome State Fault Refusal :=
  run (.estw f tagHi) (bodyEstw f tagHi) s

/-- ESTF (R298). -/
def execEstf (f : FS) (s : State) : Host.Outcome State Fault Refusal :=
  runG (.estf f) (fun g act => g.mapLanes act (fun _ x => { x with will := none })) s

/-- ESTQ (R299). -/
def execEstq (f : FA) (n : BitVec 3) (s : State) : Host.Outcome State Fault Refusal :=
  runG (.estq f n) (fun g act => g.writeV act f.d.toNat (fun _ x => ⟨Sparse.get 0 x.estq n.toNat, tagN32⟩)) s

end Sys2Proof.Machine
end

