-- ==== Sys2Proof/Machine/Packets.lean ====
section
/-! DEFINITION. What the launch path checks: packets (R335, R336), kernel descriptors (R81), graph descriptors (R338),
process-group tables (R352), regions of memory. -/

namespace Sys2Proof.Machine

/-! ## Reading -/

/-- Read bytes of partition `p` from a virtual address upward, page by page, at most `k` pages; none: no translation, or no read
permission. -/
def State.virtBytes (s : State) (p : Nat) : Nat → W64 → Nat → Option (List Byte)
  | 0, _, n => if n = 0 then some [] else none
  | k + 1, va, n =>
    if n = 0 then some []
    else
      match s.walk p va with
      | .page pg =>
        if !pg.r || !canonical va then none
        else
          let m := min n (pg.bytes - va.toNat % pg.bytes)
          (s.virtBytes p k (va + BitVec.ofNat 64 m) (n - m)).map (readBytes s.mem (pg.at va) m ++ ·)
      | .stop .. => none

/-- Every page of a range has a translation with the permission asked for; at most `k` pages. -/
def State.rangeOk (s : State) (p : Nat) (write : Bool) : Nat → W64 → Nat → Bool
  | 0, _, n => n == 0
  | k + 1, va, n =>
    n == 0 ||
      (match s.walk p va with
       | .page pg =>
         let m := min n (pg.bytes - va.toNat % pg.bytes)
         canonical va && (if write then pg.w else pg.r) && s.rangeOk p write k (va + BitVec.ofNat 64 m) (n - m)
       | .stop .. => false)

/-- The same, with as many pages as a range of `n` bytes can touch. -/
def State.regionOk (s : State) (p : Nat) (va : W64) (n : Nat) (write : Bool) : Bool := s.rangeOk p write (n / 65536 + 2) va n

/-- The offset of the first check that fails. -/
def firstBad (cs : List (Nat × Bool)) : Option Nat := (cs.find? (fun c => !c.2)).map (·.1)

/-! ## Packets -/

/-- KIND and the FLAGS of a packet (R335). -/
def pktKind (bs : List Byte) : Nat := descField bs 0 1
def pktFlag (bs : List Byte) (i : Nat) : Bool := (descField bs 1 1).testBit i
def pktOverlap (bs : List Byte) : Bool := pktFlag bs 0
def pktSolstice (bs : List Byte) : Bool := pktFlag bs 1
def pktRepl (bs : List Byte) : Bool := pktFlag bs 2
def pktPgt (bs : List Byte) : Bool := pktFlag bs 3
def pktShard (bs : List Byte) : Bool := pktFlag bs 5

/-- An address field of a packet. -/
def pktAddr (bs : List Byte) (o : Nat) : W64 := BitVec.ofNat 64 (descField bs o 8)
def pktDesc (bs : List Byte) : W64 := pktAddr bs 0x08
def pktCompl (bs : List Byte) : W64 := pktAddr bs 0x40
def pktPgtBase (bs : List Byte) : W64 := pktAddr bs 0x50

/-- Step 1 of R336: the fields in ascending offset order. A marker has only KIND, FLAGS bit 0 and COMPL nonzero; REPL and SHARD
require PGT (R335, R351). -/
def packetChecks (bs : List Byte) : List (Nat × Bool) :=
  let f := descField bs
  let plain (o n : Nat) (ok : Bool) : Nat × Bool := (o, if pktKind bs = 3 then f o n == 0 else ok)
  let q := f 4 4
  [(0x00, decide (1 ≤ pktKind bs) && decide (pktKind bs ≤ 3)),
   (0x01, if pktKind bs = 3 then decide (f 1 1 < 2)
     else decide (f 1 1 < 64) && (!pktRepl bs || pktPgt bs) && (!pktShard bs || pktPgt bs)),
   plain 0x02 1 true,
   (0x03, f 3 1 == 0),
   plain 0x04 4 (q == 0 || (decide (512 ≤ q) && decide (q ≤ 65536))),
   plain 0x08 8 true,
   (0x1A, f 0x1A 2 == 0),
   plain 0x1C 4 (f 0x1C 4 % 4 == 0 && decide (f 0x1C 4 ≤ 4096)),
   plain 0x20 8 (f 0x20 8 % 64 == 0),
   plain 0x28 8 true,
   plain 0x30 8 (f 0x30 8 % 128 == 0),
   plain 0x38 8 (f 0x38 8 % 128 == 0),
   (0x40, f 0x40 8 % 64 == 0),
   plain 0x48 4 true,
   plain 0x4C 2 (if pktRepl bs then decide (2 ≤ f 0x4C 2) && decide (f 0x4C 2 ≤ 256) else f 0x4C 2 == 0),
   plain 0x4E 2 true,
   plain 0x50 8 true,
   (0x58, f 0x58 40 == 0)]

/-! ## Kernel descriptors -/

/-- A PC of a descriptor: its own address plus a signed offset (R81). -/
def descPc (bs : List Byte) (a : W64) (o : Nat) : W64 := a + BitVec.ofNat 64 (descField bs o 8)
def goodPc (v : W64) : Bool := canonical v && decide (v.toNat % 8 = 0)

/-- The group counts of the roles 0 to `i`. -/
def roleSum (bs : List Byte) (i : Nat) : Nat := (List.range (i + 1)).foldl (fun acc j => acc + descField bs (0x49 + 16 * j) 1) 0

/-- The checks of the ROLES entry `i` (R81); beyond NROLES the whole entry is the field (log entry 62). -/
def roleChecks (bs : List Byte) (a : W64) (i : Nat) : List (Nat × Bool) :=
  let f := descField bs
  let o := 0x40 + 16 * i
  if i < f 6 1 then
    [(o, goodPc (descPc bs a o)), (o + 8, decide (4 ≤ f (o + 8) 1) && decide (f (o + 8) 1 ≤ 32)),
     (o + 9, decide (1 ≤ f (o + 9) 1) && decide (f (o + 9) 1 ≤ 32) && decide (roleSum bs i ≤ 32)), (o + 10, f (o + 10) 6 == 0)]
  else [(o, f o 16 == 0)]

/-- The checks of the WILLS entry `i` (R81): the entry is the field (log entry 62). -/
def willCheck (bs : List Byte) (i : Nat) : Nat × Bool :=
  let f := descField bs
  let o := 0xC0 + 4 * i
  let life := f (o + 2) 1
  (o, f (o + 3) 1 == 0 && (if f o 2 = 0 then life == 0 else decide (1 ≤ life) && decide (life ≤ 15)))

/-- The checks of a kernel descriptor at address `a`, in ascending offset order (R81). -/
def kernelChecks (bs : List Byte) (a : W64) : List (Nat × Bool) :=
  let f := descField bs
  let nr := f 6 1
  [(0x00, f 0 4 == 0x4C57465A), (0x04, f 4 2 == 1), (0x06, decide (nr ≤ 8)),
   (0x07, decide (1 ≤ f 7 1) && decide (f 7 1 ≤ 16) && decide (nr ≤ f 7 1)),
   (0x08, if nr = 0 then goodPc (descPc bs a 8) else f 8 8 == 0),
   (0x10, if nr = 0 then decide (4 ≤ f 0x10 1) && decide (f 0x10 1 ≤ 32) else f 0x10 1 == 0),
   (0x11, decide (f 0x11 1 < 4) && ((f 0x11 1).testBit 1 == decide (nr ≠ 0))),
   (0x12, f 0x12 6 == 0)] ++
  (List.range 8).flatMap (roleChecks bs a) ++ (List.range 8).map (willCheck bs) ++ [(0xF0, f 0xF0 16 == 0)]

/-- The roles of a launch of work-items `w` a block (R16, R81). -/
def descRoles (bs : List Byte) (a : W64) (w : Nat) : List Role :=
  let f := descField bs
  if f 6 1 = 0 then [{ entry := descPc bs a 8, budget := f 0x10 1, groups := groupsFor w }]
  else (List.range (f 6 1)).map (fun i =>
    let o := 0x40 + 16 * i
    { entry := descPc bs a o, budget := f (o + 8) 1, groups := f (o + 9) 1 })

/-! ## Process-group tables -/

/-- The header of a table (R352). -/
def pgtHeaderOk (bs : List Byte) (t : W64) : Bool :=
  let f := descField bs
  t.toNat % 64 == 0 && f 0 4 == 0x47504C5A && f 4 2 == 1 && decide (1 ≤ f 6 2) && decide (f 6 2 ≤ 1024) && decide (1 ≤ f 8 4) &&
    decide (f 8 4 ≤ 4096) && f 0xC 4 == 0 && f 0x20 32 == 0

/-- The entries of a table as bytes: ranks, communicators; none: some page cannot be read. -/
def State.pgtArrays (s : State) (p : Nat) (t : W64) (hd : List Byte) : Option (List Byte × List Byte) :=
  let f := descField hd
  match s.virtBytes p 4 (t + BitVec.ofNat 64 (f 0x10 8)) (8 * f 8 4), s.virtBytes p 4 (t + BitVec.ofNat 64 (f 0x18 8)) (16 * f 6 2) with
  | some r, some c => some (r, c)
  | _, _ => none

/-- The rank list of the communicator entry `i`; none: some page cannot be read. -/
def State.pgtList (s : State) (p : Nat) (t : W64) (cs : List Byte) (i : Nat) : Option (List Nat) :=
  let n := min (descField cs (16 * i + 8) 4) 4096
  (s.virtBytes p 4 (t + BitVec.ofNat 64 (descField cs (16 * i) 8)) (2 * n)).map (fun bs =>
    (List.range n).map (fun k => descField bs (2 * k) 2))

/-- A table can be read (step 6 of R336): 1 it can and it is as R352 says, 0 it can and it is not, none it cannot. -/
def State.pgtCheck (s : State) (p : Nat) (t : W64) : Option Bool :=
  match s.virtBytes p 2 t 64 with
  | none => none
  | some hd =>
    if !pgtHeaderOk hd t then some false
    else
      match s.pgtArrays p t hd with
      | none => none
      | some (rs, cs) =>
        let nr := descField hd 8 4
        match (List.range (descField hd 6 2)).mapM (fun i => s.pgtList p t cs i) with
        | none => none
        | some ls =>
          let ranksOk := (List.range nr).all (fun i => descField rs (8 * i + 4) 4 == 0)
          let commOk (i : Nat) : Bool :=
            descField cs (16 * i + 12) 4 == 0 && decide (1 ≤ descField cs (16 * i + 8) 4) && decide (descField cs (16 * i + 8) 4 ≤ nr)
          let listOk (l : List Nat) : Bool := l.all (fun x => decide (x < nr)) && decide l.Nodup
          some (ranksOk && (List.range (descField hd 6 2)).all commOk && ls.all listOk && (s.moduleRank p t).isSome)

/-! ## Graph descriptors -/

/-- What the check of a graph comes to: an address that cannot be read (and whether for want of permission), a codeword in error,
the offset of the first failing field, or the number of nodes. -/
inductive GraphCheck where
  | fault (va : W64) (perm : Bool)
  | bad (k : Nat)
  | invalid (off : Nat)
  | good (nodes : Nat)
  deriving DecidableEq, Repr

/-- The bytes of one node of a graph, or the header, within one page. -/
inductive GraphBytes where
  | fault (va : W64) (perm : Bool)
  | bad (k : Nat)
  | bytes (bs : List Byte)

/-- Read `n` bytes of a graph that lie in one page; `m` is memory, or the view of a GLAUNCH card (R385). -/
def State.graphBytes (s : State) (m : List Host.Cell) (p : Nat) (va : W64) (n : Nat) : GraphBytes :=
  match s.checkAddr p va 1 .load with
  | .error e => .fault va (e.rank == 3)
  | .ok a => if s.isBad a n then .bad (s.structOf a n) else .bytes (readBytes m a n)

/-- The checks of a graph's header (R338). -/
def graphHeader (bs : List Byte) : List (Nat × Bool) :=
  let f := descField bs
  [(0x00, f 0 4 == 0x48505347), (0x04, f 4 2 == 1), (0x06, decide (1 ≤ f 6 2)), (0x08, decide (f 8 2 < f 6 2)), (0x0A, f 0xA 6 == 0),
   (0x10, f 0x10 8 % 8 == 0), (0x18, f 0x18 40 == 0)]

/-- The checks of a node before its packet's, and after, as offsets within it (R338). -/
def nodeChecks (bs : List Byte) (nodes : Nat) : List (Nat × Bool) :=
  let f := descField bs
  let kind := f 0 1
  let cond := kind == 2 || kind == 3
  [(0x00, decide (1 ≤ kind) && decide (kind ≤ 4)), (0x01, if kind = 1 then decide (f 1 1 < 2) else f 1 1 == 0), (0x02, f 2 2 == 0),
   (0x04, kind == 4 || decide (f 4 4 < nodes)), (0x08, !cond || decide (f 8 4 < nodes)), (0x10, !cond || f 0x10 8 % 4 == 0)]
def nodeTail (bs : List Byte) : List (Nat × Bool) := [(0x18, descField bs 0x18 8 == 0)]

/-- A kernel node's packet is one that a graph may name (R338). -/
def graphPacket (bs : List Byte) : Bool := pktKind bs == 1 && !pktRepl bs && !pktPgt bs

/-- Address of node `i` of the graph at `a`. -/
def graphNode (a : W64) (i : Nat) : W64 := a + BitVec.ofNat 64 (64 + 32 * i)

/-- The check of node `i`: none: it is valid. -/
def State.checkNode (s : State) (m : List Host.Cell) (p : Nat) (a : W64) (nodes i : Nat) : Option GraphCheck :=
  let o := 64 + 32 * i
  match s.graphBytes m p (graphNode a i) 32 with
  | .fault va pm => some (.fault va pm)
  | .bad k => some (.bad k)
  | .bytes bs =>
    match firstBad (nodeChecks bs nodes) with
    | some k => some (.invalid (o + k))
    | none =>
      let rest := (firstBad (nodeTail bs)).map (fun k => GraphCheck.invalid (o + k))
      if descField bs 0 1 ≠ 1 then rest
      else
        match s.graphBytes m p (pktAddr bs 0x10) 2 with
        | .fault va pm => some (.fault va pm)
        | .bad k => some (.bad k)
        | .bytes pk => if graphPacket pk then rest else some (.invalid (o + 0x10))

/-- The check of a graph descriptor (R338): one that is not 256-byte aligned fails at offset 0 (log entry 99). -/
def State.checkGraph (s : State) (m : List Host.Cell) (p : Nat) (a : W64) : GraphCheck :=
  if a.toNat % 256 ≠ 0 then .invalid 0
  else
  match s.graphBytes m p a 64 with
  | .fault va pm => .fault va pm
  | .bad k => .bad k
  | .bytes bs =>
    match firstBad (graphHeader bs) with
    | some k => .invalid k
    | none =>
      let n := descField bs 6 2
      match (List.range n).findSome? (s.checkNode m p a n) with
      | some r => r
      | none => .good n

/-! ## The steps of R336 -/

/-- What the check of a packet comes to. -/
inductive Verdict where
  | pass
  /-- a completion record with STATUS and FIELD -/
  | refuse (status field : Nat)
  /-- no completion record can be written (step 2; R434) -/
  | mute
  deriving DecidableEq, Repr

/-- GEN of a replicated launch exceeds the last one of the stream (R351). -/
def genExceeds (last : Option W32) (gen : W32) : Bool :=
  match last with
  | none => true
  | some l => decide (1 ≤ (gen - l).toNat) && decide ((gen - l).toNat < 2^31)

/-- Step 5: the shape (R14); W is ignored for a gang. -/
def shapeOk (bs kd : List Byte) : Bool :=
  let f := descField bs
  decide (1 ≤ f 0x10 4) && decide (1 ≤ f 0x14 2) && decide (1 ≤ f 0x16 2) &&
    (decide (descField kd 6 1 ≠ 0) || (decide (1 ≤ f 0x18 2) && decide (f 0x18 2 ≤ 1024)))

/-- Steps 6 to 8 (R336): the regions, the process-group table, the start barrier. -/
def State.lateChecks (s : State) (p v n : Nat) (bs : List Byte) : Verdict :=
  let f := descField bs
  let args := s.regionOk p (pktAddr bs 0x20) (f 0x1C 4) false
  let spill := s.regionOk p (pktAddr bs 0x30) (f 0x38 8) true
  let pgt : Option Bool := if pktPgt bs then s.pgtCheck p (pktPgtBase bs) else some true
  if !args || !spill then .refuse 4 0
  else
    match pgt with
    | none => .refuse 4 0
    | some false => .refuse 7 0
    | some true =>
      if pktRepl bs && !genExceeds (s.stream v n).lastGen (BitVec.ofNat 32 (f 0x48 4)) then .refuse 6 0 else .pass

/-- The steps of R336 for a packet of stream `n` of VF `v` in partition `p`, in order. -/
def State.checkPacket (s : State) (p v n : Nat) (bs : List Byte) : Verdict :=
  match firstBad (packetChecks bs) with
  | some o => .refuse 1 o
  | none =>
    if !s.regionOk p (pktCompl bs) 64 true then .mute
    else if pktKind bs = 3 then .pass
    else
      match s.checkAddr p (pktDesc bs) 1 .load with
      | .error _ => .refuse 4 0
      | .ok _ =>
        if pktKind bs = 2 then
          match s.checkGraph s.mem p (pktDesc bs) with
          | .fault .. | .bad _ => .refuse 4 0
          | .invalid o => .refuse 8 o
          | .good _ => s.lateChecks p v n bs
        else
          match s.virtBytes p 2 (pktDesc bs) 256 with
          | none => .refuse 4 0
          | some kd =>
            match firstBad (kernelChecks kd (pktDesc bs)) with
            | some o => .refuse 2 o
            | none => if !shapeOk bs kd then .refuse 3 0 else s.lateChecks p v n bs

end Sys2Proof.Machine
end

