-- ==== Sys2Proof/Machine/Memory.lean ====
section
/-! DEFINITION. Loads, stores, atomics, reservations and fences (R233 to R242, R162, R163), in Solstice mode too (R381, R386). -/

namespace Sys2Proof.Machine

/-! ## LD and ST -/

/-- The landings of a load in a lane at system address `a` (R234, R236). -/
def loadLands (m : List Host.Cell) (f : FMg) (k : LdKind) (l a : Nat) : List Landing :=
  let n := szBytes f.sz
  match k with
  | .pred => [.pred l f.r.toNat (readByte m a != 0)]
  | .reg x tag =>
    if n < 4 then [.vec l f.r.toNat ⟨extendTo n x (readNat m a n), tag⟩]
    else (regsOfBytes tag (readBytes m a n) (n / 4)).mapIdx (fun i r => .vec l (f.r.toNat + i) r)

/-- LD and LD.p (R234, R236, R237). A prefetch (R19) changes nothing, and counts the translation or protection fault that it
suppresses. -/
def bodyLd (f : FMg) (k : LdKind) (s : State) (g : Group) (act : Lanes) : Res :=
  if isPrefetch f then
    match s.access g act f (szBytes f.sz) .load with
    | .error t => .done (if t.code = 0x041 then s else { s with prefetchFaults := s.prefetchFaults + 1 })
    | .ok _ => .done s
  else
    let n := szBytes f.sz
    match s.access g act f n .load with
    | .error t => .trap s t
    | .ok xs =>
      if s.anyBusy g xs n false then .stall
      else .late s (xs.flatMap (fun x => loadLands (s.view g) f k x.1 x.2.2)) (s.badLanes xs n)

def execLd (f : FMg) (k : LdKind) (s : State) : Host.Outcome State Fault Refusal := run (.ld f k) (bodyLd f k) s

/-- The bytes that a store writes from a lane (R235, R236). -/
def storeBytes (f : FMg) (k : StKind) (x : Lane) : List Byte :=
  match k with
  | .pred => [if x.pred f.r.toNat then 1 else 0]
  | .reg _ => (regBytes x f.r.toNat (szRegs f.sz)).take (szBytes f.sz)

/-- ST and ST.p (R235, R236). -/
def bodySt (f : FMg) (k : StKind) (s : State) (g : Group) (act : Lanes) : Res :=
  let n := szBytes f.sz
  match s.access g act f n .store with
  | .error t => .trap s t
  | .ok xs =>
    if s.anyBusy g xs n true then .stall
    else
      match s.badTrap xs n true with
      | some t => .trap s t
      | none => .done (s.laneStores s.cur g (xs.map (fun x => (x.1, x.2.2, storeBytes f k (g.lane x.1)))) true)

def execSt (f : FMg) (k : StKind) (s : State) : Host.Outcome State Fault Refusal := run (.st f k) (bodySt f k) s

/-! ## ATOM and CAS -/

/-- The number that the registers from `r` on hold, `n` bytes of it. -/
def regNat (x : Lane) (r n : Nat) : Nat := natOfBytes (regBytes x r (n / 4))

/-- Landings of an `n`-byte old value (R238, R239). -/
def oldLands (tag : BitVec 4) (f : FMg) (n l v : Nat) : List Landing :=
  (regsOfBytes tag (bytesOfNat n v) (n / 4)).mapIdx (fun i r => .vec l (f.r.toNat + i) r)

/-- The tag of an ATOM's old value (R238). -/
def atomTag (op : AtomOp) (u : Bool) (n : Nat) : BitVec 4 :=
  match op with
  | .add | .min | .max => if n = 8 then tagI64 else if u then tagN32 else tagI32
  | _ => tagRAW

/-- One read-modify-write after another on memory: a lane's old value and what it writes, if anything; lanes in error do not
take part. -/
def rmwAll (gid n : Nat) (new : Nat → Nat → Option Nat) (tag : BitVec 4) (f : FMg) (acc : State × List Landing)
    (x : Nat × W64 × Nat) : State × List Landing :=
  if acc.1.isBad x.2.2 n then acc
  else
    let old := readNat acc.1.mem x.2.2 n
    let s := match new x.1 old with | some v => acc.1.store x.2.2 (bytesOfNat n v) (some (gid, x.1)) | none => acc.1
    (s, acc.2 ++ oldLands tag f n x.1 old)

/-- What an ATOM does once its addresses are checked (R238, R386). Without an active lane nothing is staged (R12). -/
def atomRes (f : FMg) (op : AtomOp) (u nr : Bool) (s : State) (g : Group) (xs : List (Nat × W64 × Nat)) : Res :=
  let n := szBytes f.sz
  let v (l : Nat) := regNat (g.lane l) f.r.toNat n
  let bad := s.badLanes xs n
  if s.isSolstice g.blk && !xs.isEmpty then
    let good := xs.filter (fun x => !s.isBad x.2.2 n)
    let s' := s.stage s.cur (.rmw op u nr n f.scope.toNat f.r.toNat (good.map (fun x => (x.1, x.2.2, v x.1))))
      (good.map (fun x => (some x.1, x.2.2, n)))
    if nr then .done s'
    else if bad.isSome then .late s' [] bad
    else if 3 ≤ f.scope.toNat then .lateEnd (s'.updGroup s.cur (fun g => { g with quantumDone := true }))
    else .lateEnd s'
  else
    let r := xs.foldl (rmwAll s.cur n (fun l old => some (atomApply op u n old (v l))) (atomTag op u n) f) (s, [])
    if nr then .done r.1 else .late r.1 r.2 bad

/-- ATOM (R238). -/
def bodyAtom (f : FMg) (op : AtomOp) (u nr : Bool) (s : State) (g : Group) (act : Lanes) : Res :=
  let n := szBytes f.sz
  match s.access g act f n .rmw with
  | .error t => .trap s t
  | .ok xs =>
    if s.anyBusy g xs n true then .stall
    else
      match (if nr then s.badTrap xs n false else none) with
      | some t => .trap s t
      | none => atomRes f op u nr s g xs

def execAtom (f : FMg) (op : AtomOp) (u nr : Bool) (s : State) : Host.Outcome State Fault Refusal :=
  run (.atom f op u nr) (bodyAtom f op u nr) s

/-- What a CAS does once its addresses are checked (R239, R386). Without an active lane nothing is staged (R12). -/
def casRes (f : FMg) (s : State) (g : Group) (xs : List (Nat × W64 × Nat)) : Res :=
  let n := szBytes f.sz
  let cmp (l : Nat) := regNat (g.lane l) f.r.toNat n
  let new (l : Nat) := regNat (g.lane l) (f.r.toNat + n / 4) n
  let bad := s.badLanes xs n
  if s.isSolstice g.blk && !xs.isEmpty then
    let good := xs.filter (fun x => !s.isBad x.2.2 n)
    let s' := s.stage s.cur (.cas n f.scope.toNat f.r.toNat (good.map (fun x => (x.1, x.2.2, cmp x.1, new x.1))))
      (good.map (fun x => (some x.1, x.2.2, n)))
    if bad.isSome then .late s' [] bad
    else if 3 ≤ f.scope.toNat then .lateEnd (s'.updGroup s.cur (fun g => { g with quantumDone := true }))
    else .lateEnd s'
  else
    let r := xs.foldl (rmwAll s.cur n (fun l old => if old = cmp l then some (new l) else none) tagRAW f) (s, [])
    .late r.1 r.2 bad

/-- CAS (R239). -/
def bodyCas (f : FMg) (s : State) (g : Group) (act : Lanes) : Res :=
  let n := szBytes f.sz
  match s.access g act f n .rmw with
  | .error t => .trap s t
  | .ok xs => if s.anyBusy g xs n true then .stall else casRes f s g xs

def execCas (f : FMg) (s : State) : Host.Outcome State Fault Refusal := run (.cas f) (bodyCas f) s

/-! ## LL and SC -/

/-- LL (R240): a load, and the reservation of each lane (R162). -/
def bodyLl (f : FMg) (tag : BitVec 4) (s : State) (g : Group) (act : Lanes) : Res :=
  let n := szBytes f.sz
  match s.access g act f n .rmw with
  | .error t => .trap s t
  | .ok xs =>
    if s.anyBusy g xs n false then .stall
    else
      let at' (l : Nat) : Option Nat := (xs.find? (fun x => x.1 == l)).map (fun x => granule x.2.2)
      let g' := g.mapLanes act (fun l x => { x with resv := at' l })
      .late (s.setGroup s.cur g') (xs.flatMap (fun x => loadLands (s.view g) f (.reg false tag) x.1 x.2.2)) (s.badLanes xs n)

def execLl (f : FMg) (tag : BitVec 4) (s : State) : Host.Outcome State Fault Refusal := run (.ll f tag) (bodyLl f tag) s

/-- Lane `l` of an SC may succeed (R163): it holds a reservation on the granule of its address, and no higher active lane holds
one on that granule (log entry 26). -/
def scMay (g : Group) (xs : List (Nat × W64 × Nat)) (x : Nat × W64 × Nat) : Bool :=
  (g.lane x.1).resv == some (granule x.2.2) &&
    !xs.any (fun y => decide (x.1 < y.1) && (g.lane y.1).resv == some (granule x.2.2))

/-- What an SC does once its addresses are checked (R163, R241, R386). Without an active lane nothing is staged (R12). -/
def scRes (f : FMg) (pd : Nat) (s : State) (g : Group) (act : Lanes) (xs win : List (Nat × W64 × Nat)) : Res :=
  let bytes (l : Nat) := regBytes (g.lane l) f.r.toNat (szRegs f.sz)
  let won (l : Nat) : Bool := win.any (fun y => y.1 == l)
  let s := s.setGroup s.cur (g.mapLanes act (fun _ x => { x with resv := none }))
  if s.isSolstice g.blk && !xs.isEmpty then
    .lateEnd (s.stage s.cur (.sc pd (xs.map (fun x => (x.1, granule x.2.2, if won x.1 then cellsOf x.2.2 (bytes x.1) else []))))
      (win.map (fun x => (some x.1, x.2.2, szBytes f.sz))))
  else
    .late (s.laneStores s.cur g (win.map (fun x => (x.1, x.2.2, bytes x.1))) true)
      (xs.map (fun x => .pred x.1 pd (won x.1))) none

/-- SC (R241). -/
def bodySc (f : FMg) (pd : BitVec 3) (s : State) (g : Group) (act : Lanes) : Res :=
  let n := szBytes f.sz
  match s.access g act f n .rmw with
  | .error t => .trap s t
  | .ok xs =>
    let win := xs.filter (scMay g xs)
    if s.anyBusy g xs n true then .stall
    else
      match s.badTrap win n true with
      | some t => .trap s t
      | none => scRes f pd.toNat s g act xs win

def execSc (f : FMg) (pd : BitVec 3) (s : State) : Host.Outcome State Fault Refusal := run (.sc f pd) (bodySc f pd) s

/-- FENCE (R242): it orders, and every step of this machine is in one order already (log entry 3). -/
def execFence (f : FMg) (sc : Bool) (s : State) : Host.Outcome State Fault Refusal := runG (.fence f sc) (fun g _ => g) s

end Sys2Proof.Machine
end

