-- ==== Sys2Proof/Machine/System.lean ====
section
/-! DEFINITION. System instructions (R308 to R313): TRAP, ERET, MFSR, MTSR, PMAP with first-touch mapping (R359), TLBINV and shootdown
(R358); a word that names no instruction (R108 step 2). -/

namespace Sys2Proof.Machine

/-- TRAP (R309). -/
def execTrap (f : FS) (s : State) : Host.Outcome State Fault Refusal :=
  run (.trap f) (fun s _ act =>
    if act = 0 then .done s else .after s { code := 0x300 + f.num.toNat, mask := some act }) s

/-- ERET (R310, R367). -/
def bodyEret (_f : FS) (s : State) (g : Group) (_ : Lanes) : Res :=
  if !g.hseg.isEmpty then .trap s { code := 0x004, einfo := none }
  else
    if g.emaskf ≠ 0 then .jump (s.terminateBlock g.blk s.cur g.ecause.toNat g.epc g.eaddr g.einfo)
    else .jump ((s.handlerDone s.cur).serveQuad (s.quadOf g))

def execEret (f : FS) (s : State) : Host.Outcome State Fault Refusal := run (.eret f) (bodyEret f) s

/-! ## System registers -/

/-- PARTID (R25). -/
def partid (b : Block) : Nat := 65536 * b.vf + b.part

/-- The value of a system register (R24). -/
def State.sysReg (s : State) (g : Group) (n : Nat) : Nat :=
  let b := s.blockOf g
  match n with
  | 0x000 => g.epc.toNat
  | 0x001 => g.ecause.toNat
  | 0x002 => g.eaddr.toNat
  | 0x003 => g.emaskf.toNat
  | 0x004 => (s.hvec g).toNat
  | 0x005 => g.einfo.toNat
  | 0x006 => g.elpc.toNat
  | 0x010 => g.fpstat.toNat
  | 0x020 => g.qcount
  | 0x030 => partid b
  | 0x031 => b.estgen.toNat
  | 0x040 => b.bwdog.toNat
  | _ => 0

/-- MFSR (R311). -/
def execMfsr (f : FS) (hi : Bool) (s : State) : Host.Outcome State Fault Refusal :=
  run (.mfsr f hi) (fun s g _ =>
    let v := s.sysReg g f.num.toNat
    .done (s.setGroup s.cur (g.setS f.rd.toNat (BitVec.ofNat 32 (if hi then v / 2^32 else v))))) s

/-- One half of a 64-bit register replaced (R311). -/
def setHalf (old : W64) (hi : Bool) (v : W32) : W64 :=
  if hi then v ++ BitVec.ofNat 32 old.toNat else BitVec.ofNat 32 (old.toNat / 2^32) ++ v

/-- MTSR (R311, R366): writes of a register that is read-only at this level are ignored (R5). -/
def bodyMtsr (f : FS) (hi : Bool) (s : State) (g : Group) (_ : Lanes) : Res :=
  let n := f.num.toNat
  let v := g.sreg f.ra.toNat
  if sysAccess g.supervisor n != .rw then .done s
  else
    match n with
    | 0x000 => .done (s.setGroup s.cur { g with epc := setHalf g.epc hi v })
    | 0x003 => .done (s.setGroup s.cur { g with emaskf := v &&& g.emaskIn })
    | 0x010 => .done (s.setGroup s.cur { g with fpstat := v &&& fpMask })
    | 0x040 => .done (s.updBlock g.blk (fun b => { b with bwdog := v }))
    | _ => .done s

def execMtsr (f : FS) (hi : Bool) (s : State) : Host.Outcome State Fault Refusal := run (.mtsr f hi) (bodyMtsr f hi) s

/-! ## First-touch mapping -/

/-- Zero `n` bytes from system address `a` on (R359, R402), as a write of zeros does. -/
def State.zero (s : State) (a n : Nat) : State :=
  let ks := s.parts.flatMap (fun p => p.2.marks.flatMap (fun m => m.2.granules))
  let hit (k : Nat) : Bool := decide (k * ckBytes < a + n) && decide (a < k * ckBytes + ckBytes)
  let s := (ks.filter hit).foldl State.ckCopy s
  ({ s with mem := s.mem.filter (fun c => decide (c.1 < a) || decide (a + n ≤ c.1))
            badCw := s.badCw.filter (fun k => decide (16 * k.1 < a) || decide (a + n < 16 * k.1 + 16)) }).breakResv a n none

/-- Zero the bytes in every view of Solstice mode too: the frame is new to each of them (log entry 47). -/
def State.zeroViews (s : State) (a n : Nat) : State :=
  { s with blocks := Table.mapAll s.blocks (fun _ b =>
      { b with base := b.base.map (fun m => m.filter (fun c => decide (c.1 < a) || decide (a + n ≤ c.1))) }) }

/-- Where PMAP's walk ends (R359): a status, or the system address of the leaf's entry, or of the level-1 entry that lacks a
table. -/
inductive Pmap where
  | status (n : Nat)
  | leaf (entry : Nat)
  | build (entry : Nat)
  deriving DecidableEq, Repr

/-- The walk of PMAP from a table at level `l` to a leaf at level `lv` (R359). -/
def pmapWalk (m : List Host.Cell) (d : Device) (p va lv : Nat) : Nat → Nat → Pmap
  | l, table =>
    match sysAddr d p table with
    | none => .status 3
    | some t =>
      let at' := t + 8 * levelIndex va l
      let e := readNat m at' 8
      if !e.testBit 0 then
        if l = lv then .leaf at' else if l = 1 then .build at' else .status 3
      else if entryMalformed d p l e then .status 3
      else if l = lv || e.testBit 1 then .status 1
      else
        match l with
        | 0 => .status 1
        | k + 1 => pmapWalk m d p va lv k (entryAddr e)

/-- The least multiple of `k` from `n` on. -/
def alignUp (n k : Nat) : Nat := (n + k - 1) / k * k

/-- A leaf entry (R354): address, permissions of attr, LEAF and V. -/
def leafEntry (pp attr : Nat) : Nat := pp + attr / 8 % 8 * 8 + 3

/-! ## Cached translations -/

/-- Set the limit of every address register of partition `p` that `hit` names to 0 (R43, R313). -/
def State.dropLimits (s : State) (p : Nat) (hit : AddrReg → Bool) : State :=
  let fix (a : List (Nat × AddrReg)) : List (Nat × AddrReg) := (List.range 8).foldl (fun acc n =>
    let x : AddrReg := Sparse.get {} a n
    if hit x then Sparse.set {} acc n { x with limit := 0 } else acc) a
  let mine (b : Nat) : Bool := match s.block? b with | some r => r.part == p | none => false
  { s with
    groups := Table.mapAll s.groups (fun _ g => if mine g.blk then { g with a := fix g.a } else g)
    blocks := Table.mapAll s.blocks (fun _ b =>
      if b.part = p then { b with compact := b.compact.map (fun c => { c with snaps := c.snaps.map (fun x => { x with a := fix x.a }) }) }
      else b) }

/-- Remove the cached translations of partition `p` that `hit` names (R313). -/
def State.dropTlb (s : State) (p : Nat) (hit : Cached → Bool) : State :=
  s.updPart p (fun r => { r with tlb := r.tlb.filter (fun c => !hit c) })

/-- A page from `lo` to `hi` that holds `va` is a cached one's page: they share a byte. -/
def Cached.meets (c : Cached) (lo hi : Nat) : Bool := decide (c.va < hi) && decide (lo < c.va + c.bytes)

/-- The page of an address register's frame has its base between `lo` and `hi`, or holds `va`. -/
def AddrReg.meets (x : AddrReg) (lo hi : Nat) (va : W64) : Bool :=
  (decide (lo ≤ x.base.toNat) && decide (x.base.toNat < hi))
    || (decide (x.base.toNat / x.page = va.toNat / x.page) && decide (x.page ≠ 0))

/-- PMAP of a page at level `lv` (R359): the state and the status. A frame beyond the granted memory is no frame (log entry 45). -/
def State.pmap (s : State) (p : Nat) (va lv attr : Nat) : State × Nat :=
  let r := s.part p
  let size := 2^levelShift lv
  if va < r.ftwbase.toNat || r.ftwbase.toNat + r.ftwsize.toNat ≤ va || va % size ≠ 0 then (s, 3)
  else
    let place (build : Option Nat) (entry : Option Nat) : State × Nat :=
      let n := r.poolnext.toNat
      let t := alignUp n 256
      let f := alignUp (if build.isSome then t + 256 else n) size
      if r.poolsize.toNat < f + size then (s, 2)
      else
        match sysAddr s.dev p (r.poolbase.toNat + f), (if build.isSome then sysAddr s.dev p (r.poolbase.toNat + t) else some 0) with
        | some fa, some ta =>
          let leaf := bytesOfNat 8 (leafEntry (r.poolbase.toNat + f) attr)
          let s :=
            match build with
            | some e => ((s.zero ta 256).store e (bytesOfNat 8 (r.poolbase.toNat + t + 1)) none)
            | none => s
          let at' := match entry with | some e => e | none => ta + 8 * levelIndex va 0
          ((((s.zero fa size).zeroViews fa size).store at' leaf none).updPart p (fun x => { x with poolnext := BitVec.ofNat 64 (f + size) }), 0)
        | _, _ => (s, 2)
    match pmapWalk s.mem s.dev p va lv 4 r.troot.toNat with
    | .status n => (s, n)
    | .leaf e => place none (some e)
    | .build e => place (some e) none

/-- What stood cached for the `n` bytes at `va` gives way to the page that PMAP maps there: the new translation is visible at once (R312). -/
def State.uncache (s : State) (p va n : Nat) : State :=
  (s.dropTlb p (·.meets va (va + n))).dropLimits p (·.meets va (va + n) (BitVec.ofNat 64 va))

/-- PMAP (R312). -/
def bodyPmap (f : FS) (s : State) (g : Group) (_ : Lanes) : Res :=
  let va := (g.spair f.ra.toNat).toNat
  let p := s.partOf g
  let (s', st) := s.pmap p va (f.num.toNat % 4) f.num.toNat
  let s' := if st = 0 then s'.uncache p va (2^levelShift (f.num.toNat % 4)) else s'
  .done (s'.updGroup s.cur (fun h => h.setS f.rd.toNat (BitVec.ofNat 32 st)))

def execPmap (f : FS) (s : State) : Host.Outcome State Fault Refusal := run (.pmap f) (bodyPmap f) s

/-! ## Shootdown -/

/-- The range of the page that holds an address: an unmapped one is of the level at which its walk stops (log entry 46). -/
def State.pageRange (s : State) (p : Nat) (va : W64) : Nat × Nat :=
  let size :=
    match s.tableWalk p va with
    | .page pg => pg.bytes
    | .stop l _ => 2^levelShift (min l 2)
  (va.toNat / size * size, va.toNat / size * size + size)

/-- Which address registers TLBINV takes the limit from (R313). -/
def State.invHit (s : State) (g : Group) (f : FS) (k : TlbKind) (x : AddrReg) : Bool :=
  match k with
  | .page =>
    let r := s.pageRange (s.partOf g) (g.spair f.ra.toNat)
    x.meets r.1 r.2 (g.spair f.ra.toNat)
  | .areg | .all => true

/-- Which cached translations TLBINV removes (R313): the page's, none, all. -/
def State.invTlb (s : State) (g : Group) (f : FS) (k : TlbKind) (c : Cached) : Bool :=
  match k with
  | .page =>
    let r := s.pageRange (s.partOf g) (g.spair f.ra.toNat)
    c.covers (g.spair f.ra.toNat) || c.meets r.1 r.2
  | .areg => false
  | .all => true

/-- TLBINV (R313, R358, R381): the translations go at once; then it waits while a staged access of the partition may hold one, a group
of Solstice mode until the quantum end at which its own commit. -/
def bodyTlbinv (f : FS) (k : TlbKind) (s : State) (g : Group) (_ : Lanes) : Res :=
  let t := (s.dropTlb (s.partOf g) (s.invTlb g f k)).dropLimits (s.partOf g) (s.invHit g f k)
  if !s.stagedIn (s.partOf g) then .done t
  else if s.isSolstice g.blk then .wait ((t.updGroup s.cur Group.landAll).park s.cur g .quantum)
  else .wait t

def execTlbinv (f : FS) (k : TlbKind) (s : State) : Host.Outcome State Fault Refusal := run (.tlbinv f k) (bodyTlbinv f k) s

/-! ## Words that name no instruction -/

/-- A word of step 2 of R108 traps with ILLEGAL_OP (R106, R109): EINFO holds the word. -/
def execUnassignedEncoding (w : W64) (s : State) : Host.Outcome State Fault Refusal :=
  match s.group? s.cur with
  | none => .fault .noGroup
  | some g => .next (s.take s.cur { code := 0x001 } g.pc w)

end Sys2Proof.Machine
end

