-- ==== Sys2Proof/Machine/Solstice.lean ====
section
/-! DEFINITION. Solstice mode at its quantum ends: the commit of staged operations (R382, R386, R388, R390), the waits (R387), the
batches (R388), the ticket order and the release of commits (R383, R384, R385). -/

namespace Sys2Proof.Machine

/-! ## Ticket order -/

/-- The place of a block's commit at quantum end `k` (R383). -/
def Block.commitKey (b : Block) (k : Nat) : List Nat := b.ticket ++ [k]

/-- Block `i` of a tree of launches holds a commit before the place `t` that has not been released with all that its jobs write, or may
still make one (R383, R384; log entry 56). -/
def State.blocksTicket (s : State) (i : Nat) (b : Block) (t : List Nat) : Bool :=
  b.commits.any (fun c => (!c.released || !s.jobsDone i c.quantum) && ticketLt (b.commitKey c.quantum) t) ||
    (!b.gone && ticketLt (b.commitKey (b.ends + 1)) t)

/-- A record that a node holds will be a child before the place `t`. -/
def Held.blocksTicket (h : Held) (root : Option Nat) (t : List Nat) : Bool :=
  match h.batch with
  | some x => x.root == root && ticketLt (x.ticket ++ [1]) t
  | none => false

/-- Every commit before the place `t` in the tree of `root` has been released (R384). -/
def State.allBefore (s : State) (root : Option Nat) (t : List Nat) : Bool :=
  !s.blocks.any (fun b => b.2.root == root && b.2.solstice && s.blocksTicket b.1 b.2 t) &&
    !s.nodes.any (fun n => (n.2.bin ++ n.2.segments.flatMap (·.2)).any (fun h => h.blocksTicket root t)) &&
    !(match root with
      | none => false
      | some l => match s.launch? l with | some r => r.unplaced.any (fun k => ticketLt [k, 1] t) | none => false)

/-! ## Release -/

/-- One decrement of EXIT.J on released memory (R296): a counter at 0 stays. -/
def State.decAt (s : State) (a : Nat) : State :=
  if readNat s.mem a 8 = 0 then s else s.store a (bytesOfNat 8 (readNat s.mem a 8 - 1)) none

/-- What a committed operation does to released memory (R384, R386). -/
def State.releaseOp (s : State) (op : Staged) : State :=
  match op with
  | .write cs => s.storeCells cs none
  | .rmw o u _ n _ _ ls => ls.foldl (fun s x => s.store x.2.1 (bytesOfNat n (atomApply o u n (readNat s.mem x.2.1 n) x.2.2)) none) s
  | .dec ls => ls.foldl (fun s x => s.decAt x.2) s
  | _ => s

/-- A block whose residency is over and whose commits have all been released leaves the table (R384). -/
def State.clearGone (s : State) (b : Nat) : State :=
  match s.block? b with
  | some r => if r.gone && r.commits.all (·.released) then { s with blocks := Table.del s.blocks b } else s
  | none => s

/-- The ticket unit releases the commit of block `b` at quantum end `k` (R384). -/
def State.release (s : State) (b k : Nat) : State :=
  match s.block? b with
  | none => s
  | some r =>
    match r.commits.find? (fun c => c.quantum == k) with
    | none => s
    | some c =>
      let s := c.ops.foldl (fun s o => s.releaseOp o.2) s
      let s := s.updBlock b (fun r => { r with commits := r.commits.map (fun c => if c.quantum = k then { c with released := true } else c) })
      ((s.toAncestors r c.ops).clearGone b).againAll.finishRoot r.root

/-- A commit that can be released now, of the tree of `root`: every one before it has been, with all that its jobs write (R384). -/
def State.nextRelease (s : State) (root : Option Nat) : Option (Nat × Nat) :=
  let cand := (s.blocks.filter (fun b => b.2.root == root && b.2.solstice)).flatMap (fun b =>
    (b.2.commits.filter (fun c => !c.released && s.allBefore root (b.2.commitKey c.quantum))).map (fun c => (b.1, c.quantum)))
  cand.head?

/-- Release every commit that can be released, at most `n`. -/
def State.releaseAll (s : State) (root : Option Nat) : Nat → State
  | 0 => s
  | n + 1 =>
    match s.nextRelease root with
    | none => s
    | some (b, k) => (s.release b k).releaseAll root n

/-- Commits of the machine, released or not. -/
def State.commitCount (s : State) : Nat := s.blocks.foldl (fun acc b => acc + b.2.commits.length) 0

/-- TICKET_RELEASE (R384). -/
def execTicketRelease (l : Nat) (s : State) : Host.Outcome State Fault Refusal :=
  .next (s.releaseAll (some l) (s.commitCount + 1))

/-! ## Commit -/

/-- A commit in progress: the state, its operations so far with their groups, whether it goes to released memory at once, whether
it is at quantum end `k` of block `b`, the place of the next record. -/
structure Committing where
  s : State
  b : Nat
  k : Nat
  direct : Bool
  ops : List (Nat × Staged) := []
  pos : Nat := 0

/-- Change the view of the committing block. -/
def Committing.onView (c : Committing) (f : List Host.Cell → List Host.Cell) : Committing :=
  { c with s := c.s.updBlock c.b (fun r => { r with base := r.base.map f }) }

/-- The committing block's view. -/
def Committing.view (c : Committing) : List Host.Cell :=
  match c.s.block? c.b with
  | some r => r.base.getD c.s.mem
  | none => c.s.mem

/-- An operation of group `gid` joins the commit. -/
def Committing.push (c : Committing) (gid : Nat) (op : Staged) : Committing :=
  { c with s := if c.direct then c.s.releaseOp op else c.s, ops := c.ops ++ [(gid, op)] }

/-- A committed write clears the reservations of the block's other groups on its granules (R162, R166). -/
def Committing.break (c : Committing) (gid a n : Nat) : Committing :=
  { c with s := { c.s with groups := Table.mapAll c.s.groups (fun g r =>
      if r.blk = c.b && g != gid then r.breakResv a n none else r) } }

/-- Bytes enter the view and the commit. -/
def Committing.write (c : Committing) (gid : Nat) (cs : List Host.Cell) : Committing :=
  let c := (c.onView (fun m => writeCells m cs)).push gid (.write cs)
  cs.foldl (fun c x => c.break gid x.1 1) c

/-- A committed operation of another group touches granule `g` (R166, R386). -/
def opTouches (g : Nat) : Staged → Bool
  | .write cs => cs.any (fun x => granule x.1 == g)
  | .rmw _ _ _ n _ _ ls => ls.any (fun x => touchesGranule x.2.1 n g)
  | .dec ls => ls.any (fun x => touchesGranule x.2 8 g)
  | _ => false

/-- Change a lane of a group. -/
def State.updLane (s : State) (gid l : Nat) (f : Lane → Lane) : State :=
  s.updGroup gid (fun g => g.mapLanes (BitVec.ofNat 32 (2^l)) (fun _ x => f x))

/-- SC at its commit (R386): each lane's own predicate. -/
def Committing.scOp (c : Committing) (gid pd : Nat) (ls : List (Nat × Nat × List Host.Cell)) : Committing :=
  let prior := c.ops.filter (fun o => o.1 != gid)
  ls.foldl (fun c x =>
    let won := !x.2.2.isEmpty && !prior.any (fun o => opTouches x.2.1 o.2)
    let c : Committing := { c with s := c.s.updLane gid x.1 (fun y => y.setPred pd won) }
    if won then c.write gid x.2.2 else c) c

/-- One read-modify-write of a returning atomic (R386): on released memory at .dev and beyond, on the view below; the view and the
commit take the value written; the lane takes the old one. -/
def Committing.atomLane (c : Committing) (gid n : Nat) (dev : Bool) (vr : Nat) (tag : BitVec 4) (l a : Nat) (new : Nat → Option Nat) :
    Committing :=
  let old := readNat (if dev then c.s.mem else c.view) a n
  let c :=
    match new old with
    | some v => c.write gid (cellsOf a (bytesOfNat n v))
    | none => c
  { c with s := c.s.updLane gid l (fun y => y.setRegs vr (regsOfBytes tag (bytesOfNat n old) (n / 4))) }

/-- Records of a SPAWN at its commit (R292, R388): their batch entries by position; `stampBatches` gives them the view. -/
def Committing.batchOf (c : Committing) (i : Nat) : Option Batch :=
  (c.s.block? c.b).map (fun r =>
    { blk := c.b, k := c.k, root := r.root, ancestors := r.ancestors, ticket := r.commitKey c.k ++ [c.pos + i], since := r.retiredCount
      view := [] })

/-- Number the records of a SPAWN among those their work-items have committed (R389). -/
def numbered (g : Group) (rs : List (Nat × Rec)) : List (Nat × Rec) :=
  rs.map (fun x => (x.1, { x.2 with nth := (g.lane x.1).committed }))

/-- SPAWN at its commit (R292, R388, R389): without .b the predicate reports acceptance; with .b all or none. With a handle that a
NODEDEL has made stale it accepts nothing, and traps at its wait (R293). -/
def Committing.spawnOp (c : Committing) (gid : Nat) (pd : Option Nat) (rs : List (Nat × Rec)) : Committing × Bool :=
  match c.s.group? gid with
  | none => (c, true)
  | some g =>
    let xs := c.s.offers (numbered g rs) c.batchOf
    let (s', refused) := c.s.offerAll xs
    if rs.any (fun x => (c.s.liveNode (c.s.partOf g) x.2.handle).isNone) || (pd.isNone && refused != 0) then (c, false)
    else
      let took := rs.filter (fun x => !refused.getLsbD x.1)
      let act := maskOf (fun l => rs.any (fun x => x.1 == l))
      let s' := s'.updGroup gid (fun g =>
        let g := match pd with | some p => g.writeP act p (fun l _ => !refused.getLsbD l) | none => g
        g.mapLanes (act &&& ~~~refused) (fun _ x => { x with committed := x.committed + 1 }))
      ({ c with s := s', ops := c.ops ++ [(gid, .spawn none false took)], pos := c.pos + rs.length }, true)

/-- A remote SPAWN at its commit (R291): the local port accepts each record or not, a free choice; with .b every one. THAW leaves the
port off: it accepts none, and a SPAWN.b waits on (R415). -/
def Committing.sendOp (c : Committing) (gid : Nat) (pd : Option Nat) (rs : List (Nat × Rec)) : Committing × Bool :=
  let on := c.s.dev.life == .full
  if pd.isNone && !on then (c, false)
  else
    let act := maskOf (fun l => rs.any (fun x => x.1 == l))
    let (k, s) := c.s.takeFree 32
    let sent := match pd with | some _ => maskOf (fun l => act.getLsbD l && on && Config.freeBit (k + l)) | none => act
    ({ c with s := s.updGroup gid (fun g =>
        let g := match pd with | some p => g.writeP act p (fun l _ => sent.getLsbD l) | none => g
        g.mapLanes sent (fun _ x => { x with committed := x.committed + 1 })) }, true)

/-- Wills at their commit (R390). -/
def State.commitWills (s : State) (b : Nat) (ws : List (W64 × Will × List (Nat × Reg))) : State :=
  match s.block? b with
  | none => s
  | some r =>
    match r.launch with
    | none => s
    | some l =>
      match s.launch? l with
      | none => s
      | some la => ws.foldl (fun s w => s.captureWill (estateOf r b la l w.1 w.2.1 w.2.2)) s

/-- A job card at its commit (R382): it enters the scheduler; its follow-on command belongs to the same commit. -/
def Committing.cardOp (c : Committing) (j : Nat) : Committing :=
  let mark (s : State) (j : Nat) : State := s.updJob j (fun r => { r with quantum := some c.k })
  let s := mark c.s j
  let s := match s.followOf j with | some f => mark s f | none => s
  { c with s := s.arriveJob j }

/-- One staged operation of a group commits (R382, R386). The answer `false`: a SPAWN.b that still lacks room stays staged. -/
def Committing.op (c : Committing) (gid : Nat) : Staged → Committing × Bool
  | .write cs => (c.write gid cs, true)
  | .sc pd ls => (c.scOp gid pd ls, true)
  | .rmw o u nr n scope vr ls =>
    if nr then
      let c := (c.onView (fun m => ls.foldl (rmwOn o u n) m)).push gid (.rmw o u nr n scope vr ls)
      (ls.foldl (fun c x => c.break gid x.2.1 n) c, true)
    else
      (ls.foldl (fun c x => c.atomLane gid n (decide (3 ≤ scope)) vr (atomTag o u n) x.1 x.2.1
        (fun old => some (atomApply o u n old x.2.2))) c, true)
  | .cas n scope vr ls =>
    (ls.foldl (fun c x => c.atomLane gid n (decide (3 ≤ scope)) vr tagRAW x.1 x.2.1
      (fun old => if old = x.2.2.1 then some x.2.2.2 else none)) c, true)
  | .dec ls =>
    let c := (c.onView (fun m => ls.foldl (fun m x => decOn m x.2) m)).push gid (.dec ls)
    (ls.foldl (fun c x => c.break gid x.2 8) c, true)
  | .tile h cells =>
    ({ c with s := c.s.updBlock c.b (fun b => { b with
        tiles := Table.upd b.tiles h (fun t => t.writeLanes cells) }) }, true)
  | .spawn pd remote rs => if remote then c.sendOp gid pd rs else c.spawnOp gid pd rs
  | .wills ws => ({ c with s := c.s.commitWills c.b ws }, true)
  | .card j => (c.cardOp j, true)

/-- A group's staged operations commit in program order. -/
def Committing.group (c : Committing) (gid : Nat) : Committing :=
  match c.s.group? gid with
  | none => c
  | some g =>
    let c : Committing := { c with s := c.s.updGroup gid (fun g => { g with staged := [] }) }
    g.staged.foldl (fun c o =>
      let (c, done) := c.op gid o
      if done then c else { c with s := c.s.updGroup gid (fun g => { g with staged := g.staged ++ [o] }) }) c

/-- The block's groups in ascending %grp order. -/
def State.groupsOf (s : State) (b : Nat) : List (Nat × Group) := s.groups.filter (fun g => g.2.blk == b)

/-- A staged operation is a returning atomic at .dev or beyond (R386). -/
def Staged.returning : Staged → Bool
  | .rmw _ _ nr _ scope _ _ => !nr && decide (3 ≤ scope)
  | .cas _ scope _ _ => decide (3 ≤ scope)
  | _ => false

/-- The staged operations of a block commit at quantum end `k` (R380 step 1). A direct commit is released: it is in memory already. -/
def State.commitBlock (s : State) (b k : Nat) (direct : Bool) : State :=
  let c := (s.groupsOf b).foldl (fun c g => c.group g.1) { s := s, b := b, k := k, direct := direct : Committing }
  let entry : Commit := { quantum := k, ops := if direct then [] else c.ops, released := direct }
  let s := c.s.updBlock b (fun r => { r with ends := k, commits := r.commits ++ [entry] })
  match direct, s.block? b with
  | true, some r => (s.toAncestors r c.ops).againAll
  | _, _ => s

/-! ## Waits -/

/-- Claims made since the last quantum end queue in %grp order, behind those made before (R387). -/
def State.orderClaims (s : State) (b : Nat) : State :=
  let grp (g : Nat) : Nat := match s.group? g with | some r => r.grp | none => 0
  let rec place (g : Nat) : List Nat → List Nat
    | [] => [g]
    | x :: r => if grp g < grp x then g :: x :: r else x :: place g r
  s.updBlock b (fun r =>
    let old := r.claims.filter r.claimsSeen.contains
    let new := r.claims.filter (fun g => !r.claimsSeen.contains g)
    { r with claims := old ++ new.foldl (fun acc g => place g acc) [] })

/-- A JWAIT on counter `va` completes: the released commits of the descendants whose records named it enter the view (R385). -/
def State.takeInbox (s : State) (b : Nat) (va : W64) : State :=
  s.updBlock b (fun r =>
    let mine := r.inbox.filter (fun x => x.1.contains va)
    { r with base := r.base.map (fun m => mine.foldl (fun m x => x.2.foldl (fun m o => o.2.onView m) m) m)
             inbox := r.inbox.filter (fun x => !x.1.contains va) })

/-- A job of a released commit of a descendant of block `b` whose records named counter `va` is in flight: what it writes enters with the
commit (R382, R385; log entry 56). -/
def State.namedInFlight (s : State) (b : Nat) (va : W64) : Bool :=
  s.blocks.any (fun x => x.2.ancestors.any (fun a => a.1 == b && a.2.contains va) &&
    x.2.commits.any (fun c => c.released && !s.jobsDone x.1 c.quantum))

/-- One group's wait at a quantum end (R387). -/
def State.quantumWait (s : State) (b gid : Nat) : State :=
  match s.group? gid, s.block? b with
  | some g, some r =>
    match g.st with
    | .waiting w =>
      match w with
      | .named _ _ | .copy _ | .autoFence => if s.waitMet gid g r w then s.endWait gid w else s
      | .jwait va ar =>
        let met := match s.readCounter g (g.areg ar) va with | .value v => v == 0 | _ => false
        if met && s.namedInFlight b va then s
        else if met then (s.jwaitRead gid g va ar).takeInbox b va
        else s.jwaitRead gid g va ar
      | .spawn marks =>
        match g.staged.findSome? (fun x => match x with | .spawn _ remote rs => some (remote, rs) | _ => none) with
        | some (remote, rs) => if remote then s else s.spawnStuck gid g rs
        | none => (s.updGroup gid (fun g => g.release marks)).wakeDone gid
      | .quantum => s.updGroup gid (fun g => g.wake s.ticks)
      | _ => s
    | _ => s
  | _, _ => s

/-- The waits of a block at a quantum end (R380 step 2, R387). -/
def State.quantumWaits (s : State) (b : Nat) : State :=
  let s := (s.checkBars b).orderClaims b
  let s := s.serveAll b
  let s := ((s.liveGroups b).map (·.1)).foldl (fun s g => s.quantumWait b g) s
  (s.meetCheck b).joinCheck b

/-- Copy barriers that the jobs which block `b` committed at quantum end `k` credit (R382). -/
def State.creditedAt (s : State) (b k : Nat) : List Nat :=
  s.jobs.filterMap (fun j => if j.2.blk == b && j.2.quantum == some k then j.2.credit.map (·.1) else none)

/-- What CBTEST, NODEQ and RBQ report until the next quantum end (R380 step 3), and the barriers that its jobs credit. -/
def State.fixSeen (s : State) (b : Nat) : State :=
  s.updBlock b (fun r => { r with cbsSeen := r.cbs, cbsBusy := s.creditedAt b r.ends, poolSeen := r.pool, claimsSeen := r.claims,
                                  nodesSeen := s.nodesNow r.part })

/-- A new quantum begins in every group (R380 step 4). -/
def State.newQuantum (s : State) (b : Nat) : State :=
  { s with groups := Table.mapAll s.groups (fun _ g => if g.blk = b then { g with qcount := 0, quantumDone := false, past := false } else g) }

/-- The block watchdog of Solstice mode counts retired instructions (R54, R391): past BWDOG * 1,024 it falls due and restarts (log
entry 57). -/
def State.watch (s : State) (b : Nat) : State :=
  match s.block? b with
  | none => s
  | some r =>
    let n := if r.bwdog = 0 then 0 else r.wdog + (r.retiredCount - r.endCount)
    let up := decide (1024 * r.bwdog.toNat < n)
    let s := s.setBlock b { r with wdog := if up then 0 else n, endCount := r.retiredCount }
    if up then s.watchdogDue b else s

/-! ## Batches -/

/-- A record of the batch of block `b` whose event has not come (R388). -/
def Held.opens (h : Held) (b : Nat) : Bool := h.due.isNone && (match h.batch with | some x => x.blk == b | none => false)

/-- Records that a node holds, in its bin and in the overflow region. -/
def Node.held (n : Node) : List Held := n.bin ++ n.segments.flatMap (·.2)

/-- Change every record that a node holds. -/
def Node.mapHeld (n : Node) (f : Held → Held) : Node :=
  { n with bin := n.bin.map f, segments := n.segments.map (fun x => (x.1, x.2.map f)) }

/-- The records that block `b` committed at quantum end `k` take its view there (R385 item 1). -/
def State.stampBatches (s : State) (b k : Nat) : State :=
  match s.block? b with
  | none => s
  | some r =>
    { s with nodes := Table.mapAll s.nodes (fun _ n => n.mapHeld (fun h =>
        { h with batch := h.batch.map (fun x => if x.blk = b && x.k = k then { x with view := r.base.getD s.mem } else x) })) }

/-- Records in launch order are to launch in groups of COUNT (R388). -/
def State.numberGroups (s : State) (i : Nat) (hs : List Held) : State :=
  match s.node? i with
  | none => s
  | some n =>
    let tag (h : Held) : Held :=
      match hs.findIdx? (fun x => x.serial == h.serial) with
      | some k => { h with due := some (s.ticks + k / max 1 n.count) }
      | none => h
    { s.setNode i (n.mapHeld tag) with ticks := s.ticks + hs.length }

/-- The batch of block `b` at node `i` comes due (R388): as many times COUNT records as the bin holds of it, or `all` of it, then
those of each spill segment apart, which returns whole (R346). -/
def State.markBatch (s : State) (b i : Nat) (all : Bool) : State :=
  match s.node? i with
  | none => s
  | some n =>
    let bin := n.launchOrder (n.bin.filter (·.opens b))
    let c := max 1 n.count
    if all then (bin :: n.segments.map (fun x => n.launchOrder (x.2.filter (·.opens b)))).foldl (fun s hs => s.numberGroups i hs) s
    else s.numberGroups i (bin.take (bin.length / c * c))

/-- Every group of the block waits or has retired (R388). -/
def State.allWaiting (s : State) (b : Nat) : Bool := (s.liveGroups b).all (fun g => g.2.isWaiting)

/-- TIMER instructions have passed since the first record of the batch of block `b` at node `n` (R388). -/
def State.timerPassed (s : State) (b : Nat) (n : Node) : Bool :=
  match s.block? b, (n.held.filter (·.opens b)).filterMap (fun h => h.batch.map (·.since)) with
  | some r, x :: xs => decide (n.timer ≤ r.retiredCount - xs.foldl min x)
  | _, _ => true

/-- The events of the batches of block `b`, at its quantum end (R388). -/
def State.markBatches (s : State) (b : Nat) : State :=
  s.nodes.foldl (fun s x =>
    if x.2.held.any (·.opens b) then s.markBatch b x.1 (s.allWaiting b || s.timerPassed b x.2) else s) s

/-- The least of a list of numbers of groups. -/
def leastDue (hs : List Held) : Option Nat := (hs.filterMap (·.due)).min?

/-- Launch the groups of batches that are due at node `i`, as long as a core takes them; at most `k`. -/
def State.runDue (s : State) (i : Nat) : Nat → State
  | 0 => s
  | k + 1 =>
    match s.node? i with
    | none => s
    | some n =>
      match leastDue n.bin with
      | none => s
      | some d =>
        if !s.nodeRuns n then s
        else
          match s.launchFrom i n (n.launchOrder (n.bin.filter (fun h => h.due == some d))) with
          | none => s
          | some s' => (s'.reap i).runDue i k

/-- The batches of a block at its quantum end (R388). -/
def State.runBatches (s : State) (b : Nat) : State :=
  let s := s.markBatches b
  (s.nodes.map (·.1)).foldl (fun s i => s.runDue i Config.binRecords) s

/-- Launch what is due of the batches at node `i`, which the Chuck had held for want of a core or a drain has brought back. A block
that has ended without a quantum end has no group left that does not wait (R388). -/
def State.runHeldBatches (s : State) (i : Nat) : State :=
  match s.node? i with
  | none => s
  | some n =>
    let ended (b : Nat) : Bool := match s.block? b with | some r => r.gone | none => true
    let bs := (n.held.filterMap (fun h => if h.due.isNone then h.batch.map (·.blk) else none)).eraseDups
    ((bs.filter ended).foldl (fun s b => s.markBatch b i true) s).runDue i Config.binRecords

/-! ## What the block's jobs tell it -/

/-- Put what a job tells in its place: by its group's %grp, then by the job's number (log entry 118). -/
def State.placeLater (s : State) (x : Later) : List Later → List Later
  | [] => [x]
  | y :: r =>
    let grp (k : Nat) : Nat := match s.group? k with | some g => g.grp | none => 0
    if grp x.gid < grp y.gid || (grp x.gid == grp y.gid && decide (x.job < y.job)) then x :: y :: r else y :: s.placeLater x r

/-- What jobs tell the groups of block `b`, for the block to see now (R382). -/
def State.tellNow (s : State) (b : Nat) (xs : List Later) : State :=
  (xs.foldl (fun acc x => s.placeLater x acc) []).foldl (fun s x =>
    let s := if x.wr then s.wrapFeedback x.gid b else s
    match x.due with
    | some d => s.post x.gid b d
    | none => s) s

/-- The block sees at its quantum end what its jobs tell it (R382). -/
def State.tellLater (s : State) (b : Nat) : State :=
  match s.block? b with
  | none => s
  | some r => (s.setBlock b { r with later := [] }).tellNow b r.later

/-- Jobs that cannot go on before a handler has dealt with a parked one: the parked ones, and those behind them (R252, R347). -/
def State.blockedJobs (s : State) : List Nat :=
  let parked := s.jobs.filterMap (fun j => match j.2.st with | .parked _ => some j.1 | _ => none)
  (List.range s.jobs.length).foldl (fun acc _ =>
    acc ++ s.jobs.filterMap (fun j =>
      if !acc.contains j.1 && (j.2.preds.any acc.contains || j.2.after.any acc.contains) then some j.1 else none)) parked

/-- A job of block `b` has met a translation fault, every group of the block waits, and no committed job of it can go on: the block sees
the fault now, since its quantum end waits for that job (R252, R382; log entry 118). -/
def State.seesFaults (s : State) (b : Nat) (r : Block) : Bool :=
  let blocked := s.blockedJobs
  r.later.any (fun x => x.due.any (·.job.isSome)) && s.allWaiting b &&
    s.jobs.all (fun j => j.2.blk != b || j.2.quantum.isNone || blocked.contains j.1)

/-- The block sees the translation faults of its jobs. -/
def State.tellFaults (s : State) (b : Nat) (r : Block) : State :=
  let fault (x : Later) : Bool := x.due.any (·.job.isSome)
  (s.setBlock b { r with later := r.later.filter (fun x => !fault x) }).tellNow b (r.later.filter fault)

/-! ## The quantum end -/

/-- Something has happened in the block since its last quantum end: a group has reached the end of its quantum, an instruction has
retired, every group is over, or a further quantum end is owed (R379, R380). -/
def State.endProgress (s : State) (b : Nat) (r : Block) : Bool :=
  let gs := s.liveGroups b
  gs.isEmpty || gs.any (fun g => g.2.quantumDone) || r.retiredCount != r.endCount

/-- A group waits for a claim or a meeting that its estate fetches may hold up (R319, R326): the quantum end waits for them. -/
def Group.fetching (g : Group) : Bool :=
  match g.st with
  | .waiting (.rbtake _) | .waiting .braC | .waiting .rjoin => !fetchesLanded g
  | _ => false

/-- Every group of the block that has not retired has reached the end of its quantum, with no cause to take first, and every job
committed at the last end has completed (R380, R382). A block at rest holds a further end only where a release or a job owes it
one. -/
def State.quantumReady (s : State) (b : Nat) (r : Block) : Bool :=
  s.allWaiting b && !s.jobs.any (fun j => j.2.blk == b && j.2.quantum.isSome) && !(s.liveGroups b).any (·.2.fetching) &&
    !(s.liveGroups b).any (fun g => g.2.st != .waiting .vacant && g.2.nextDue.isSome) && (s.endProgress b r || r.again != 0)

/-- A block quantum end (R380): its own commit is released at once where it can be (R384), before the waits look at released memory
(R387). -/
def State.quantumEnd (s : State) (b : Nat) (r : Block) (direct : Bool) : State :=
  let again := if s.endProgress b r then 0 else r.again - 1
  let s := s.commitBlock b (r.ends + 1) direct
  let s := (s.releaseAll r.root (s.commitCount + 1)).updBlock b (fun x => { x with again := again })
  let s := ((((s.quantumWaits b).fixSeen b).newQuantum b).tellLater b).stampBatches b (r.ends + 1)
  let s := ((s.watch b).shootdown r.part).runBatches b
  let s := s.retireBlock b
  (s.releaseAll r.root (s.commitCount + 1)).finishRoot r.root

/-- BLOCK_QUANTUM_END (R380). A commit with a returning atomic at .dev or beyond waits for every commit before it (R386). A translation
fault of a committed job comes first. -/
def execBlockQuantumEnd (b : Nat) (s : State) : Host.Outcome State Fault Refusal :=
  match s.block? b with
  | none => .next s
  | some r =>
    let direct := (s.groupsOf b).any (fun g => g.2.staged.any Staged.returning)
    let runs := s.dev.life != .cold && (s.part r.part).st == .running
    if !r.solstice || r.gone || r.detached.isSome || !runs then .next s
    else if s.seesFaults b r then .next (s.tellFaults b r)
    else if !s.quantumReady b r then .next s
    else if direct && !s.allBefore r.root (r.commitKey (r.ends + 1)) then .next s
    else .next (s.quantumEnd b r direct)

/-- QUANTUM_EXPIRY (R379): a group that has used up its quantum waits; its results land. -/
def execQuantumExpiry (gid : Nat) (s : State) : Host.Outcome State Fault Refusal :=
  match s.group? gid with
  | none => .next s
  | some g =>
    let up := match g.st with | .active | .parked => s.partRuns g && s.quantumUsed g | _ => false
    .next (if up then s.setGroup gid g.endQuantum else s)

end Sys2Proof.Machine
end

