-- ==== Sys2Proof/Machine/Sched.lean ====
section
/-! DEFINITION. What the scheduler, the timers and the Chuck do between instructions: landings (R95), due causes (R364), the
watchdog (R54), the fairness timer (R172), context moves (R319, R322), estate fetches (R332), counters (R295), bins, segments and
slots (R344 to R346), remote records (R291). -/

namespace Sys2Proof.Machine

/-! ## Landings and causes -/

/-- RESULT_LANDS (R95): the results of the windows of group `gid` that have no instruction left land, in issue order. -/
def execResultLands (gid : Nat) (s : State) : Host.Outcome State Fault Refusal :=
  match s.group? gid with
  | none => .next s
  | some g =>
    let g' : Group := { (g.windows.filter (fun w => w.left == 0)).foldl Group.land g with
      windows := g.windows.filter (fun w => w.left != 0) }
    .next (s.setGroup gid g')

/-- CAUSE_DELIVERY (R364). -/
def execCauseDelivery (gid : Nat) (s : State) : Host.Outcome State Fault Refusal :=
  match s.group? gid with
  | none => .next s
  | some g => .next (if s.partRuns g && g.canTake then s.deliver gid g else s)

/-- BLOCK_WATCHDOG_EXPIRY (R54): a BWDOG of 0 turns the watchdog off. Outside Solstice mode the time itself is the environment's (log
entry 57); in Solstice mode the watchdog counts retired instructions at quantum ends (R391: `State.watch`). -/
def execBlockWatchdogExpiry (b : Nat) (s : State) : Host.Outcome State Fault Refusal :=
  match s.block? b with
  | none => .next s
  | some r =>
    let runs := s.dev.life != .cold && (s.part r.part).st == .running
    .next (if r.bwdog = 0 || r.gone || r.detached.isSome || r.solstice || !runs then s else s.watchdogDue b)

/-- FAIRNESS_TIMER_EXPIRY (R172). -/
def execFairnessTimerExpiry (gid : Nat) (s : State) : Host.Outcome State Fault Refusal :=
  match s.group? gid with
  | none => .next s
  | some g =>
    let due := g.st == .active && s.partRuns g && decide (Config.fairness ≤ g.fair) && g.windows.isEmpty
    .next (if due then s.switchPath gid g else s)

/-! ## Context moves -/

/-- No estate fetch of the group is in flight and none of its windows is open (R98, R319). -/
def Group.movable (g : Group) : Bool := g.windows.isEmpty && fetchesLanded g

/-- The group needs its context in the Sapwood: it is PARKED, or it waits and has a cause to take or a SPAWN.b to try again. -/
def Group.wantsIn (g : Group) : Bool :=
  match g.st with
  | .parked => true
  | .waiting .vacant => false
  | .waiting (.spawn _) => !g.sapwood
  | .waiting _ => !g.sapwood && g.nextDue.isSome
  | _ => false

/-- The group's context leaves the Sapwood (R319): an ACTIVE group becomes PARKED. -/
def State.moveOut (s : State) (gid : Nat) (g : Group) : State :=
  let s := s.setGroup gid { g with st := if g.st = .active then .parked else g.st, moveDue := false }
  s.toHeart gid (s.isSolstice g.blk)

/-- Move a context out, or have the move fall due where a window or a fetch holds it up (R98, R319): LA acts as 0 from then on. In
Solstice mode, where a move changes nothing that a program sees, it falls due only where nothing holds it up (R320; log entry 89). -/
def State.tryOut (s : State) (gid : Nat) (g : Group) : State :=
  if g.movable then s.moveOut gid g
  else if s.isSolstice g.blk then s
  else s.setGroup gid { g with moveDue := true }

/-- The best of a list, the first of equal ones: `better x y` holds when `x` is to be taken before `y`. -/
def bestOf (better : Nat × Group → Nat × Group → Bool) : List (Nat × Group) → Option (Nat × Group)
  | [] => none
  | x :: r =>
    match bestOf better r with
    | none => some x
    | some y => if better y x then some y else some x

/-- The context that makes room for group `gid` of rank `rank` (R322, R323, R350). For an eligible group: an ACTIVE group that is not
eligible and holds no reserve, the youngest first, then such a context in WAITING; for a handler group at last a node-born group
outside a handler that holds of the reserve. For any other group: a context in WAITING, else the longest ACTIVE (log entry 87). -/
def State.victim (s : State) (c gid rank : Nat) : Option (Nat × Group) :=
  let xs := (s.seated c).filter (fun x => x.1 != gid)
  let plain := xs.filter (fun x => s.rankOf x.1 x.2 == 4)
  let younger (x y : Nat × Group) : Bool := decide (y.2.age < x.2.age)
  if rank < 4 then
    let free := plain.filter (fun x => !x.2.inReserve)
    match bestOf younger (free.filter (fun x => !x.2.isWaiting)) with
    | some x => some x
    | none =>
      match bestOf younger free with
      | some x => some x
      | none => if rank = 1 then bestOf younger (xs.filter (fun x => x.2.inReserve && s.rankOf x.1 x.2 == 3)) else none
  else
    match bestOf (fun x y => decide (x.2.since < y.2.since)) (plain.filter (·.2.isWaiting)) with
    | some x => some x
    | none => bestOf (fun x y => decide (x.2.since < y.2.since)) plain

/-- Make room for group `gid` and let it in, moving out at most `n` contexts; a victim that cannot move yet ends the attempt. -/
def State.enterSapwood (s : State) (gid : Nat) (g : Group) (rank : Nat) : Nat → State
  | 0 => s
  | n + 1 =>
    match s.seatFor (s.coreOf g) g.budget (decide (rank < 4)) with
    | some seat => s.seatIn gid seat
    | none =>
      match s.victim (s.coreOf g) gid rank with
      | none => s
      | some (k, v) => if v.movable then (s.moveOut k v).enterSapwood gid g rank n else s.tryOut k v

/-- Another group of the core enters the Sapwood before group `gid` (R322, R350): of the eligible ones that wait for room, one of
higher priority, or older at the same; of the others, an older one that has room. -/
def State.goesFirst (s : State) (gid : Nat) (g : Group) (x : Nat × Group) : Bool :=
  let r := s.rankOf gid g
  let k := s.rankOf x.1 x.2
  x.1 != gid && x.2.wantsIn && x.2.movable && s.partRuns x.2 &&
    (if r < 4 then decide (k < r) || (k == r && decide (x.2.age < g.age))
     else k == 4 && decide (x.2.age < g.age) && (s.seatFor (s.coreOf x.2) x.2.budget false).isSome)

/-- CONTEXT_MOVE (R319, R322, R350). A context that is needed enters the Sapwood in its turn, and others make room for it. A context
there that is not reserve-eligible may leave it at any boundary (R46); those that are leave it for a wait or a displacement only. -/
def execContextMove (gid : Nat) (s : State) : Host.Outcome State Fault Refusal :=
  match s.group? gid with
  | none => .next s
  | some g =>
    if !s.partRuns g then .next s
    else if g.wantsIn then
      .next (if !g.movable || (s.onCore (s.coreOf g)).any (s.goesFirst gid g) then s
        else s.enterSapwood gid g (s.rankOf gid g) 17)
    else if g.inSapwood && s.rankOf gid g == 4 then .next (s.tryOut gid g)
    else .next s

/-! ## Estate fetches -/

/-- Claimed estates of which no register is pending any more have been consumed, and entries that waited for it are written (R328,
R329, R332). -/
def State.consume (s : State) : State :=
  let awaited (e : Estate) : Bool :=
    s.groups.any (fun g => s.partOf g.2 == e.part && g.2.lanes.any (fun x => x.wid == e.wid &&
      x.pend.any (fun p => e.regs.any (fun r => r.1 == p.reg))))
  ({ s with estates := s.estates.filter (fun e => !e.claimed || awaited e) }).enterWaiting

/-- The fetch of register `r` of a lane lands (R332). -/
def Lane.fetched (x : Lane) (r : Nat) (bad : Bool) : Lane :=
  match x.pend.find? (fun p => p.reg == r) with
  | none => x
  | some p =>
    if bad then { x with pend := x.pend.filter (fun p => p.reg != r), badRegs := x.badRegs ++ [(r, 6)] }
    else { x.setReg r p.val with pend := x.pend.filter (fun p => p.reg != r) }

/-- A group in JWAIT or HALTED whose last fetch has landed leaves the Sapwood (R45, R319). -/
def State.settleOut (s : State) (gid : Nat) : State :=
  match s.group? gid with
  | none => s
  | some g =>
    match g.st with
    | .waiting (.jwait ..) | .halted => if g.sapwood then s.setGroup gid (g.toHeartFree (s.isSolstice g.blk)) else s
    | _ => s

/-- ESTATE_FETCH_LANDS (R332): a JWAIT, a HALTED context, a claim, a meeting or a join may have waited for it (R45, R319, R326). -/
def execEstateFetchLands (gid l r : Nat) (bad : Bool) (s : State) : Host.Outcome State Fault Refusal :=
  match s.group? gid with
  | none => .next s
  | some g =>
    let s := (s.updLane gid l (fun x => x.fetched r bad)).consume
    let s := s.settleOut gid
    .next ((if s.isSolstice g.blk then s else s.serveAll g.blk).meetings g.blk)

/-! ## Counters -/

/-- JWAIT_COUNTER_READ (R295): in Solstice mode the counter is read at quantum ends only. -/
def execJwaitCounterRead (gid : Nat) (s : State) : Host.Outcome State Fault Refusal :=
  match s.group? gid with
  | none => .next s
  | some g =>
    match g.st with
    | .waiting (.jwait va ar) => .next (if s.partRuns g && !s.isSolstice g.blk then s.jwaitRead gid g va ar else s)
    | _ => .next s

/-! ## Remote records -/

/-- The cause for which a record never runs at its target (R291), as R290 orders the checks. -/
def State.remoteFails (s : State) (p : Nat) (r : Rec) : Option Nat :=
  match s.spawnFails p r with
  | some 1 => some 0x181
  | some 2 => some 0x184
  | some _ => some 0x100
  | none => none

/-- A record is offered to its node at the target: accepted, or it waits for room there up to the blocking timeout, not at all where
that is 0 (R291, R375). -/
def State.remoteOffer (s : State) (p : Nat) (r : Rec) : State :=
  let i := nodeIndex r.handle
  match s.node? i with
  | none => s
  | some n =>
    let r : Rec := { r with payload := r.payload.take n.npay }
    match s.offer i { r := r, serial := 0 } ((s.part p).st != .running) with
    | some s' => s'.runBin i false 300
    | none =>
      if n.timeout = 0 then s.deadRecord p r 0x180 else s.updNode i (fun n => { n with remote := n.remote ++ [r] })

/-- REMOTE_RECORD_ARRIVAL (R291): over the Ramnar Link, which THAW leaves off (R415). -/
def execRemoteRecordArrival (p : Nat) (r : Rec) (s : State) : Host.Outcome State Fault Refusal :=
  let r : Rec := { r with fab := true }
  if s.dev.life != .full then .next s
  else
    match s.remoteFails p r with
    | some c => .next (s.deadRecord p r c)
    | none => .next (s.remoteOffer p r)

/-- Records that wait at node `i` are accepted while it has room, oldest first; at most `n`. -/
def State.admitRemote (s : State) (i : Nat) : Nat → State
  | 0 => s
  | k + 1 =>
    match s.node? i with
    | none => s
    | some n =>
      match n.remote with
      | [] => s
      | r :: rest =>
        match (s.setNode i { n with remote := rest }).offer i { r := r, serial := 0 } ((s.part n.part).st != .running) with
        | some s' => (s'.runBin i false 300).admitRemote i k
        | none => s

/-- Every record that waits at node `i` and has room by now is accepted. -/
def State.admitAll (s : State) (i : Nat) : State :=
  match s.node? i with
  | none => s
  | some n => s.admitRemote i n.remote.length

/-! ## Bins, segments, slots -/

/-- BIN_TIMER_EXPIRY (R345): one group of the held records, and the launches that no core could take before (log entry 50). -/
def execBinTimerExpiry (i : Nat) (s : State) : Host.Outcome State Fault Refusal :=
  match s.node? i with
  | none => .next s
  | some n => .next (if s.nodeRuns n && (n.timerOn || n.owed || n.bin.any (·.batch.isSome)) then ((s.runBin i true 300).runHeldBatches i).admitAll i else s)

/-- A record comes back from the overflow region (R286, R346): where software has overwritten its place, what the record holds is
undefined (log entry 42). -/
def State.readBack (s : State) (h : Held) : State × Held :=
  match h.place with
  | none => (s, h)
  | some (a, k) =>
    let h : Held := { h with place := none }
    if readBytes s.mem a 64 = freeBytes k then (s, h)
    else
      let (k, s) := s.takeFree 10
      let words := h.r.payload.mapIdx (fun j w => (Config.freeWord (k + j), w.2))
      let wide (j : Nat) : W64 := Config.freeWord (k + j) ++ Config.freeWord (k + j + 1)
      let join : Option W64 := if Config.freeBit (k + 9) then some (wide 5) else none
      (s, { h with r := { h.r with payload := words, key := Config.freeWord (k + 4), join := join, origin := wide 7 } })

/-- The records of a drained segment enter the bin, in order of acceptance. -/
def State.drainInto (s : State) (i : Nat) (hs : List Held) : State :=
  hs.foldl (fun s h =>
    let (s, h) := s.readBack h
    s.updNode i (fun n => { n with bin := n.insert h n.bin, timerOn := true })) s

/-- SPILL_SEGMENT_DRAIN (R346): the oldest segment returns whole to a bin of fewer than 128 records, when the bin and the Chuck have room
for it. The open segment closes when a drain begins, and a record that spills later opens another. -/
def execSpillSegmentDrain (i : Nat) (s : State) : Host.Outcome State Fault Refusal :=
  match s.node? i with
  | none => .next s
  | some n =>
    match n.segments with
    | [] => .next s
    | (_, hs) :: rest =>
      let room := decide (n.bin.length < 128) && decide (s.chuckHeld n.homeQuad + hs.length ≤ Config.chuckRecords)
      if !s.nodeRuns n || !n.inSlot || !room then .next s
      else
        let s := (s.updNode i (fun n => { n with segments := rest.map (fun x => (true, x.2)) })).drainInto i hs
        .next (((s.runBin i false 300).runHeldBatches i).admitAll i)

/-- NODE_SWAP_IN (R344). -/
def execNodeSwapIn (i : Nat) (s : State) : Host.Outcome State Fault Refusal :=
  match s.node? i with
  | none => .next s
  | some n =>
    let free := decide ((s.slotted n.homeQuad).length < Config.nodeSlots)
    .next (if s.nodeRuns n && n.swapped && free then (s.setNode i { n with swapped := false, inSlot := true, swaps := [] }).admitAll i else s)

/-- REMOTE_RECORD_TIMEOUT (R291): the oldest record that waits goes to the dead-record area, unless it has room by now. -/
def execRemoteRecordTimeout (i : Nat) (s : State) : Host.Outcome State Fault Refusal :=
  match s.node? i with
  | none => .next s
  | some n =>
    match n.remote, (s.admitAll i).node? i with
    | r :: rest, some n' =>
      if n'.remote.length < n.remote.length then .next (s.admitAll i)
      else .next ((s.setNode i { n with remote := rest }).deadRecord n.part r 0x180)
    | _, _ => .next s

end Sys2Proof.Machine
end

