-- ==== Sys2Proof/Machine/Launches.lean ====
section
/-! DEFINITION. Launches: the doorbell and the reading of packets (R334 to R337), the start barrier (R351), the placement of blocks
and the birth of their groups (R8, R33, R34, R331, R332, R341 to R343). -/

namespace Sys2Proof.Machine

/-! ## Starting a launch -/

/-- Blocks of a launch that this module runs: first and one past the last (R343). A module outside communicator 0 runs none (log
entry 63). -/
def State.share (s : State) (p : Nat) (bs : List Byte) (n : Nat) : Nat × Nat :=
  if !pktShard bs then (0, n)
  else
    match s.tableComm p (pktPgtBase bs) 0 with
    | some (k, r) => (r * n / k, (r + 1) * n / k)
    | none => (0, 0)

/-- The launch that a checked packet makes: `kd` its kernel descriptor (R8, R81, R335). -/
def State.launchOf (s : State) (p v n owner : Nat) (walker : Option Nat) (overlap : Bool) (bs kd : List Byte) : Launch :=
  let f := descField bs
  let a := pktDesc bs
  let gang := decide (descField kd 6 1 ≠ 0)
  let roles := descRoles kd a (f 0x18 2)
  let w := if gang then 32 * roles.foldl (fun acc r => acc + r.groups) 0 else f 0x18 2
  let nx := f 0x10 4
  let ny := f 0x14 2
  let nz := f 0x16 2
  let keyed := (descField kd 0x11 1).testBit 0
  let coef (o lin : Nat) : W64 := BitVec.ofNat 64 (if keyed then descField kd o 8 else lin)
  let (lo, hi) := s.share p bs (nx * ny * nz)
  { part := p, vf := v, stream := n, owner := owner, walker := walker, launchId := 0, seq := 0, gen := BitVec.ofNat 32 (f 0x48 4)
    solstice := pktSolstice bs, quantum := if f 4 4 = 0 then 4096 else f 4 4, affinity := if pktFlag bs 4 then f 2 1 else 2
    nx := nx, ny := ny, nz := nz, wsize := w, roles := roles, gang := gang
    k0 := coef 0x18 0, kx := coef 0x20 w, ky := coef 0x28 (w * nx), kz := coef 0x30 (w * nx * ny), kt := coef 0x38 1
    wills := ((List.range 8).map (fun i => (BitVec.ofNat 16 (descField kd (0xC0 + 4 * i) 2), descField kd (0xC2 + 4 * i) 1))).filter
      (fun x => x.1 != 0)
    heirs := (List.range 8).map (fun i => BitVec.ofNat 16 (descField kd (0xE0 + 2 * i) 2))
    argBase := pktAddr bs 0x20, argSize := f 0x1C 4, seed := pktAddr bs 0x28, spillBase := pktAddr bs 0x30, spillSize := f 0x38 8
    compl := pktCompl bs, pgt := if pktPgt bs then some (pktPgtBase bs) else none
    lo := lo, hi := hi, nextBlk := lo, overlap := overlap, nmod := if pktRepl bs then f 0x4C 2 else 0, started := false }

/-- GEN of the packet of which launch `r` comes, where that is replicated: its own, or that of the graph of which it is a node (R351). -/
def State.packetGen (s : State) (r : Launch) : Option W32 :=
  if r.nmod ≠ 0 then some r.gen
  else
    match r.walker.bind s.walker? with
    | some w => if w.nmod ≠ 0 then some w.gen else none
    | none => none

/-- A launch starts (R26, R336, R337): it takes the stream's sequence number and an identifier, and the spills and discards that
the stream owes. %gen reads GEN of a replicated packet, else the sequence number (R23, R351). -/
def State.startLaunch (s : State) (l : Nat) : State :=
  match s.launch? l with
  | none => s
  | some r =>
    let st := s.stream r.vf r.stream
    let s := s.updLaunch l (fun r => { r with
      started := true, seq := st.seq, launchId := s.launchName r.part, gen := (s.packetGen r).getD st.seq
      spilled := st.owedSpilled, discarded := st.owedDiscarded, base := if r.solstice then some s.mem else none })
    let s := s.updPart r.part (fun p => { p with nextLaunch := p.nextLaunch + 1 })
    let s := s.updStream r.vf r.stream (fun x => { x with seq := x.seq + 1, last := some l, owedSpilled := 0, owedDiscarded := 0 })
    s.finishLaunch l

/-- A launch enters the table; with a start barrier it has arrived there and waits (R351). -/
def State.addLaunch (s : State) (r : Launch) : State × Nat :=
  let id := s.ticks
  let own := match r.pgt with | some t => (s.moduleRank r.part t).toList | none => []
  let s : State := { s with ticks := s.ticks + 1, launches := Table.put s.launches id { r with arrivals := own } }
  if r.nmod = 0 then (s.startLaunch id, id)
  else (s.updStream r.vf r.stream (fun x => { x with lastGen := some r.gen }), id)

/-! ## Streams -/

/-- The stream's predecessor launch has finished (R337). -/
def State.predecessorDone (s : State) (v n : Nat) : Bool :=
  match (s.stream v n).last with
  | none => true
  | some l => match s.launch? l with | some r => r.finished | none => true

/-- A launch of the stream waits at its start barrier (R351). -/
def State.atBarrier (s : State) (v n : Nat) : Bool :=
  s.launches.any (fun l => l.2.vf == v && l.2.stream == n && !l.2.started && !l.2.finished)

/-- The partition of a virtual function (R410). -/
def State.vfPart (s : State) (v : Nat) : Option Nat :=
  if (s.vf v).bind < Config.partitions then some (s.vf v).bind else none

/-- The partition runs: launches start and blocks are placed (R374, R415). -/
def State.partActive (s : State) (p : Nat) : Bool := s.dev.life != .cold && (s.part p).st == .running

/-- The packet at the head of a stream, when the stream reads one now (R334, R340, R374, R410, R412), with its partition. The ring
lies at a virtual address of the partition (log entry 58). -/
def State.headPacket (s : State) (v n : Nat) : Option (Nat × List Byte) :=
  match s.vfPart v with
  | none => none
  | some p =>
    let r := s.stream v n
    if r.size = 0 || r.head = r.tail || r.walker.isSome || s.atBarrier v n || (s.vf v).tdisp == .error || !s.partActive p then none
    else (s.virtBytes p 2 (r.base + BitVec.ofNat 64 (128 * r.head)) 128).map (fun bs => (p, bs))

/-- The packet at the head has been read (R334). -/
def State.consumeSlot (s : State) (v n : Nat) : State := s.updStream v n (fun r => { r with head := (r.head + 1) % max 1 r.size })

/-- The record of a packet that starts nothing, or of a marker (R335, R336). -/
def State.plainRecord (s : State) (p v n : Nat) (compl : W64) (status field : Nat) : State :=
  s.writeRecord p v n compl status (recordBytes status (s.stream v n).seq 0 0 0 0 0 field)

/-- A packet that step 2 of R336 refuses (R434): the status that DETAIL holds is 0 (log entry 64). -/
def State.muteRecord (s : State) (p v n : Nat) (compl : W64) : State :=
  s.event { code := 0x20A, part := p, vf := if v < Config.vfs then v else 0xFF, detail := BitVec.ofNat 32 (streamDetail v n)
            eaddr := compl }

/-- SQTAIL_WRITE (R334), subject to the lock of R412: `TAIL` is 16 bits. -/
def State.setTail (s : State) (v n : Nat) (tail : W32) : State := s.updStream v n (fun r => { r with tail := tail.toNat % 65536 })

/-- A graph starts on a stream (R339, R340), read from `m`; `after` the commit that it waits for (R304). -/
def State.addWalker (s : State) (m : List Host.Cell) (p v n owner : Nat) (desc : W64) (record : Option W64) (after : Option (Nat × Nat)) :
    State :=
  let id := s.ticks
  let entry := match s.graphBytes m p desc 64 with | .bytes bs => descField bs 8 2 | _ => 0
  let s : State := { s with
    ticks := s.ticks + 1
    walkers := Table.put s.walkers id { part := p, vf := v, stream := n, owner := owner, desc := desc, node := entry, record := record, after := after } }
  s.updStream v n (fun r => { r with walker := some id })

/-- The kernel launch of a packet that passes its checks starts, or waits at its start barrier. -/
def State.startPacket (s : State) (p v n owner : Nat) (walker : Option Nat) (overlap : Bool) (bs : List Byte) : State × Nat :=
  let kd := (s.virtBytes p 2 (pktDesc bs) 256).getD []
  s.addLaunch (s.launchOf p v n owner walker overlap bs kd)

/-- The graph of a packet that passes its checks starts, or waits at its start barrier (R339, R351). -/
def State.startGraph (s : State) (p v n : Nat) (bs : List Byte) : State :=
  let id := s.ticks
  let s := s.addWalker s.mem p v n v (pktDesc bs) (some (pktCompl bs)) none
  if !pktRepl bs then s
  else
    let gen := BitVec.ofNat 32 (descField bs 0x48 4)
    let own := (s.moduleRank p (pktPgtBase bs)).toList
    ({ s with walkers := Table.upd s.walkers id (fun r => { r with
        nmod := descField bs 0x4C 2, gen := gen, arrivals := own, started := false }) }).updStream v n (fun x => { x with lastGen := some gen })

/-- What a checked packet that is no marker does. -/
def State.runPacket (s : State) (p v n : Nat) (bs : List Byte) : State :=
  if pktKind bs = 2 then s.startGraph p v n bs else (s.startPacket p v n v none (pktOverlap bs) bs).1

/-- LAUNCH_PACKET (R335 to R337): a launch without OVERLAP waits for its predecessor; a marker waits for MARKER_COMPLETE. -/
def execLaunchPacket (v n : Nat) (s : State) : Host.Outcome State Fault Refusal :=
  match s.headPacket v n with
  | none => .next s
  | some (p, bs) =>
    if pktKind bs = 1 && !pktOverlap bs && !s.predecessorDone v n then .next s
    else
      match s.checkPacket p v n bs with
      | .refuse st o => .next ((s.consumeSlot v n).plainRecord p v n (pktCompl bs) st o)
      | .mute => .next ((s.consumeSlot v n).muteRecord p v n (pktCompl bs))
      | .pass =>
        if pktKind bs = 3 then .next s else .next ((s.consumeSlot v n).runPacket p v n bs)

/-- MARKER_COMPLETE (R335): every earlier launch of the stream has completed. -/
def execMarkerComplete (v n : Nat) (s : State) : Host.Outcome State Fault Refusal :=
  match s.headPacket v n with
  | none => .next s
  | some (p, bs) =>
    let done := s.launches.all (fun l => l.2.vf != v || l.2.stream != n || l.2.finished)
    if pktKind bs ≠ 3 || !done || s.checkPacket p v n bs ≠ .pass then .next s
    else .next ((s.consumeSlot v n).plainRecord p v n (pktCompl bs) 0 0)

/-! ## The start barrier -/

/-- A start barrier (R351): partition, modules that must arrive, GEN, ranks that have. -/
structure Barrier where
  part : Nat
  nmod : Nat
  gen : W32
  arrivals : List Nat
  deriving DecidableEq, Repr

/-- The start barrier at which launch `l`, or the graph of a packet under that number, waits. -/
def State.barrierOf (s : State) (l : Nat) : Option Barrier :=
  match s.launch? l with
  | some r => if r.started || r.finished then none else some ⟨r.part, r.nmod, r.gen, r.arrivals⟩
  | none =>
    match s.walker? l with
    | some r => if r.started then none else some ⟨r.part, r.nmod, r.gen, r.arrivals⟩
    | none => none

/-- Every module has arrived (R351). -/
def Barrier.full (b : Barrier) : Bool := (List.range b.nmod).all b.arrivals.contains

/-- The ranks that have arrived at the barrier of `l` become `xs`. -/
def State.setArrivals (s : State) (l : Nat) (xs : List Nat) : State :=
  match s.launch? l with
  | some _ => s.updLaunch l (fun r => { r with arrivals := xs })
  | none => { s with walkers := Table.upd s.walkers l (fun r => { r with arrivals := xs }) }

/-- The barrier of `l` is complete: the launch starts, or the walk does. -/
def State.openBarrier (s : State) (l : Nat) : State :=
  match s.launch? l with
  | some _ => s.startLaunch l
  | none => { s with walkers := Table.upd s.walkers l (fun r => { r with started := true }) }

/-- START_BARRIER_ARRIVAL (R351), over the Ramnar Link, which THAW leaves off (R415): `refuses`, the module has refused the packet. -/
def execStartBarrierArrival (l rank : Nat) (gen : W32) (refuses : Bool) (s : State) : Host.Outcome State Fault Refusal :=
  match s.barrierOf l with
  | none => .next s
  | some b =>
    if !s.partActive b.part || s.dev.life != .full then .next s
    else if refuses then .next (s.barrierFails l)
    else if gen ≠ b.gen || b.nmod ≤ rank then .next s
    else
      let b' : Barrier := { b with arrivals := (b.arrivals ++ [rank]).eraseDups }
      let s := s.setArrivals l b'.arrivals
      .next (if b'.full then s.openBarrier l else s)

/-- START_BARRIER_TIMEOUT (R351). -/
def execStartBarrierTimeout (l : Nat) (s : State) : Host.Outcome State Fault Refusal :=
  match s.barrierOf l with
  | none => .next s
  | some b => .next (if s.partActive b.part && !b.full then s.barrierFails l else s)

/-- A replicated packet comes over the Ramnar Link from the module that received it (R351): its stream takes it as it takes one of its
ring, when it reads one now and the packet's predecessor has finished; else it is not there yet (log entry 98). -/
def State.receive (s : State) (v n : Nat) (bs : List Byte) : State :=
  match s.vfPart v with
  | none => s
  | some p =>
    let reads := s.dev.life == .full && s.partActive p && (s.stream v n).walker.isNone && !s.atBarrier v n && (s.vf v).tdisp != .error
    let due := pktKind bs != 1 || pktOverlap bs || s.predecessorDone v n
    if !reads || !due || bs.length ≠ 128 || !pktRepl bs then s
    else
      match s.checkPacket p v n bs with
      | .refuse st o => s.plainRecord p v n (pktCompl bs) st o
      | .mute => s.muteRecord p v n (pktCompl bs)
      | .pass => s.runPacket p v n bs

/-! ## Keys and estates of a block -/

/-- The coordinates of a block, x fastest (R341). -/
def Launch.coords (r : Launch) (i : Nat) : Nat × Nat × Nat := (i % r.nx, i / r.nx % r.ny, i / (r.nx * r.ny))

/-- The key of work-item `t` of block `i` (R8). -/
def Launch.key (r : Launch) (i t : Nat) : W64 :=
  let (x, y, z) := r.coords i
  r.k0 + r.kx * BitVec.ofNat 64 x + r.ky * BitVec.ofNat 64 y + r.kz * BitVec.ofNat 64 z + r.kt * BitVec.ofNat 64 t

/-- The groups of a block: role number and role, in %grp order (R16). -/
def Launch.groups (r : Launch) : List (Nat × Role) := r.roles.zipIdx.flatMap (fun x => List.replicate x.1.groups (x.2, x.1))

/-- Heartwood blocks that a block reserves (R317). -/
def Launch.need (r : Launch) : Nat := r.groups.foldl (fun acc g => acc + g.2.budget + 2) 0

/-- An estate is open to a heir of launch `r` with a tag and a key (R33). -/
def Estate.matches (e : Estate) (r : Launch) (tag : BitVec 16) (key : W64) : Bool :=
  !e.captured && !e.waits && e.slice.isNone && e.part == r.part && e.vf == r.vf && e.stream == r.stream && e.tag == tag && e.wid == key &&
    decide (1 ≤ (r.seq - e.estgen).toNat) && decide ((r.seq - e.estgen).toNat ≤ e.life)

/-- A work-item of a block that is placed later and comes before block `i` has the key: in Solstice mode it wins (R34). -/
def Launch.outranked (r : Launch) (i : Nat) (key : W64) : Bool :=
  r.solstice && r.held.any (fun h => decide (h.1 < i) && (List.range r.wsize).any (fun t => r.key h.1 t == key))

/-- The estate that a heir entry of a work-item takes: none; or one was there, and is claimed already (`some none`) (R34). -/
def State.heirLookup (s : State) (r : Launch) (i : Nat) (tag : BitVec 16) (key : W64) : Option (Option Estate) :=
  let xs := s.estates.filter (fun e => e.matches r tag key)
  if r.took.contains (tag, key) || xs.any (·.claimed) then some none
  else
    match xs.head? with
    | none => none
    | some e => if r.outranked i key then some none else some (some e)

/-- The estates that the work-items of block `i` find in the directory, each once (R331). -/
def State.blockEstates (s : State) (r : Launch) (i : Nat) : List Estate :=
  if s.estates.isEmpty then []
  else
    ((List.range r.wsize).flatMap (fun t => (r.heirs.filter (· != 0)).filterMap (fun tag =>
      match s.heirLookup r i tag (r.key i t) with
      | some x => x
      | none => none))).eraseDups

/-- The preferred core: the one that holds the most of a list of estates, the lowest on a tie (R331). -/
def preferred (es : List Estate) : Option Nat :=
  let count (c : Nat) : Nat := (es.filter (fun e => e.core == c)).length
  (es.map (·.core)).foldl (fun acc c =>
    match acc with
    | none => some c
    | some d => if count d < count c || (count d = count c && c < d) then some c else some d) none

/-! ## Birth -/

/-- What a lane has inherited so far: ESTQ words, estates that give registers. -/
structure Heir where
  s : State
  estq : List (Nat × W32) := []
  gifts : List Estate := []

/-- An ESTQ record (R299). -/
def estqWord (tag : BitVec 16) (nreg : Nat) (lost : Bool) (status : Nat) : W32 :=
  BitVec.ofNat 32 (65536 * tag.toNat + 256 * nreg + (if lost then 4 else 0) + status)

/-- One heir entry of a work-item (R33, R34, R299, R332): `l` the launch, `i` the block, `c` its core, `top` the budget in
registers. -/
def Heir.entry (h : Heir) (l i c top : Nat) (key : W64) (n : Nat) : Heir :=
  match h.s.launch? l with
  | none => h
  | some r =>
    let tag := r.heirs.getD n 0
    if tag = 0 then h
    else
      match h.s.heirLookup r i tag key with
      | none => { h with estq := Sparse.set 0 h.estq n (estqWord tag 0 false 0) }
      | some none => { h with estq := Sparse.set 0 h.estq n (estqWord tag 0 true 0) }
      | some (some e) =>
        let got := (e.regs.filter (fun x => decide (x.1 < top))).length
        let s := h.s.updLaunch l (fun r => { r with inherited := r.inherited + 1, took := r.took ++ [(tag, key)] })
        let es :=
          if e.core = c then s.estates.filter (fun x => x.order != e.order)
          else s.estates.map (fun (x : Estate) => if x.order = e.order then { x with claimed := true } else x)
        let s : State := { s with estates := es }
        { s := s, gifts := h.gifts ++ [e]
          estq := Sparse.set 0 h.estq n (estqWord tag got false (if got = e.regs.length then 1 else 2)) }

/-- The estate that gives register `x`: of several, a free choice (log entry 65). -/
def giver (gifts : List Estate) (k x : Nat) : Option Estate :=
  let gs := gifts.filter (fun e => e.regs.any (fun y => y.1 == x))
  gs[if gs.length ≤ 1 then 0 else Config.freePick (k + x) gs.length % gs.length]?

/-- The inherited registers of a lane (R33, R332): in place when the estate lay on the core, pending otherwise. -/
def Lane.inherit (x : Lane) (gifts : List Estate) (k c top : Nat) : Lane :=
  let rs := ((gifts.flatMap (fun e => e.regs.map (·.1))).filter (fun n => decide (n < top))).eraseDups
  rs.foldl (fun x n =>
    match giver gifts k n with
    | none => x
    | some e =>
      let v := Sparse.get Reg.zero e.regs n
      if e.core = c then x.setReg n v else { x with pend := x.pend ++ [{ reg := n, val := v }] }) x

/-- Work-item `t` of block `i` is born on core `c` (R8, R18, R22, R33). -/
def State.bearItem (s : State) (l i c top t : Nat) : State × Lane :=
  match s.launch? l with
  | none => (s, {})
  | some r =>
    let key := r.key i t
    let h := (List.range 8).foldl (fun (h : Heir) n => h.entry l i c top key n) { s := s }
    let (k, s) := if h.gifts.length ≤ 1 then (0, h.s) else h.s.takeFree 256
    let x : Lane := { wid := key, key := r.seed ^^^ key, estq := h.estq }
    (s, x.inherit h.gifts k c top)

/-- Group `j` of block `i` is born (R18, R47): `bid` its block. -/
def State.bearGroup (s : State) (l i c bid j : Nat) (role : Nat) (ro : Role) (regs : List (Nat × W32)) (due : List Due) : State :=
  match s.launch? l with
  | none => s
  | some r =>
    let items := (List.range 32).filter (fun x => decide (32 * j + x < r.wsize))
    let (s, ls) := items.foldl (fun (acc : State × List Lane) x =>
      let (s, y) := acc.1.bearItem l i c (8 * ro.budget) (32 * j + x)
      (s, acc.2 ++ [y])) (s, [])
    let occ := maskOf (fun x => decide (32 * j + x < r.wsize))
    let gid := s.ticks
    let s : State := { s with ticks := s.ticks + 1 }
    let g : Group :=
      { blk := bid, grp := j, role := role, stage := if r.gang then role else 0, budget := ro.budget, occ := occ, path := occ, em := occ
        pc := ro.entry, lanes := ls ++ List.replicate (32 - ls.length) {}, s := regs, due := due
        a := Sparse.set {} [] 0 (s.argReg r.part r.argBase r.argSize) }
    s.bear gid c g (s.onCore c).isEmpty

/-- The record of block `i` of launch `l` (R15, R23, R25, R317, R341, R377, R383). -/
def Launch.block (r : Launch) (s : State) (l i c : Nat) : Block :=
  let (x, y, z) := r.coords i
  { part := r.part, core := c, launch := some l, x := x, y := y, z := z, nx := r.nx, ny := r.ny, nz := r.nz, index := i
    launchId := r.launchId, gen := r.gen, estgen := r.seq, vf := r.owner, seed := r.seed, solstice := r.solstice, quantum := r.quantum
    willTags := r.wills.map (·.1), pgt := r.pgt, reserved := r.need, bwdog := (s.part r.part).wdogdef, base := r.base
    root := some l, ticket := [i], nodesSeen := s.nodesNow r.part }

/-- Block `i` of launch `l` is born on core `c`, whole (R16, R317, R330, R332). A word of the argument block that cannot be read at
birth does as R422 says of a node's (log entry 66). -/
def State.bearBlock (s : State) (l i c : Nat) (r : Launch) (own : List Nat) : State :=
  let s := s.makeRoom c r.need own s.estates.length
  let bid := s.ticks
  let b := r.block s l i c
  let s' : State := { s with ticks := s.ticks + 1 }
  let s := (s'.setBlock bid b).updLaunch l (fun r => { r with live := r.live + 1 })
  let s := s.cacheRange r.part r.argBase (min r.argSize 32)
  let (ws, bad) := s.argWords (r.base.getD s.mem) r.part r.argBase r.argSize 0
  let due : List Due :=
    match bad with
    | none => []
    | some (va, e) => [{ kind := .job, code := e.code, eaddr := va, einfo := addrInfo e.level e.mal 0 }]
  r.groups.zipIdx.foldl (fun s x => s.bearGroup l i c bid x.2 x.1.1 x.1.2 ws due) s

/-! ## Placement -/

/-- Whether core `c` is the choice of R341 for block `i`. -/
def State.chosenCore (s : State) (r : Launch) (own : List Nat) : Option Nat :=
  s.fewest ((partCores s.dev r.part).filter (fun c => s.eligible r.part c r.groups.length r.need own))

/-- Held block `h` of a launch can be placed on core `c` now (R331): on its preferred core while the window runs, by the ordinary rules
when it is over. -/
def State.heldFits (s : State) (r : Launch) (c : Nat) (h : Nat × Nat × Bool) : Bool :=
  let own := (s.blockEstates r h.1).map (·.order)
  if h.2.2 then s.chosenCore r own == some c
  else h.2.1 == c && s.eligible r.part c r.groups.length r.need own

/-- Place block `i`, and clear the marks' override when a core is eligible again (R342). -/
def State.place (s : State) (l i c : Nat) (r : Launch) : State := s.bearBlock l i c r ((s.blockEstates r i).map (·.order))

/-- The next block in line meets core `c` (R331, R341): placed there, held for its preferred core, or left. With a window of 0 there is no
preferred core (log entry 117). -/
def State.placeNext (s : State) (l c : Nat) (r : Launch) : State :=
  let i := r.nextBlk
  let es := s.blockEstates r i
  let own := es.map (·.order)
  let onward (s : State) : State := s.updLaunch l (fun r => { r with nextBlk := i + 1 })
  match (if r.affinity = 0 then none else preferred es) with
  | some pref =>
    if s.eligible r.part pref r.groups.length r.need own then (if c = pref then (onward s).place l i c r else s)
    else s.updLaunch l (fun r => { r with nextBlk := i + 1, held := r.held ++ [(i, pref, false)] })
  | none => if s.chosenCore r own = some c then (onward s).place l i c r else s

/-- BLOCK_PLACEMENT (R341): a held block first; a block that no core can take holds up those after it. -/
def execBlockPlacement (l c : Nat) (s : State) : Host.Outcome State Fault Refusal :=
  match s.launch? l with
  | none => .next s
  | some r =>
    if !r.started || r.finished || !s.partActive r.part || !(partCores s.dev r.part).contains c then .next s
    else
      let s := s.consume
      match r.held.find? (s.heldFits r c) with
      | some h => .next ((s.updLaunch l (fun r => { r with held := r.held.filter (fun x => x.1 != h.1) })).place l h.1 c r)
      | none =>
        if r.held.any (fun h => h.2.2) || decide (r.hi ≤ r.nextBlk) then .next s
        else .next (s.placeNext l c r)

/-- The first open affinity window ends. -/
def endWindow : List (Nat × Nat × Bool) → List (Nat × Nat × Bool)
  | [] => []
  | h :: t => if h.2.2 then h :: endWindow t else (h.1, h.2.1, true) :: t

/-- AFFINITY_WINDOW_EXPIRY (R331): the window of the block held longest ends. -/
def execAffinityWindowExpiry (l : Nat) (s : State) : Host.Outcome State Fault Refusal :=
  match s.launch? l with
  | none => .next s
  | some r =>
    .next (s.updLaunch l (fun _ => { r with held := endWindow r.held }))

/-! ## Marks -/

/-- CORE_HOT_MARK (R342): the threshold is of the core. -/
def execCoreHotMark (c t : Nat) (s : State) : Host.Outcome State Fault Refusal :=
  .next (if (s.core c).threshold ≤ t then s.updCore c (fun r => { r with hot := true, temp := max r.temp t }) else s)

/-- A core is marked, hot or by its quad's droop (R342). -/
def State.coreMarked (s : State) (c : Nat) : Bool := (s.core c).hot || (s.quad (Sys2Proof.Machine.quadOf c)).droopy

/-- The marks of a partition count again when one of its cores is not marked (R342): a mark has cleared, or it has gained such a core. -/
def State.endOverrides (s : State) : State :=
  { s with parts := Table.mapAll s.parts (fun p r =>
      if r.override && (partCores s.dev p).any (fun c => !s.coreMarked c) then { r with override := false } else r) }

/-- CORE_HOT_CLEAR (R342): the sensor has read at least 6 degrees below the threshold for 50 us. -/
def execCoreHotClear (c : Nat) (s : State) : Host.Outcome State Fault Refusal :=
  .next (if (s.core c).temp + 6 ≤ (s.core c).threshold then
    (s.updCore c (fun r => { r with hot := false })).endOverrides else s)

/-- The supervisor sets the threshold of a core, from 70 to 105 degrees (R342). -/
def State.setThreshold (s : State) (c t : Nat) : State :=
  if 70 ≤ t ∧ t ≤ 105 then s.updCore c (fun r => { r with threshold := t }) else s

/-- DROOP_DETECT (R342). -/
def execDroopDetect (q : Nat) (s : State) : Host.Outcome State Fault Refusal :=
  .next (s.updQuad q (fun r => { r with droopy := true }))

/-- DROOP_MARK_EXPIRY (R342). -/
def execDroopMarkExpiry (q : Nat) (s : State) : Host.Outcome State Fault Refusal :=
  .next (s.updQuad q (fun r => { r with droopy := false })).endOverrides

/-- THERMAL_MARK_OVERRIDE (R342): every core of the partition, which has some, is marked. -/
def execThermalMarkOverride (p : Nat) (s : State) : Host.Outcome State Fault Refusal :=
  let cores := partCores s.dev p
  .next (if !cores.isEmpty && cores.all s.coreMarked && (Table.get? s.parts p).isSome then s.updPart p (fun r => { r with override := true }) else s)

end Sys2Proof.Machine
end

