-- ==== Sys2Proof/Machine/Spindle.lean ====
section
/-! DEFINITION. The Spindle (R304, R338 to R340): graphs accepted from GLAUNCH, and the walker's steps. -/

namespace Sys2Proof.Machine

/-! ## Acceptance -/

/-- The virtual function number under which the graph streams of a die stand (R340; log entry 67). -/
def graphVf (die : Nat) : Nat := Config.vfs + die

/-- The lowest free graph stream of a die (R340). -/
def State.freeGraphStream (s : State) (die : Nat) : Option Nat :=
  (List.range 8).find? (fun k => (s.stream (graphVf die) k).walker.isNone)

/-- A GLAUNCH job of the die arrived at the Spindle earlier and waits (R340). -/
def State.graphAhead (s : State) (j : Job) : Bool :=
  s.jobs.any (fun k => (match k.2.kind with | .glaunch _ => true | _ => false) && k.2.st == .running &&
    dieOf k.2.quad == dieOf j.quad && decide (k.2.order < j.order))

/-- A running GLAUNCH job whose graph is good takes a stream: it credits 4 bytes and completes (R304). -/
def State.acceptGraph (s : State) (id : Nat) (j : Job) (addr : W64) : State :=
  if s.graphAhead j then s
  else
    match s.freeGraphStream (dieOf j.quad) with
    | none => s
    | some k =>
      let owner := match s.block? j.blk with | some b => b.vf | none => 0
      ((s.addWalker (s.jobView j) j.part (graphVf (dieOf j.quad)) k owner addr none (j.quantum.map (fun q => (j.blk, q)))).creditJob j 4).endJob
        id true

/-- SPINDLE_ACCEPT_GRAPH (R252, R304, R338, R340): a job reads the view of its block (R385). -/
def execSpindleAcceptGraph (id : Nat) (s : State) : Host.Outcome State Fault Refusal :=
  match s.job? id with
  | none => .next s
  | some j =>
    match j.kind with
    | .glaunch addr =>
      if j.st != .running || !s.jobsRun j then .next s
      else
        match s.checkGraph (s.jobView j) j.part (BitVec.ofNat 64 addr) with
        | .fault va perm => .next (s.parkJob id j va.toNat perm)
        | .bad k => .next (s.failJob id 0x280 k)
        | .invalid o => .next (s.failJob id 0x186 o)
        | .good _ => .next (s.acceptGraph id j (BitVec.ofNat 64 addr))
    | _ => .next s

/-! ## The walker -/

/-- The commit that carried the GLAUNCH of a graph has not been released (R384). -/
def State.graphWaits (s : State) (r : Walker) : Bool :=
  match r.after with
  | none => false
  | some (b, k) =>
    match s.block? b with
    | none => false
    | some x => x.commits.any (fun c => c.quantum == k && !c.released)

/-- The node at which a walker stands, of kind `kind`, when its partition runs: every access that precedes the GLAUNCH happens before
those of the entry node (R304), and a replicated graph waits for its start barrier (R351). A node that cannot be read holds the walker (log entry 68). -/
def State.walkerAt (s : State) (w kind : Nat) : Option (Walker × List Byte) :=
  match s.walker? w with
  | none => none
  | some r =>
    if !s.partActive r.part || !r.started || s.graphWaits r then none
    else
      match s.graphBytes s.mem r.part (graphNode r.desc r.node) 32 with
      | .bytes bs => if descField bs 0 1 = kind then some (r, bs) else none
      | _ => none

/-- Every launch that the graph has started has finished (R339). -/
def State.graphIdle (s : State) (r : Walker) : Bool :=
  r.launches.all (fun l => match s.launch? l with | some x => x.finished | none => true)

/-- A graph ends with a status (R338 to R340): its completion word, then the record of the packet that named it; the stream is
free. The word SEQ of that record is a free value (log entry 69). -/
def State.endGraph (s : State) (w : Nat) (r : Walker) (status : Nat) : State :=
  let va := match s.graphBytes s.mem r.part r.desc 64 with | .bytes bs => pktAddr bs 0x10 | _ => 0
  let word := bytesOfNat 4 status ++ bytesOfNat 4 r.kernels
  let s :=
    match s.deviceWrite r.part va word with
    | some s' => s'
    | none => s.event { code := 0x20A, part := r.part, vf := if r.vf < Config.vfs then r.vf else 0xFF, eaddr := va
                        detail := BitVec.ofNat 32 (streamDetail r.vf r.stream + 256 * status + 65536) }
  let s :=
    match r.record with
    | none => s
    | some compl =>
      let (k, s) := s.takeFree 1
      s.writeRecord r.part r.vf r.stream compl 0 (recordBytes 0 (Config.freeWord k) 0 0 0 0 0 0)
  { s with walkers := Table.del s.walkers w }.updStream r.vf r.stream (fun x => { x with walker := none })

/-- The walker moves to a node. -/
def State.walkTo (s : State) (w node : Nat) : State :=
  { s with walkers := Table.upd s.walkers w (fun r => { r with node := node }) }

/-- A packet that a kernel node names and that a graph may not name is refused as a bad field (log entry 70). -/
def State.checkNodePacket (s : State) (r : Walker) (bs : List Byte) : Verdict :=
  if pktKind bs ≠ 1 then .refuse 1 0
  else if pktRepl bs || pktPgt bs then .refuse 1 1
  else s.checkPacket r.part r.vf r.stream bs

/-- SPINDLE_KERNEL_NODE (R339): the node's OVERLAP takes the place of the packet's. -/
def execSpindleKernelNode (w : Nat) (s : State) : Host.Outcome State Fault Refusal :=
  match s.walkerAt w 1 with
  | none => .next s
  | some (r, nd) =>
    let overlap := (descField nd 1 1).testBit 0
    if !overlap && !s.predecessorDone r.vf r.stream then .next s
    else
      match s.virtBytes r.part 2 (pktAddr nd 0x10) 128 with
      | none => .next (s.endGraph w r 3)
      | some bs =>
        match s.checkNodePacket r bs with
        | .refuse st o => .next ((s.plainRecord r.part r.vf r.stream (pktCompl bs) st o).endGraph w r 3)
        | .mute => .next ((s.muteRecord r.part r.vf r.stream (pktCompl bs)).endGraph w r 3)
        | .pass =>
          let (s, l) := s.startPacket r.part r.vf r.stream r.owner (some w) overlap bs
          .next { s with walkers := Table.upd s.walkers w (fun r => { r with
            kernels := r.kernels + 1, launches := r.launches ++ [l], node := descField nd 4 4 }) }

/-- The condition word of a node; none: it cannot be read, and the walker waits (log entry 68). -/
def State.condition (s : State) (r : Walker) (nd : List Byte) : Option Nat :=
  match s.graphBytes s.mem r.part (pktAddr nd 0x10) 4 with
  | .bytes bs => some (natOfBytes bs)
  | _ => none

/-- SPINDLE_CONDITIONAL_NODE (R339). -/
def execSpindleConditionalNode (w : Nat) (s : State) : Host.Outcome State Fault Refusal :=
  match s.walkerAt w 2 with
  | none => .next s
  | some (r, nd) =>
    if !s.graphIdle r then .next s
    else
      match s.condition r nd with
      | none => .next s
      | some v => .next (s.walkTo w (if v = 0 then descField nd 8 4 else descField nd 4 4))

/-- SPINDLE_WHILE_NODE (R339): the graph ends with status 2 when NEXT has been taken MAXIT times (log entry 71). -/
def execSpindleWhileNode (w : Nat) (s : State) : Host.Outcome State Fault Refusal :=
  match s.walkerAt w 3 with
  | none => .next s
  | some (r, nd) =>
    if !s.graphIdle r then .next s
    else
      match s.condition r nd with
      | none => .next s
      | some v =>
        if v = 0 then .next (s.walkTo w (descField nd 8 4))
        else
          let n := Sparse.get 0 r.counts r.node + 1
          if n = descField nd 0xC 4 then .next (s.endGraph w r 2)
          else
            let s : State := { s with walkers := Table.upd s.walkers w (fun r => { r with counts := Sparse.set 0 r.counts r.node n }) }
            .next (s.walkTo w (descField nd 4 4))

/-- SPINDLE_END_NODE (R339). -/
def execSpindleEndNode (w : Nat) (s : State) : Host.Outcome State Fault Refusal :=
  match s.walkerAt w 4 with
  | none => .next s
  | some (r, _) => .next (if s.graphIdle r then s.endGraph w r 0 else s)

end Sys2Proof.Machine
end

