-- ==== Sys2Proof/Machine/Preempt.lean ====
section
/-! DEFINITION. Pre-emption: the end of a slice (R374), the save (R50, R374, R375), resumption (R376, R391), the supervisor's commands
(R407), loans and their recall (R403, R404). -/

namespace Sys2Proof.Machine

/-! ## Quiescence -/

/-- Issue stops in a partition, and the results of its groups land (R374 steps 1 and 2). -/
def State.stopPart (s : State) (p : Nat) : State :=
  let s := s.updPart p (fun r => { r with st := .quiescing })
  { s with groups := Table.mapAll s.groups (fun _ g => if s.partOf g = p then g.landAll else g) }

/-- SLICE_END (R374). -/
def execSliceEnd (p : Nat) (s : State) : Host.Outcome State Fault Refusal :=
  .next (if s.partActive p && (Table.get? s.parts p).isSome then s.stopPart p else s)

/-- The destination of a job's next unit: an address in memory or in a tile. -/
def State.destOf (s : State) (j : Job) : Nat :=
  match j.kind with
  | .cpy mode h _ row0 _ _ addr pitch rb =>
    let (r, o) := cpyPlace rb j.off
    (match mode with | .t2g => addr + r * pitch + o | _ => let _ := h; (row0 + r) * rb + o)
  | .gather sc _ row0 e rb ls => if sc then (ls.getD j.off (0, 0)).2 else row0 * rb + (ls.getD j.off (0, 0)).1 * e
  | .coll _ _ _ _ _ dst => let _ := s; dst + 4 * j.off
  | _ => 0

/-- A running copy or collective goes on to the next 64-byte line of its destination (R374 step 3); at most `n` units. -/
def State.toLine (s : State) (id : Nat) : Nat → State
  | 0 => s
  | n + 1 =>
    match s.job? id with
    | none => s
    | some j =>
      if j.st != .running || decide (j.total ≤ j.off) || decide (s.destOf j % 64 = 0) then s else (s.landJob id 1).toLine id n

/-- A job becomes a held replay entry, or waits for one (R369, R374). -/
def State.holdJob (s : State) (id : Nat) (q : Nat) : State :=
  match s.pickEntry q with
  | (s, some e) => (s.takeEntry q e id).updJob id (fun j => { j with st := .held (some e) })
  | (s, none) => s.updJob id (fun j => { j with st := .held none })

/-- How quiescence ends one job (R374 step 3, R264). A rollback becomes an entry of the base-die memory logic. -/
def State.quiesceJob (s : State) (id : Nat) : State :=
  match s.job? id with
  | none => s
  | some j =>
    if j.st != .running then s
    else
      match j.kind with
      | .cpy .. | .gather .. | .coll .. =>
        let s := s.toLine id 64
        (match s.job? id with
         | some j => if j.st != .running then s else if j.finished then s.completeJob id j else s.holdJob id j.quad
         | none => s)
      | .mma .. => if j.finished then s.completeJob id j else s.holdJob id j.quad
      | .ckroll .. => if j.finished then s.completeJob id j else s.updJob id (fun j => { j with st := .held none })
      | .glaunch _ => s.updJob id (fun j => { j with st := .queued })
      | _ =>
        let s := s.landJob id j.total
        (match s.job? id with
         | some j => if j.finished then s.completeJob id j else s
         | none => s)

/-- The jobs of a list, in their order, end as quiescence has it. -/
def State.quiesceJobs (s : State) (ids : List Nat) : State := ids.foldl State.quiesceJob s

/-- A group is saved (R46, R50): its context leaves the core, and its reservations are cleared, but not in Solstice mode (R320). -/
def Group.save (g : Group) (sol : Bool) : Group :=
  let g : Group := { g.toHeart sol with yielded := false, moveDue := false }
  match g.st with
  | .active | .parked => { g with st := .saved none }
  | .waiting w => { g with st := .saved (some w) }
  | _ => g

/-- No fetch of an estate is in flight in the groups that satisfy `mine` (R333). -/
def State.noFetches (s : State) (mine : Group → Bool) : Bool := s.groups.all (fun g => !mine g.2 || fetchesLanded g.2)

/-- The groups that satisfy `mine` are saved. -/
def State.saveGroups (s : State) (mine : Group → Bool) : State :=
  { s with groups := Table.mapAll s.groups (fun _ g => if mine g then g.save (s.isSolstice g.blk) else g) }

/-- The translations that a quad holds are wiped before it serves another partition than `p` (R404; log entry 103). -/
def State.wipeTlb (s : State) (q p : Nat) : State :=
  match (s.quad q).served with
  | some o => if o = p then s else { s with parts := Table.upd s.parts o (fun r => { r with tlb := [] }) }
  | none => s

/-- A quad gives up its state (R404): it takes that of `r`, whose droop mark and owner stay the quad's. -/
def State.setQuadState (s : State) (q : Nat) (r : Quad) (p : Nat) : State :=
  (s.wipeTlb q p).updQuad q (fun x => { r with droopy := x.droopy, served := some p })

/-- Bytes of the save area (R375). -/
def saveBytes (quads : Nat) : Nat := 24 * 2^20 * quads + 2^20

/-- The bytes that stand in a save area at `base` of partition `p` (R375). -/
def saveArea (m : List Host.Cell) (d : Device) (p base : Nat) : List Byte :=
  (List.range (saveBytes (partQuads d p).length)).map (fun i =>
    match sysAddr d p ((base + i) % 2^52) with
    | some a => readByte m a
    | none => 0)

/-- The digest of the save area of partition `p` as it stands (R375). -/
def State.areaDigest (s : State) (p : Nat) : Digest := Config.sha512 (saveArea s.mem s.dev p (s.part p).savebase.toNat)

/-- What the save writes to its area, whose layout belongs to the Felward (R375): free values (log entry 72). -/
def State.writeSave (s : State) (p : Nat) : State :=
  let n := saveBytes (partQuads s.dev p).length
  let (k, s) := s.takeFree n
  let base := (s.part p).savebase.toNat
  s.storeCells ((List.range n).filterMap (fun i =>
    (sysAddr s.dev p ((base + i) % 2^52)).map (fun a => (a, BitVec.ofNat 8 (Config.freeWord (k + i)).toNat)))) none

/-- The quads of a partition with their state, in order. -/
def State.quadStates (s : State) (qs : List Nat) : List (Nat × Quad) := qs.map (fun q => (q, s.quad q))

/-- Jobs of the blocks that satisfy `mine`, by order of acceptance is by number. -/
def State.jobsOf (s : State) (mine : Nat → Bool) : List Nat := (s.jobs.filter (fun j => mine j.2.blk)).map (·.1)

/-- The block belongs to partition `p` and is in no detached slice. -/
def State.ofPart (s : State) (p b : Nat) : Bool :=
  match s.block? b with
  | some r => r.part == p && r.detached.isNone
  | none => false

/-- The quiesced state of a partition is saved (R374 step 4), the base die keeps a digest of it (R375), and the partition becomes
SAVED. -/
def State.savePart (s : State) (p : Nat) : State :=
  let s := s.quiesceJobs (s.jobsOf (s.ofPart p))
  let s := s.writeSave p
  let s := s.saveGroups (fun g => s.ofPart p g.blk)
  let qs := partQuads s.dev p
  let kept := s.quadStates qs
  let s := qs.foldl (fun s q => s.setQuadState q {} p) s
  s.updPart p (fun r => { r with st := .saved, savedQuads := kept, digest := some (s.areaDigest p) })

/-- PREEMPT_SAVE (R374): estate fetches land first (R333). -/
def execPreemptSave (p : Nat) (s : State) : Host.Outcome State Fault Refusal :=
  .next (if (s.part p).st == .quiescing && s.noFetches (fun g => s.ofPart p g.blk) then s.savePart p else s)

/-! ## Resumption -/

/-- The quad that takes the place of `q` when the quads `old` become the quads `new`, in order (R376). -/
def quadFor (old new : List Nat) (q : Nat) : Nat :=
  match (old.zip new).find? (fun x => x.1 == q) with
  | some x => x.2
  | none => q

/-- The core that takes the place of a core. -/
def coreFor (old new : List Nat) (c : Nat) : Nat :=
  quadFor old new (c / Config.coresPerQuad) * Config.coresPerQuad + c % Config.coresPerQuad

/-- A saved group comes back (R46, R376): PARKED or WAITING; outside Solstice mode its fairness count restarts (R391). -/
def Group.restore (g : Group) (sol : Bool) : Group :=
  let g : Group := { g with fair := if sol then g.fair else 0 }
  match g.st with
  | .saved none => { g with st := .parked }
  | .saved (some w) => { g with st := .waiting w }
  | _ => g

/-- Insert a group by age. -/
def insertAge (x : Nat × Group) : List (Nat × Group) → List (Nat × Group)
  | [] => [x]
  | y :: r => if x.2.age < y.2.age then x :: y :: r else y :: insertAge x r

/-- A restored group takes a residency slot and the next age of its core (R321, R407). -/
def State.seatGroup (s : State) (gid : Nat) (g : Group) : State :=
  match s.block? g.blk with
  | none => s
  | some b =>
    let (k, s) := s.takeFree 1
    let g : Group := { g.restore b.solstice with slot := s.freeSlot b.core k, age := (s.core b.core).nextAge }
    (s.setGroup gid g).updCore b.core (fun r => { r with nextAge := r.nextAge + 1 })

/-- EINFO of a due ENGINE_XLATE names the replay entry that its job holds now (R252, R376). -/
def State.renumber (s : State) (id e : Nat) (j : Job) : State :=
  let perm := match j.fault with | some f => f.2 | none => false
  { s with groups := Table.mapAll s.groups (fun _ g => { g with due := g.due.map (fun d =>
      if d.job = some id then { d with einfo := engineInfo j e perm } else d) }) }

/-- A job's entry on its new quad (R376): a held job resumes, a parked one stays parked. -/
def State.restoreJob (s : State) (id : Nat) : State :=
  match s.job? id with
  | none => s
  | some j =>
    match j.st with
    | .held _ => s.updJob id (fun j => { j with st := .running })
    | .parked (some _) =>
      (match s.pickEntry j.quad with
       | (s, some e) => ((s.takeEntry j.quad e id).updJob id (fun j => { j with st := .parked (some e) })).renumber id e j
       | (s, none) => s)
    | _ => s

/-- Saved work comes back onto the quads `new`, in the order of `old` (R376): `mine` its blocks, `slice` its detached slice. -/
def State.restoreWork (s : State) (p : Nat) (old : List (Nat × Quad)) (new : List Nat) (slice : Option Nat) : State :=
  let from' := old.map (·.1)
  let mine (b : Block) : Bool := b.part == p && b.detached == slice
  let ids := (s.blocks.filter (fun b => mine b.2)).map (·.1)
  let s := (old.zip new).foldl (fun s x => s.setQuadState x.2 { x.1.2 with replay := [] } p) s
  let s : State := { s with
    blocks := Table.mapAll s.blocks (fun _ b => if mine b then { b with core := coreFor from' new b.core, detached := none } else b)
    estates := s.estates.map (fun (e : Estate) =>
      if e.part = p && e.slice = slice then { e with core := coreFor from' new e.core, slice := none } else e)
    nodes := Table.mapAll s.nodes (fun _ n =>
      if n.part = p && slice.isNone then { n with homeQuad := quadFor from' new n.homeQuad } else n)
    jobs := Table.mapAll s.jobs (fun _ j => if ids.contains j.blk then { j with quad := quadFor from' new j.quad } else j) }
  let gs := (s.groups.filter (fun g => ids.contains g.2.blk && g.2.st != .retired)).foldl (fun acc g => insertAge g acc) []
  let s := gs.foldl (fun s g => s.seatGroup g.1 g.2) s
  let s := (s.jobsOf ids.contains).foldl State.restoreJob s
  new.foldl State.serveQuad s

/-- A SAVED partition comes back (R376). -/
def State.resumePart (s : State) (p : Nat) : State :=
  let old := (s.part p).savedQuads
  let s := s.updPart p (fun r => { r with st := .running, savedQuads := [] })
  s.restoreWork p old (partQuads s.dev p) none

/-! ## Commands of the supervisor -/

/-- Fields of a PCMD write (R407): OP, PART, CORE, SLOT, LAUNCH. -/
def pcmdOp (v : W64) : Nat := v.toNat % 16
def pcmdPart (v : W64) : Nat := v.toNat / 2^8 % 256
def pcmdCore (v : W64) : Nat := v.toNat / 2^16 % 512
def pcmdSlot (v : W64) : Nat := v.toNat / 2^25 % 64
def pcmdLaunch (v : W64) : W32 := BitVec.ofNat 32 (v.toNat / 2^32)

/-- The other bits are 0 (R407). -/
def pcmdClean (v : W64) : Bool := v.toNat / 16 % 16 == 0 && v.toNat / 2^31 % 2 == 0

/-- The write is no command of OP `k`, or the device takes none (R415). -/
def State.pcmdOff (s : State) (v : W64) (k : Nat) : Bool := pcmdOp v != k || s.dev.life == .cold

/-- What PCMDSTAT reports: 0 done, 1 refused (R407). -/
def State.pcmdDone (s : State) (refused : Bool) : State := { s with dev := { s.dev with pcmdstat := if refused then 1 else 0 } }

/-- The group that a command names (R407). -/
def State.pcmdGroup (s : State) (v : W64) : Option (Nat × Group) :=
  (s.onCore (pcmdCore v)).find? (fun g =>
    g.2.slot == pcmdSlot v && s.partOf g.2 == pcmdPart v &&
      (match s.block? g.2.blk with | some b => b.launchId == pcmdLaunch v | none => false))

/-- PCMD_RESUME_GROUP (R368, R407): the group goes on at the PC of the second fault, at supervisor level. -/
def execPcmdResumeGroup (v : W64) (s : State) : Host.Outcome State Fault Refusal :=
  if s.pcmdOff v 1 then .next s
  else
    match s.pcmdGroup v with
    | some (gid, g) =>
      if !pcmdClean v || g.st ≠ .halted then .next (s.pcmdDone true)
      else
        .next ((s.setGroup gid (g.seatedAt (s.seatFor (s.coreOf g) g.budget true) s.ticks)).pcmdDone false)
    | none => .next (s.pcmdDone true)

/-- PCMD_TERMINATE_BLOCK (R367, R407): the event names the group of the command. -/
def execPcmdTerminateBlock (v : W64) (s : State) : Host.Outcome State Fault Refusal :=
  if s.pcmdOff v 2 then .next s
  else
    match s.pcmdGroup v with
    | some (gid, g) =>
      if !pcmdClean v then .next (s.pcmdDone true)
      else .next ((s.terminateBlock g.blk gid g.ecause.toNat g.epc g.eaddr g.einfo).pcmdDone false)
    | none => .next (s.pcmdDone true)

/-- CORE, SLOT and LAUNCH of a command are 0. -/
def pcmdBare (v : W64) : Bool := pcmdClean v && pcmdCore v == 0 && pcmdSlot v == 0 && pcmdLaunch v == 0

/-- PCMD_PREEMPT_PARTITION (R374, R407). -/
def execPcmdPreemptPartition (v : W64) (s : State) : Host.Outcome State Fault Refusal :=
  if s.pcmdOff v 3 then .next s
  else
    let p := pcmdPart v
    if pcmdBare v && s.partActive p && (Table.get? s.parts p).isSome then .next ((s.stopPart p).pcmdDone false)
    else .next (s.pcmdDone true)

/-- PCMD_RESUME_PARTITION (R375, R376, R407): onto the same number of quads. What PCMDSTAT reports when the digest does not match is
not stated: the event says it (log entry 73). -/
def execPcmdResumePartition (v : W64) (refused : Bool) (s : State) : Host.Outcome State Fault Refusal :=
  if s.pcmdOff v 4 then .next s
  else
    let p := pcmdPart v
    let r := s.part p
    let able := s.dev.life != .cold && (r.st == .saved || r.st == .suspended) &&
      r.savedQuads.length == (partQuads s.dev p).length
    if !pcmdBare v || !able then .next (s.pcmdDone true)
    else if r.digest == some (s.areaDigest p) then .next ((s.resumePart p).pcmdDone false)
    else .next ((s.event { code := 0x202, part := p }).pcmdDone refused)

/-- PCMD_DISCARD_SLICE (R403, R407): the blocks of the detached slices terminate, those of one launch where LAUNCH is set. A slice goes
when no block is left of it; with LAUNCH 0 every slice does, one that holds estates or Lathe state alone too. What a lender's loan keeps
is no detached slice. -/
def execPcmdDiscardSlice (v : W64) (s : State) : Host.Outcome State Fault Refusal :=
  if s.pcmdOff v 5 then .next s
  else
    let p := pcmdPart v
    let mine := ((s.part p).slices.map (fun sl => some sl.id))
    let hit (b : Block) : Bool :=
      b.part == p && mine.contains b.detached && !b.gone && (pcmdLaunch v == 0 || b.launchId == pcmdLaunch v)
    let ids := (s.blocks.filter (fun b => hit b.2)).map (·.1)
    let every := pcmdLaunch v == 0
    let named (sl : Slice) : Bool := every || ids.any (fun i => ((s.block? i).bind (·.detached)) == some sl.id)
    let hitOne := if every then !(s.part p).slices.isEmpty else !ids.isEmpty
    let goes := (s.part p).slices.filter named
    if !pcmdClean v || pcmdCore v ≠ 0 || pcmdSlot v ≠ 0 || !hitOne then .next (s.pcmdDone true)
    else
      let s := ids.foldl State.killBlock s
      let left (sl : Slice) : Bool := !goes.contains sl || s.blocks.any (fun b => b.2.detached == some sl.id && !b.2.gone)
      let dropped := ((s.part p).slices.filter (fun sl => !left sl)).map (·.id)
      let s := s.updPart p (fun r => { r with slices := r.slices.filter left })
      let lost := s.estates.filter (fun e => match e.slice with | some k => dropped.contains k | none => false)
      .next ((lost.foldl State.discard s).pcmdDone false)

/-! ## Loans -/

/-- A quad holds nothing of its partition (R400, R404): no group, block, estate, job or node of it lies there, and its Lathe is as
after reset. -/
def State.quadEmpty (s : State) (q : Nat) : Bool :=
  let here (c : Nat) : Bool := Sys2Proof.Machine.quadOf c == q
  !s.blocks.any (fun b => here b.2.core && s.resides b.2 && !b.2.gone) &&
    !s.estates.any (fun e => here e.core && s.onChip e.part && e.slice.isNone) &&
    !s.jobs.any (fun j => j.2.quad == q && (match s.block? j.2.blk with | some b => s.resides b | none => true)) &&
    !s.nodes.any (fun n => n.2.homeQuad == q && s.onChip n.2.part) && (s.quad q).lathe == {}

/-- Quads that a lender can lend: its own, not lent yet (R403). -/
def lendable (d : Device) (p : Nat) : List Nat := (partQuads d p).filter (fun q => ownerOf d q == p)

/-- Choose `n` of a list of quads, a free choice (log entry 11). -/
def pickQuads (k : Nat) : Nat → List Nat → List Nat
  | 0, _ => []
  | n + 1, qs =>
    match qs[Config.freePick (k + n) qs.length % max 1 qs.length]? with
    | none => []
    | some q => q :: pickQuads k n (qs.filter (· != q))

/-- A detached slice of `n` quads of partition `p` resumes on the quads `qs` (R403). -/
def State.resumeSlice (s : State) (p : Nat) (qs : List Nat) : State :=
  match (s.part p).slices.find? (fun x => x.quads.length == qs.length) with
  | none => s
  | some sl =>
    if (s.part p).st != .running then s
    else
      let s := s.updPart p (fun r => { r with slices := r.slices.filter (fun x => x.id != sl.id) })
      s.restoreWork p sl.quads qs (some sl.id)

/-- The block lies on one of the quads `qs`. -/
def State.onQuads (s : State) (qs : List Nat) (b : Nat) : Bool :=
  match s.block? b with
  | some r => qs.contains (Sys2Proof.Machine.quadOf r.core) && s.resides r
  | none => false

/-- The blocks `ids` leave their quads as slice `id`, by the steps of R374 (R403). -/
def State.detach (s : State) (ids : List Nat) (id : Nat) : State :=
  let s : State := { s with groups := Table.mapAll s.groups (fun _ g => if ids.contains g.blk then g.landAll else g) }
  let s := s.quiesceJobs (s.jobsOf ids.contains)
  let s := s.saveGroups (fun g => ids.contains g.blk)
  { s with blocks := Table.mapAll s.blocks (fun b r => if ids.contains b then { r with detached := some id } else r) }

/-- The blocks on the quads `qs`. -/
def State.blocksOn (s : State) (qs : List Nat) : List Nat := (s.blocks.filter (fun b => s.onQuads qs b.1)).map (·.1)

/-- Estates and captured wills of partition `p` on the quads `qs`. -/
def State.estatesOf (s : State) (p : Nat) (qs : List Nat) : List Estate :=
  s.estates.filter (fun e => e.part == p && qs.contains (Sys2Proof.Machine.quadOf e.core) && e.slice.isNone)

/-- One of a list, a free choice (log entry 11). -/
def State.pickOne (s : State) (xs : List Nat) : State × Option Nat :=
  let (k, s) := s.takeFree 1
  (s, xs[Config.freePick k xs.length % max 1 xs.length]?)

/-- The pending registers of a lane land (R333). -/
def Lane.landPend (x : Lane) : Lane := { (x.pend.foldl (fun x p => x.setReg p.reg p.val) x) with pend := [] }

/-- The estate fetches of the blocks that satisfy `mine` land (R333). -/
def State.landFetches (s : State) (mine : Nat → Bool) : State :=
  ({ s with groups := Table.mapAll s.groups (fun _ g => if mine g.blk then { g with lanes := g.lanes.map Lane.landPend } else g) }).consume

/-- An estate moves to one of the cores `cs` that has a slot for it (R404, R327); none: no core has. -/
def State.moveEstate (s : State) (cs : List Nat) (e : Estate) : Option State :=
  let fits (c : Nat) : Bool := (s.estatesOn c).length % 8 != 0 || decide (0 < s.freeHeart c)
  match s.pickOne (cs.filter fits) with
  | (_, none) => none
  | (s, some c) => some (s.updEstate e.order (fun x => { x with core := c }))

/-- A node moves, with its records and its slot, to one of the quads `qs` whose Chuck has room for it (R404, R344); none: no quad has. -/
def State.moveNode (s : State) (qs : List Nat) (i : Nat) : Option State :=
  match s.node? i with
  | none => some s
  | some n =>
    let fits (q : Nat) : Bool :=
      decide (s.chuckHeld q + n.bin.length ≤ Config.chuckRecords) && (!n.inSlot || decide ((s.slotted q).length < Config.nodeSlots))
    match s.pickOne (qs.filter fits) with
    | (_, none) => none
    | (s, some q) => some (s.updNode i (fun n => { n with homeQuad := q }))

/-- The estates and the nodes of partition `p` move from the quads `qs` to its other quads (R404). Those that find no room there are saved
with the loan `id`: an estate in its slice, a node where it is (log entry 74). -/
def State.vacate (s : State) (p : Nat) (qs : List Nat) (id : Nat) : State :=
  let rest := (partQuads s.dev p).filter (fun q => !qs.contains q)
  let homes := rest.filter (fun q => !(lentTo s.dev p).contains q)
  let cores := rest.flatMap (fun q => (List.range Config.coresPerQuad).map (q * Config.coresPerQuad + ·))
  let nodes := (s.nodes.filter (fun n => n.2.part == p && qs.contains n.2.homeQuad)).map (·.1)
  let save (s : State) (e : Estate) : State := s.updEstate e.order (fun x => { x with slice := some id })
  let s := (s.estatesOf p qs).foldl (fun s e => (s.moveEstate cores e).getD (save s e)) s
  nodes.foldl (fun s i => (s.moveNode homes i).getD s) s

/-- A loan of the quads `qs` begins (R403, R404): estate fetches land, the lender's work on them is saved and kept for their return, the
rest of its state there moves or is saved with it; they are wiped, and a detached slice of the borrower resumes on them. -/
def State.lendQuads (s : State) (lender borrower deadline : Nat) (qs : List Nat) : State :=
  let id := s.ticks
  let s := ({ s with ticks := s.ticks + 1 }).landFetches (s.onQuads qs)
  let s := s.vacate lender qs id
  let s := s.detach (s.blocksOn qs) id
  let loan : Loan := { lender := lender, borrower := borrower, quads := qs, deadline := deadline, slice := id, kept := s.quadStates qs }
  let s : State := { s with dev := { s.dev with loans := s.dev.loans ++ [loan] } }
  let s := qs.foldl (fun s q => s.setQuadState q {} borrower) s
  (s.resumeSlice borrower qs).endOverrides

/-- LEND (R403): which quads are lent is a free choice (log entry 11). Nothing happens where the fields are out of range, or where the
lender does not run or would keep fewer than two quads (log entry 74). -/
def execLend (v : W64) (s : State) : Host.Outcome State Fault Refusal :=
  let n := v.toNat
  let lender := n % 256
  let borrower := n / 2^8 % 256
  let count := n / 2^16 % 256
  let deadline := n / 2^24 % 65536
  let parts := (Table.get? s.parts lender).isSome && (Table.get? s.parts borrower).isSome && lender != borrower
  let own := lendable s.dev lender
  if s.dev.life != .full || !parts || count = 0 || deadline < 100 || own.length < count ||
      !s.partActive lender || !s.onChip borrower || (partQuads s.dev lender).length < count + 2 then .next s
  else
    let (k, s') := s.takeFree count
    .next (s'.consume.lendQuads lender borrower deadline (pickQuads k count own))

/-- Quads that the lender has back from a loan take up its work again (R403, R404): at once, or with the rest when the lender, SAVED
meanwhile, is resumed. -/
def State.giveBack (s : State) (l : Loan) : State :=
  if s.onChip l.lender then s.restoreWork l.lender l.kept l.quads (some l.slice)
  else
    ({ s with
        blocks := Table.mapAll s.blocks (fun _ b => if b.detached = some l.slice then { b with detached := none } else b)
        estates := s.estates.map (fun (e : Estate) => if e.slice = some l.slice then { e with slice := none } else e) }).updPart
      l.lender (fun r => { r with savedQuads := r.savedQuads ++ l.kept })

/-- The recall of a loan (R403, R404): the borrower's work on the quads is saved as a detached slice, and the quads return. -/
def State.recall (s : State) (l : Loan) : State :=
  let id := s.ticks
  let ids := s.blocksOn l.quads
  let es := s.estatesOf l.borrower l.quads
  let s := ({ s with ticks := s.ticks + 1 }).detach ids id
  let kept := s.quadStates l.quads
  let s : State := { s with
    estates := s.estates.map (fun (e : Estate) => if es.any (fun x => x.order == e.order) then { e with slice := some id } else e)
    dev := { s.dev with loans := s.dev.loans.filter (fun x => x != l) } }
  let s := l.quads.foldl (fun s q => s.setQuadState q {} l.lender) s
  let s :=
    if ids.isEmpty && es.isEmpty && kept.all (fun q => q.2.lathe == {}) then s
    else s.updPart l.borrower (fun r => { r with slices := r.slices ++ [{ id := id, quads := kept }] })
  ((s.giveBack l).event { code := 0x201, part := l.borrower }).endOverrides

/-- LEND_RECALL (R403): the lender's oldest loan; estate fetches land first. -/
def execLendRecall (p : Nat) (s : State) : Host.Outcome State Fault Refusal :=
  match s.dev.loans.find? (fun l => l.lender == p) with
  | none => .next s
  | some l => .next (if s.noFetches (fun g => s.onQuads l.quads g.blk) then s.recall l else s)

end Sys2Proof.Machine
end

