-- ==== Sys2Proof/Machine/Layout.lean ====
section
/-! DEFINITION. The partition layout: the checks of PREPARE (R400), the journal (R399, R401), capacity moves (R402), retirement of
hardware (R405). -/

namespace Sys2Proof.Machine

/-! ## Rows -/

/-- Channel groups of the blocks that satisfy `mine` in a block map, as a matrix row (R400). -/
def rowFor (bmap : List (Nat × Nat)) (mine : Nat → Bool) : W64 :=
  bmap.foldl (fun acc x => if mine (x.2 % 256) then acc ||| BitVec.ofNat 64 (2^(x.1 / 6)) else acc) 0

/-- The row that R400 asks of requester `r` (R395): a quad's is its owner's; a collective engine's the union over the partitions of
its die; of another shared port the union over all. -/
def wantedRow (pown bmap : List (Nat × Nat)) (r : Nat) : W64 :=
  let owner (q : Nat) : Nat := Sparse.get 0xFF pown q
  if r < 80 then rowFor bmap (fun p => p != 0xFF && p == owner r)
  else if r < 88 then rowFor bmap (fun p => p != 0xFF && (List.range 10).any (fun i => owner ((r - 80) * 10 + i) == p))
  else rowFor bmap (fun p => p != 0xFF)

/-- The matrix that follows from owners and blocks. -/
def wantedRows (pown bmap : List (Nat × Nat)) : List (Nat × W64) :=
  (List.range Config.ports).foldl (fun m r => Sparse.set 0 m r (wantedRow pown bmap r)) []

/-! ## PREPARE -/

/-- Quads of a partition in the shadow layout, absent ones apart (R416). -/
def shadowQuads (d : Device) (p : Nat) : List Nat :=
  (d.spown.filter (fun x => x.2 == p && decide (x.1 < 80) && !d.absent.contains x.1)).map (·.1)

/-- Check 1 (R400): whoever holds quads or blocks is one of 40 partitions and has at least 2 quads (log entry 75). -/
def prepare1 (d : Device) : Bool :=
  let owners := (d.spown.filter (fun x => decide (x.1 < 80) && decide (x.2 < 0xFE))).map (·.2)
  let holders := (d.sbmap.filter (fun x => x.2 % 256 != 0xFF)).map (fun x => x.2 % 256)
  (owners ++ holders).eraseDups.all (fun p => decide (p < Config.partitions) && decide (2 ≤ (shadowQuads d p).length))

/-- Check 2 (R400): the block indices of a partition are dense from 0. -/
def prepare2 (d : Device) : Bool :=
  let holders := ((d.sbmap.filter (fun x => x.2 % 256 != 0xFF)).map (fun x => x.2 % 256)).eraseDups
  holders.all (fun p =>
    let idx := (d.sbmap.filter (fun x => x.2 % 256 == p)).map (fun x => x.2 / 256)
    (List.range idx.length).all idx.contains)

/-- Check 3 (R400). -/
def prepare3 (d : Device) : Bool := (List.range Config.ports).all (fun r => Sparse.get 0 d.scm r == wantedRow d.spown d.sbmap r)

/-- Check 4 (R400): no quad in use changes owner, and no block of a partition changes. A lent quad is in use (log entry 75). -/
def State.prepare4 (s : State) : Bool :=
  let quadOk (q : Nat) : Bool :=
    let old := ownerOf s.dev q
    old == Sparse.get 0xFF s.dev.spown q || decide (0xFE ≤ old) ||
      (!s.dev.loans.any (fun l => l.quads.contains q) && (!s.onChip old || s.quadEmpty q))
  let blockOk (k : Nat) : Bool :=
    let old := bmapEntry s.dev k
    old == Sparse.get 0xFF s.dev.sbmap k || old % 256 == 0xFF
  (List.range 80).all quadOk && (List.range Config.blocks).all blockOk

/-- The code of the first check that fails (R400). -/
def State.prepareFails (s : State) : Option Nat :=
  if !prepare1 s.dev then some 1 else if !prepare2 s.dev then some 2 else if !prepare3 s.dev then some 3
  else if !s.prepare4 then some 4 else none

/-- LCMD_PREPARE (R399, R400). -/
def execLcmdPrepare (s : State) : Host.Outcome State Fault Refusal :=
  if s.dev.life == .cold || s.dev.journal ≠ .done then .next s
  else
    match s.prepareFails with
    | some c => .next { s with dev := { s.dev with jerr := c } }
    | none => .next { s with dev := { s.dev with journal := .prepared } }

/-! ## FLIP -/

/-- The shadow is reloaded from the active layout (R399). -/
def reloadShadow (d : Device) : Device := { d with scm := d.cm, spown := d.pown, sbmap := d.bmap }

/-- A whole commit of the management processor's own (R398, R399): the layout with these owners and blocks becomes active, SEQ rises,
and the shadow follows. -/
def commitLayout (d : Device) (pown bmap : List (Nat × Nat)) : Device :=
  reloadShadow { d with pown := pown, bmap := bmap, cm := wantedRows pown bmap, jseq := d.jseq + 1, attested := false }

/-- Active and shadow layout change places (R399). -/
def swapLayout (d : Device) : Device :=
  { d with cm := d.scm, scm := d.cm, pown := d.spown, spown := d.pown, bmap := d.sbmap, sbmap := d.bmap, attested := false }

/-- Every partition that holds a quad or a block has a record (R357: reset is the value after a partition is created), and a
partition that holds neither has none. -/
def State.fixParts (s : State) : State :=
  let holds (p : Nat) : Bool := s.dev.pown.any (fun x => x.2 == p && decide (x.1 < 80)) || s.dev.bmap.any (fun x => x.2 % 256 == p)
  let s : State := { s with parts := s.parts.filter (fun x => holds x.1 || x.2.st == .suspended) }
  (List.range Config.partitions).foldl (fun s p =>
    if holds p && (Table.get? s.parts p).isNone then { s with parts := Table.put s.parts p {} } else s) s

/-- Quads that changed hands are wiped before they serve their new partition (R404), and a detached slice of as many quads as a
partition gained resumes on them (R403). -/
def State.serveNew (s : State) (before : Device) : State :=
  let changed := (List.range 80).filter (fun q => holderOf before q != holderOf s.dev q)
  let s := changed.foldl (fun s q => s.setQuadState q {} (holderOf s.dev q)) s
  (List.range Config.partitions).foldl (fun s p =>
    let gained := changed.filter (fun q => holderOf s.dev q == p)
    if gained.isEmpty then s else s.resumeSlice p gained) s

/-- LCMD_FLIP (R399). -/
def execLcmdFlip (s : State) : Host.Outcome State Fault Refusal :=
  if s.dev.life == .cold || s.dev.journal ≠ .prepared then .next s
  else
    let old := s.dev
    let s : State := { s with dev := { swapLayout s.dev with journal := .flipped } }
    .next ((s.fixParts).serveNew old).endOverrides

/-! ## Capacity moves -/

/-- The donor's `n` highest blocks: index and number, ascending (R402). -/
def topBlocks (d : Device) (p n : Nat) : List (Nat × Nat) :=
  let bs := partBlocks d p
  bs.filter (fun b => decide (bs.length ≤ b.1 + n))

/-- A marked checkpoint region lies in one of a list of blocks (R402). -/
def State.marksIn (s : State) (p : Nat) (bs : List (Nat × Nat)) : Bool :=
  (s.part p).marks.any (fun m => m.2.granules.any (fun g => bs.any (fun b => g * ckBytes / Config.blockBytes == b.2)))

/-- Why a move fails now (R402): CAPSTAT. -/
def State.capFails (s : State) (m : CapMove) : Option Nat :=
  if (partBlocks s.dev m.donor).length < (s.part m.donor).bmin + m.n then some 1
  else if s.marksIn m.donor (topBlocks s.dev m.donor m.n) then some 3
  else none

/-- Every virtual function bound to a partition. -/
def State.vfsOf (s : State) (p : Nat) : List Nat := (s.vfs.filter (fun v => v.2.bind == p)).map (·.1)

/-- Change every virtual function of a partition. -/
def State.updVfs (s : State) (p : Nat) (f : Vf → Vf) : State := (s.vfsOf p).foldl (fun s v => s.updVf v f) s

/-- A move ends with a result. -/
def State.capEnd (s : State) (m : CapMove) (st : Nat) : State :=
  ({ s with dev := { s.dev with capmove := none, capstat := st } }).updVfs m.donor (fun r => { r with capack := false })

/-- CAPREQ: KIND and the block count (R402; log entry 76). -/
def capreqWord (kind n : Nat) : W64 := BitVec.ofNat 64 (kind + 65536 * n)

/-- The two commits of a move (R402 steps 3 and 4): the blocks are freed and zeroed, then appended to the receiver's indices. -/
def State.capCommit (s : State) (m : CapMove) : State :=
  let bs := topBlocks s.dev m.donor m.n
  let keep (x : Nat × Nat) : Bool := !bs.any (fun b => b.2 == x.1)
  let freed := s.dev.bmap.filter keep
  let s := bs.foldl (fun s b => s.zero (b.2 * Config.blockBytes) Config.blockBytes) s
  let first := (partBlocks s.dev m.receiver).length
  let bmap := bs.zipIdx.foldl (fun acc x => Sparse.set 0xFF acc x.1.2 (256 * (first + x.2) + m.receiver)) freed
  let s : State := { s with dev := commitLayout (commitLayout s.dev s.dev.pown freed) s.dev.pown bmap }
  s.updVfs m.receiver (fun r => { r with capreq := capreqWord 2 m.n })

/-- A move whose donor has acknowledged goes ahead when the journal is at DONE (R402). -/
def State.capRun (s : State) : State :=
  match s.dev.capmove with
  | none => s
  | some m =>
    if s.dev.journal ≠ .done || !(s.vfsOf m.donor).any (fun v => (s.vf v).capack) then s
    else
      match s.capFails m with
      | some c => s.capEnd m c
      | none => (s.capCommit m).capEnd m 0

/-- CAPMOVE (R402). -/
def execCapmove (v : W64) (s : State) : Host.Outcome State Fault Refusal :=
  let n := v.toNat
  let m : CapMove := { donor := n % 256, receiver := n / 2^8 % 256, n := n / 2^16 % 512 }
  let parts := (Table.get? s.parts m.donor).isSome && (Table.get? s.parts m.receiver).isSome && m.donor != m.receiver
  if s.dev.life != .full || n / 2^25 ≠ 0 || !parts || m.n = 0 || s.dev.capmove.isSome then .next s
  else
    match s.capFails m with
    | some c => .next (s.capEnd m c)
    | none =>
      let s : State := { s with dev := { s.dev with capmove := some m } }
      .next (s.updVfs m.donor (fun r => { r with capreq := capreqWord 1 m.n, capack := false }))

/-- CAPACK (R402). -/
def execCapack (v : Nat) (s : State) : Host.Outcome State Fault Refusal :=
  match s.dev.capmove with
  | none => .next s
  | some m => .next (if (s.vf v).bind = m.donor then (s.updVf v (fun r => { r with capack := true })).capRun else s)

/-- CAPMOVE_TIMEOUT (R402). -/
def execCapmoveTimeout (s : State) : Host.Outcome State Fault Refusal :=
  match s.dev.capmove with
  | none => .next s
  | some m => .next (if (s.vfsOf m.donor).any (fun v => (s.vf v).capack) then s else s.capEnd m 2)

/-! ## Physical addresses that move -/

/-- The address after block `old` has moved to block `new`. -/
def movedAddr (old new a : Nat) : Nat :=
  if a / Config.blockBytes = old then new * Config.blockBytes + a % Config.blockBytes else a

/-- A memory after block `old` has moved to block `new`. -/
def movedCells (old new : Nat) (m : List Host.Cell) : List Host.Cell :=
  let here (c : Host.Cell) : Bool := c.1 / Config.blockBytes == old
  writeCells (m.filter (fun c => !here c)) ((m.filter here).map (fun c => (movedAddr old new c.1, c.2)))

/-- A staged operation after the move. -/
def Staged.moved (old new : Nat) : Staged → Staged
  | .write cs => .write (cs.map (fun c => (movedAddr old new c.1, c.2)))
  | .sc pd ls => .sc pd (ls.map (fun x => (x.1, movedAddr old new (16 * x.2.1) / 16, x.2.2.map (fun c => (movedAddr old new c.1, c.2)))))
  | .rmw op u nr n scope vr ls => .rmw op u nr n scope vr (ls.map (fun x => (x.1, movedAddr old new x.2.1, x.2.2)))
  | .cas n scope vr ls => .cas n scope vr (ls.map (fun x => (x.1, movedAddr old new x.2.1, x.2.2)))
  | .dec ls => .dec (ls.map (fun x => (x.1, movedAddr old new x.2)))
  | x => x

/-- A group after the move: the frames of its address registers are partition-physical, and stand. -/
def Group.movedTo (old new : Nat) (g : Group) : Group :=
  { g with staged := g.staged.map (Staged.moved old new)
           lanes := g.lanes.map (fun x => { x with resv := x.resv.map (fun k => movedAddr old new (16 * k) / 16) }) }

/-- Operations of a commit after the move. -/
def movedOps (old new : Nat) (ops : List (Nat × Staged)) : List (Nat × Staged) := ops.map (fun o => (o.1, o.2.moved old new))

/-- A block after the move. -/
def Block.movedTo (old new : Nat) (b : Block) : Block :=
  { b with base := b.base.map (movedCells old new), commits := b.commits.map (fun c => { c with ops := movedOps old new c.ops })
           inbox := b.inbox.map (fun x => (x.1, movedOps old new x.2)) }

/-- A held record after the move. -/
def Held.movedTo (old new : Nat) (h : Held) : Held :=
  { h with place := h.place.map (fun x => (movedAddr old new x.1, x.2))
           batch := h.batch.map (fun b => { b with view := movedCells old new b.view }) }

/-- A marked region after the move. -/
def Marked.movedTo (old new : Nat) (m : Marked) : Marked :=
  let g (k : Nat) : Nat := movedAddr old new (k * ckBytes) / ckBytes
  { m with granules := m.granules.map g
           snaps := m.snaps.map (fun x => (x.1, { x.2 with copied := x.2.copied.map g, old := movedCells old new x.2.old })) }

/-- Block `old` is copied to the free block `new`, with its index kept (R405), in one commit of the layout (R398). -/
def State.relocate (s : State) (old new : Nat) : State :=
  let e := bmapEntry s.dev old
  let bmap := Sparse.set 0xFF (Sparse.set 0xFF s.dev.bmap old 0xFF) new e
  { s with
    mem := movedCells old new s.mem
    badCw := s.badCw.map (fun k => (movedAddr old new (16 * k.1) / 16, k.2))
    groups := Table.mapAll s.groups (fun _ g => g.movedTo old new)
    blocks := Table.mapAll s.blocks (fun _ b => b.movedTo old new)
    nodes := Table.mapAll s.nodes (fun _ n => { n with
      bin := n.bin.map (Held.movedTo old new), segments := n.segments.map (fun x => (x.1, x.2.map (Held.movedTo old new))) })
    launches := Table.mapAll s.launches (fun _ l => { l with base := l.base.map (movedCells old new) })
    parts := Table.mapAll s.parts (fun _ p => { p with marks := Table.mapAll p.marks (fun _ m => m.movedTo old new) })
    dev := commitLayout s.dev s.dev.pown bmap }

/-! ## Retirement -/

/-- A partition that runs is pre-empted at once (R374). -/
def State.saveNow (s : State) (p : Nat) : State :=
  if s.onChip p then
    let s := s.stopPart p
    (s.landFetches (s.ofPart p)).savePart p
  else s

/-- The loans that satisfy `f` are recalled at once (R403). -/
def State.recallNow (s : State) (f : Loan → Bool) : State :=
  (s.dev.loans.filter f).foldl (fun s l => (s.landFetches (s.onQuads l.quads)).recall l) s

/-- A partition is suspended whole (R405): saved, and given no resources; its blocks are zeroed as R402 does, and the loans that it
made or took are over. -/
def State.suspend (s : State) (p : Nat) : State :=
  let s := (s.recallNow (fun l => l.lender == p || l.borrower == p)).saveNow p
  let bs := partBlocks s.dev p
  let s := bs.foldl (fun s b => s.zero (b.2 * Config.blockBytes) Config.blockBytes) s
  let bmap := s.dev.bmap.filter (fun x => x.2 % 256 != p)
  let pown := s.dev.pown.filter (fun x => x.2 != p)
  let s : State := { s with dev := commitLayout s.dev pown bmap }
  (s.updPart p (fun r => { r with st := .suspended })).event { code := 0x200, part := p }

/-- Failed quads of a die, of which its spare takes the place of one (R416); the logical quads that are absent after self-repair: the
last of each die. -/
def failedOn (d : Device) (die : Nat) : Nat :=
  (d.repairs.filter (fun r => match r with | .quad q => dieOf q == die | _ => false)).length
def absentQuads (d : Device) : List Nat :=
  (List.range Config.dies).flatMap (fun die =>
    (List.range Config.quadsPerDie).filterMap (fun i =>
      if Config.quadsPerDie ≤ i + (failedOn d die - 1) then some (Config.quadsPerDie * die + i) else none))

/-- Quads and blocks that remain (R405). -/
def quadsLeft (d : Device) : Nat := Config.dies * Config.quadsPerDie - d.absent.length
def blocksLeft (d : Device) : Nat :=
  Config.blocks - 6 * (d.repairs.filter (fun r => match r with | .channel _ => true | _ => false)).eraseDups.length

/-- Partitions that are not suspended. -/
def State.standing (s : State) : List (Nat × Part) := s.parts.filter (fun x => x.2.st != .suspended)

/-- The minima fit what remains (R405). -/
def State.minimaFit (s : State) : Bool :=
  decide ((s.standing.foldl (fun acc x => acc + x.2.qmin) 0) ≤ quadsLeft s.dev) &&
    decide ((s.standing.foldl (fun acc x => acc + x.2.bmin) 0) ≤ blocksLeft s.dev)

/-- The partition of the lowest admission rank; ties go to the higher number (R405). -/
def lowestRank : List (Nat × Part) → Option (Nat × Part)
  | [] => none
  | x :: r =>
    match lowestRank r with
    | none => some x
    | some y => if x.2.rank < y.2.rank then some x else some y

/-- Suspend partitions until the minima fit; at most `n` (R405). -/
def State.shed (s : State) : Nat → State
  | 0 => s
  | n + 1 =>
    if s.minimaFit then s
    else
      match lowestRank s.standing with
      | none => s
      | some x => (s.suspend x.1).shed n

/-- Blocks that can take the place of a failed one: free, whatever their index field holds, and in no failed channel group (R405). -/
def spareBlocks (d : Device) : List Nat :=
  (List.range Config.blocks).filter (fun k => bmapEntry d k % 256 == 0xFF && !d.repairs.contains (.channel (k / 6)))

/-- An owned block moves to a spare block, if there is one (R405). -/
def State.remapBlock (s : State) (k : Nat) : State :=
  if bmapEntry s.dev k % 256 = 0xFF then s
  else
    match s.pickOne (spareBlocks s.dev) with
    | (s, some n) => s.relocate k n
    | (s, none) => s

/-- The owner of a failed block that finds no spare even so is suspended (log entry 77). -/
def State.dropBlockOf (s : State) (k : Nat) : State :=
  let s := s.remapBlock k
  if bmapEntry s.dev k % 256 = 0xFF then s else s.suspend (bmapEntry s.dev k % 256)

/-- A partition that was pre-empted for a retirement is resumed (R405). -/
def State.resumeNow (s : State) (p : Nat) : State :=
  if (s.part p).st == .saved && (s.part p).savedQuads.length == (partQuads s.dev p).length then s.resumePart p else s

/-- A memory channel group fails (R405): spares first, then the minima, then what is left over. -/
def State.retireChannel (s : State) (m : Nat) : State :=
  let ks := (List.range 6).map (6 * m + ·)
  let owners := ((ks.map (fun k => bmapEntry s.dev k % 256)).filter (· != 0xFF)).eraseDups
  let ran := owners.filter s.onChip
  let s := owners.foldl State.saveNow s
  let s : State := { s with dev := { s.dev with repairs := s.dev.repairs ++ [.channel m] } }
  let s := ((ks.foldl State.remapBlock s).shed Config.partitions)
  let s := ks.foldl State.dropBlockOf s
  ran.foldl State.resumeNow s

/-- The physical quad of logical quad `q` fails (R405): the die's spare takes its place, or the quad is absent from then on (log entry
78). A loan of it is over. No partition is shrunk without an event. -/
def State.retireQuad (s : State) (q : Nat) : State :=
  let s := s.recallNow (fun l => l.quads.contains q)
  let p := holderOf s.dev q
  let spare := decide (failedOn s.dev (dieOf q) = 0)
  let ran := s.onChip p && (Table.get? s.parts p).isSome
  let s := if ran then s.saveNow p else s
  let s : State := { s with dev := { s.dev with repairs := s.dev.repairs ++ [.quad q] } }
  if spare then
    let s : State := { s with dev := { s.dev with remaps := s.dev.remaps ++ [.quad q] } }
    if ran then s.resumeNow p else s
  else
    let owned := (Table.get? s.parts p).isSome
    let d := { s.dev with absent := s.dev.absent ++ [q] }
    let s : State := { s with dev := if owned then commitLayout d (d.pown.filter (fun x => x.1 != q)) d.bmap else d }
    let s := if owned then s.event { code := 0x200, part := p } else s
    s.shed Config.partitions

/-- A retirement takes place (R405). -/
def State.retireNow (s : State) (x : Nat × Bool) : State := if x.2 then s.retireChannel x.1 else s.retireQuad x.1

/-- The journal has come to DONE: retirements that waited take place (R401), and a capacity move goes on (R402). -/
def State.journalDone (s : State) : State :=
  let waiting := s.dev.retiring
  let s : State := { s with dev := { s.dev with retiring := [] } }
  (waiting.foldl State.retireNow s).capRun

/-- QUAD_RETIREMENT (R401, R405). -/
def execQuadRetirement (q : Nat) (chan : Bool) (s : State) : Host.Outcome State Fault Refusal :=
  if s.dev.life != .full || (if chan then decide (Config.memPorts ≤ q) else decide (80 ≤ q)) then .next s
  else
    match s.dev.journal with
    | .done => .next (s.retireNow (q, chan))
    | .prepared =>
      let s : State := { s with dev := { reloadShadow s.dev with journal := .done, jerr := 4 } }
      .next (s.retireNow (q, chan)).capRun
    | .flipped => .next { s with dev := { s.dev with retiring := s.dev.retiring ++ [(q, chan)] } }

/-! ## The journal's other steps -/

/-- A prepared commit is given up (R399). -/
def State.abortLayout (s : State) : State := ({ s with dev := { reloadShadow s.dev with journal := .done } }).journalDone

/-- A flipped layout stands (R399). -/
def State.confirmLayout (s : State) : State :=
  ({ s with dev := { reloadShadow s.dev with journal := .done, jseq := s.dev.jseq + 1 } }).journalDone

/-- LCMD_ABORT (R399). -/
def execLcmdAbort (s : State) : Host.Outcome State Fault Refusal :=
  .next (if s.dev.life != .cold && s.dev.journal = .prepared then s.abortLayout else s)

/-- LAYOUT_CONFIRM (R399). -/
def execLayoutConfirm (s : State) : Host.Outcome State Fault Refusal :=
  .next (if s.dev.journal = .flipped then s.confirmLayout else s)

/-- MP_WATCHDOG_RESET (R399): the journal survives it. -/
def execMpWatchdogReset (s : State) : Host.Outcome State Fault Refusal :=
  match s.dev.journal with
  | .done => .next s
  | .prepared => .next s.abortLayout
  | .flipped => .next s.confirmLayout

end Sys2Proof.Machine
end

