-- ==== Sys2Proof/Machine/Devices.lean ====
section
/-! DEFINITION. The device's registers and their locks (R334, R357, R398, R402, R406, R408, R410, R412), host memory requests (R396,
R397), soft errors (R371), TDISP and attestation (R411 to R413), the life cycle (R414 to R416), the port and the clocks (R2, R409). -/

namespace Sys2Proof.Machine

/-! ## Locks -/

/-- The interface is locked: CONFIG_LOCKED onward (R412). -/
def State.isLocked (s : State) (v : Nat) : Bool := (s.vf v).tdisp != .unlocked

/-- Locked interfaces of a partition. -/
def State.lockedVfs (s : State) (p : Nat) : List Nat := (s.vfsOf p).filter s.isLocked

/-- A per-partition register is locked with its partition (R412): HOSTMEM alone of its word, when the write changes it. -/
def State.partLocked (s : State) (p off : Nat) (v : W64) : Bool :=
  off == 0x00 || off == 0x08 || off == 0x10 || off == 0x30 || off == 0x38 ||
    (off == 0x28 && v.toNat.testBit 24 != (s.part p).hostmem)

/-- The locked interfaces that a register belongs to (R412). -/
def State.lockers (s : State) (r : RegAddr) (x : W64) : List Nat :=
  match r with
  | .vf v off =>
    if 0x1000 ≤ off ∧ off < 0x1200 then (if s.isLocked v then [v] else [])
    else if 0x0800 ≤ off ∧ off < 0x0838 then (match s.vfPart v with | some p => s.lockedVfs p | none => [])
    else []
  | .pf off =>
    if 0x46000 ≤ off ∧ off < 0x46000 + 8 * Config.vfs then (if s.isLocked ((off - 0x46000) / 8) then [(off - 0x46000) / 8] else [])
    else if 0x50000 ≤ off ∧ off < 0x50000 + 0x100 * Config.partitions then
      (if s.partLocked ((off - 0x50000) / 0x100) (off % 0x100) x then s.lockedVfs ((off - 0x50000) / 0x100) else [])
    else []

/-- Offset of a register. -/
def regOffset : RegAddr → Nat
  | .pf off => off
  | .vf _ off => off

/-- A write to a locked register is discarded; the interfaces move to ERROR, and each is reported (R412). -/
def State.lockedWrite (s : State) (r : RegAddr) (vs : List Nat) : State :=
  vs.foldl (fun s v =>
    (s.vfError v).event { code := 0x208, part := (s.vf v).bind, vf := v, detail := BitVec.ofNat 32 (regOffset r) }) s

/-- A write by the host, subject to the locks and to the life cycle: in COLD no register is there (R415). -/
def State.hostWrite (s : State) (r : RegAddr) (x : W64) (f : State → State) : State :=
  if s.dev.life == .cold then s
  else
    match s.lockers r x with
    | [] => f s
    | vs => s.lockedWrite r vs

/-! ## Registers of a virtual function -/

/-- A group of the partition is resident (R357). -/
def State.anyResident (s : State) (p : Nat) : Bool := s.groups.any (fun g => g.2.resident && s.ofPart p g.2.blk)

/-- A write to a stream register (R334): BASE and SLOTS change only while the ring is empty; TAIL has a row of its own. -/
def State.writeStream (s : State) (v n off : Nat) (x : W64) : State :=
  let empty := (s.stream v n).head == (s.stream v n).tail
  match off with
  | 0x00 => if empty then s.updStream v n (fun r => { r with base := BitVec.ofNat 64 (x.toNat / 128 * 128) }) else s
  | 0x08 => if empty then s.updStream v n (fun r => { r with size := x.toNat % 65536 }) else s
  | _ => s

/-- A write to a translation register (R357); TLBSD has a row of its own. -/
def State.writeTranslation (s : State) (p off : Nat) (x : W64) : State :=
  let quiet := !s.anyResident p
  match off with
  | 0x0800 => if quiet then s.updPart p (fun r => { r with troot := BitVec.ofNat 64 (x.toNat % 2^52 / 4096 * 4096) }) else s
  | 0x0808 => if quiet then s.updPart p (fun r => { r with ftwbase := x }) else s
  | 0x0810 => if quiet then s.updPart p (fun r => { r with ftwsize := x }) else s
  | 0x0818 => if quiet then s.updPart p (fun r => { r with poolbase := x }) else s
  | 0x0820 => if quiet then s.updPart p (fun r => { r with poolsize := x }) else s
  | 0x0828 => s.updPart p (fun r => { r with poolnext := x })
  | _ => s

/-! ## Registers of the physical function -/

/-- A write to a shadow register (R398, R399): ignored unless the journal is at DONE. -/
def State.writeShadow (s : State) (off : Nat) (x : W64) : State :=
  let d := s.dev
  if d.journal ≠ .done then s
  else if 0x40400 ≤ off ∧ off < 0x40400 + 8 * Config.ports then
    { s with dev := { d with scm := Sparse.set 0 d.scm ((off - 0x40400) / 8) x } }
  else if 0x40C00 ≤ off ∧ off < 0x40C00 + 8 * Config.ports then
    { s with dev := { d with spown := Sparse.set 0xFF d.spown ((off - 0x40C00) / 8) (x.toNat % 256) } }
  else if 0x42000 ≤ off ∧ off < 0x42000 + 8 * Config.blocks then
    { s with dev := { d with sbmap := Sparse.set 0xFF d.sbmap ((off - 0x42000) / 8) (x.toNat % 2^17) } }
  else s

/-- A write to the event ring's registers and CAPTO (R402, R406): a new head, or a new ring, lets kept events in. -/
def State.writeRing (s : State) (off : Nat) (x : W64) : State :=
  let d := s.dev
  let drained (d : Device) : State := ({ s with dev := d }).drainEvents Config.keptEvents
  match off with
  | 0x43028 => { s with dev := { d with capto := x } }
  | 0x44000 => drained { d with evbase := x }
  | 0x44008 => drained { d with evsize := x.toNat }
  | 0x44018 => drained { d with evhead := x.toNat }
  | _ => s

/-- A write to a per-partition register (R408). -/
def State.writePart (s : State) (p off : Nat) (x : W64) : State :=
  if (Table.get? s.parts p).isNone then s
  else
    match off with
    | 0x00 => s.updPart p (fun r => { r with savebase := x })
    | 0x08 => s.updPart p (fun r => { r with drbase := x })
    | 0x10 => s.updPart p (fun r => { r with drsize := x })
    | 0x28 => s.updPart p (fun r => { r with
        hostmem := x.toNat.testBit 24, rank := x.toNat / 2^16 % 256, bmin := x.toNat / 2^7 % 512, qmin := x.toNat % 128 })
    | 0x30 => s.updPart p (fun r => { r with hvec := x })
    | 0x38 => s.updPart p (fun r => { r with wdogdef := BitVec.ofNat 32 x.toNat })
    | 0x40 =>
      let n := x.toNat % 2^21
      let others := (s.parts.filter (fun y => y.1 != p)).foldl (fun acc y => acc + y.2.nodemax) 0
      if Config.nodeIndices < others + n then s else s.updPart p (fun r => { r with nodemax := n })
    | _ => s

/-- A write to a register that has no row of its own (R412): a register that does not exist ignores it, and so do a read-only and a
read-to-clear one, of which R5 gives the read alone (log entry 100). -/
def State.writeReg (s : State) (r : RegAddr) (x : W64) : State :=
  match r with
  | .vf v off =>
    if Config.vfs ≤ v then s
    else if 0x1000 ≤ off ∧ off < 0x1200 then s.writeStream v ((off - 0x1000) / 0x20) (off % 0x20) x
    else (match s.vfPart v with | some p => s.writeTranslation p off x | none => s)
  | .pf off =>
    if off < 0x43000 then s.writeShadow off x
    else if off < 0x46000 then s.writeRing off x
    else if off < 0x46000 + 8 * Config.vfs then
      if off % 8 = 0 then s.updVf ((off - 0x46000) / 8) (fun r => { r with bind := x.toNat % 256 }) else s
    else if 0x50000 ≤ off ∧ off < 0x50000 + 0x100 * Config.partitions then
      s.writePart ((off - 0x50000) / 0x100) (off % 0x100) x
    else s

/-- REGISTER_WRITE (R412). -/
def execRegisterWrite (r : RegAddr) (x : W64) (s : State) : Host.Outcome State Fault Refusal :=
  .next (s.hostWrite r x (fun s => s.writeReg r x))

/-- SQTAIL_WRITE (R334), a write to a stream register (log entry 79). -/
def execSqtailWrite (v n : Nat) (tail : W32) (s : State) : Host.Outcome State Fault Refusal :=
  if Config.vfs ≤ v || 16 ≤ n then .next s
  else .next (s.hostWrite (.vf v (0x1010 + 0x20 * n)) (tail.zeroExtend 64) (fun s => s.setTail v n tail))

/-- TLBSD_GO (R357, R358): the effect of TLBINV.all (R313) on the partition's cached translations and limits; GO reads 1 until staged accesses have
committed. -/
def execTlbsdGo (v : Nat) (s : State) : Host.Outcome State Fault Refusal :=
  match s.vfPart v with
  | none => .next s
  | some p =>
    .next (s.hostWrite (.vf v 0x0830) 1 (fun s =>
      ((s.dropTlb p (fun _ => true)).dropLimits p (fun _ => true)).updPart p (fun r => { r with tlbsd := s.stagedIn p })))

/-! ## Registers that a read clears -/

/-- LVIOL_READ (R398). -/
def execLviolRead (s : State) : Host.Outcome State Fault Refusal := .next { s with dev := { s.dev with lviol := 0 } }

/-- EVLOST_READ (R406). -/
def execEvlostRead (s : State) : Host.Outcome State Fault Refusal := .next { s with dev := { s.dev with evlost := 0 } }

/-- DRLOST_READ (R408). -/
def execDrlostRead (p : Nat) (s : State) : Host.Outcome State Fault Refusal :=
  .next (if (Table.get? s.parts p).isSome then s.updPart p (fun r => { r with drlost := 0 }) else s)

/-! ## Host memory requests, soft errors -/

/-- A request that R397 refuses: counted and reported. -/
def State.violation (s : State) (p : Nat) : State :=
  ({ s with dev := { s.dev with lviol := s.dev.lviol + 1 } }).event { code := 0x209, part := p }

/-- The active row of requester `r` lets it reach the channel group of block `k` (R397). -/
def rowAllows (d : Device) (r k : Nat) : Bool := (Sparse.get 0 d.cm r).toNat.testBit (k / 6)

/-- HOST_MEM_REQUEST (R396, R397, R409): a read changes nothing by itself; a request lies within one block. A free block reads as zeros
without a check. -/
def execHostMemRequest (x : HdmAddr) (n : Nat) (w : Option (List Byte)) (s : State) : Host.Outcome State Fault Refusal :=
  let o := x.off
  let k := o / Config.blockBytes
  let len := match w with | some bs => bs.length | none => n
  let p := bmapEntry s.dev k % 256
  if s.dev.life != .full || Config.blocks ≤ k || Config.blockBytes < o % Config.blockBytes + len || p = 0xFF then .next s
  else if !rowAllows s.dev (92 + x.port % 2) k || !(s.part p).hostmem then .next (s.violation p)
  else
    match w with
    | none => .next s
    | some bs => .next (s.store o bs none)

/-- STRUCT of an array (R372); none: its table names no such one. -/
def sramStruct : Sram → Option W32
  | .l2 _ => some 2
  | .coreTiles _ => some 3
  | .quadTiles _ => some 4
  | .sapwood _ => some 5
  | .heartwood _ => some 6
  | .lathe _ => some 7
  | .directory _ | .chuck _ | .replay _ => none

/-- The quad that an array belongs to (R3); the L2 belongs to none. -/
def sramQuad : Sram → Option Nat
  | .sapwood c | .heartwood c | .coreTiles c | .directory c => some (c / 4)
  | .quadTiles q | .chuck q | .lathe q | .replay q => some q
  | .l2 _ => none

/-- BANK_FAILED_MARK (R371, R406, R416): the mark, the repair record, the report to the supervisor of the array's partition, with
STRUCT of the array; four free bits for an array to which R372 gives none (log entry 80). -/
def execBankFailedMark (a : Sram) (b : Nat) (s : State) : Host.Outcome State Fault Refusal :=
  if s.dev.failed.contains (a, b) then .next s
  else
    let s : State := { s with dev := { s.dev with failed := s.dev.failed ++ [(a, b)], repairs := s.dev.repairs ++ [.bank a b] } }
    let part := match sramQuad a with | some q => holderOf s.dev q | none => 0xFF
    match sramStruct a with
    | some d => .next (s.event { code := 0x282, part := part, detail := d })
    | none =>
      let (k, s) := s.takeFree 1
      .next (s.event { code := 0x282, part := part, detail := Config.freeWord k &&& 0xF })

/-- SCRUB_PASS (R371): corrected data are written back, detected errors go to counters only; nothing that a program can observe
changes. -/
def execScrubPass (s : State) : Host.Outcome State Fault Refusal := .next s

/-! ## TDISP -/

/-- LOCK_INTERFACE_REQUEST (R411). -/
def execLockInterfaceRequest (v : Nat) (s : State) : Host.Outcome State Fault Refusal :=
  .next (if (s.vf v).tdisp = .unlocked && (s.vfPart v).isSome then s.updVf v (fun r => { r with tdisp := .locked }) else s)

/-- START_INTERFACE_REQUEST (R411). -/
def execStartInterfaceRequest (v : Nat) (s : State) : Host.Outcome State Fault Refusal :=
  .next (if (s.vf v).tdisp = .locked then s.updVf v (fun r => { r with tdisp := .run }) else s)

/-- A context with its registers wiped (R412): vector, predicate, stream, scalar, address, loop and system registers, and what is on
its way to one. -/
def Group.wiped (g : Group) : Group :=
  { g with lanes := g.lanes.map (fun x => { x with regs := [], preds := 1, key := 0, ctr := 0, estq := [], pend := [], badRegs := [],
                                                   badPreds := [], will := none })
           s := [], a := [], lc := [], nest := [], fpstat := 0, qcount := 0, epc := 0, ecause := 0, eaddr := 0, emaskf := 0, emaskIn := 0
           einfo := 0, elpc := 0, windows := [], latch := [], badScal := [], badAddr := [], staged := [] }

/-- A block with its tiles wiped, its watchdog register, its view of memory, and what it would still write (R412). -/
def Block.wiped (b : Block) : Block :=
  { b with tiles := Table.mapAll b.tiles (fun _ t => { t with data := [], bad := [] }), base := b.base.map (fun _ => []), commits := [],
           inbox := [], later := [], bwdog := 0, wdog := 0, compact := b.compact.map (fun c => { c with snaps := [] }) }

/-- The memory, registers, tiles, estates and directory of a partition are wiped (R412), and its nodes with it (R285; log entry 83). -/
def State.wipePart (s : State) (p : Nat) : State :=
  let s := (partBlocks s.dev p).foldl (fun s b => s.zero (b.2 * Config.blockBytes) Config.blockBytes) s
  let s : State := { s with
    groups := Table.mapAll s.groups (fun _ g => if s.partOf g = p then g.wiped else g)
    blocks := Table.mapAll s.blocks (fun _ b => if b.part = p then b.wiped else b)
    launches := Table.mapAll s.launches (fun _ l => if l.part = p then { l with base := l.base.map (fun _ => []) } else l)
    estates := s.estates.filter (fun e => e.part != p)
    nodes := s.nodes.filter (fun n => n.2.part != p) }
  s.updPart p (fun r => { ({} : Part) with
    st := r.st, savedQuads := r.savedQuads, slices := r.slices, digest := r.digest
    ckpool := r.ckpool, nextLaunch := r.nextLaunch })

/-- STOP_INTERFACE_REQUEST (R411, R412). -/
def execStopInterfaceRequest (v : Nat) (s : State) : Host.Outcome State Fault Refusal :=
  let free (s : State) : State := s.updVf v (fun r => { r with tdisp := .unlocked })
  match (s.vf v).tdisp with
  | .unlocked => .next s
  | .locked => .next (free s)
  | .run | .error =>
    match s.vfPart v with
    | none => .next ((free s).endVf v)
    | some p =>
      let others := (s.lockedVfs p).filter (· != v)
      let s := if others.isEmpty then s.wipePart p else s
      .next ((free s).endVf v)

/-- IDE_STREAM_FAILURE (R411). -/
def execIdeStreamFailure (v : Nat) (s : State) : Host.Outcome State Fault Refusal := .next (s.vfError v)

/-- Numbers as words of 8 bytes. -/
def wordBytes (ns : List Nat) : List Byte := ns.flatMap (bytesOfNat 8)

/-- An array as words. -/
def sramWords : Sram → List Nat
  | .sapwood c => [0, c]
  | .heartwood c => [1, c]
  | .coreTiles c => [2, c]
  | .directory c => [3, c]
  | .quadTiles q => [4, q]
  | .chuck q => [5, q]
  | .lathe q => [6, q]
  | .replay q => [7, q]
  | .l2 n => [8, n]

/-- A repair as words. -/
def repairWords : Repair → List Nat
  | .quad q => [1, q, 0]
  | .channel m => [2, m, 0]
  | .bank a b => 3 :: sramWords a ++ [b]
  | .row m r => [4, m, r]
  | .lane n => [5, n, 0]

/-- The registers of a partition that measurement 5 covers for VF `v` (R357, R412, R413): translation and locked registers. -/
def State.lockWords (s : State) (v : Nat) : List Nat :=
  let r := s.part (s.vf v).bind
  [r.troot.toNat, r.ftwbase.toNat, r.ftwsize.toNat, r.poolbase.toNat, r.poolsize.toNat, r.poolnext.toNat, (if r.tlbsd then 1 else 0),
   r.savebase.toNat, r.drbase.toNat, r.drsize.toNat, r.hvec.toNat, r.wdogdef.toNat, (if r.hostmem then 1 else 0), (s.vf v).bind] ++
    (List.range 16).flatMap (fun n => [(s.stream v n).base.toNat, (s.stream v n).size])

/-- Measurement `i` for VF `v` (R413); its form is the model's (log entry 81). -/
def State.measured (s : State) (v i : Nat) : Option (List Byte) :=
  let pairs (xs : List (Nat × Nat)) : List Nat := xs.flatMap (fun x => [x.1, x.2])
  let d := s.dev
  match i with
  | 1 => d.firmware.map (·.1)
  | 2 => d.firmware.map (·.2)
  | 3 => some (wordBytes (d.remaps.flatMap repairWords))
  | 4 => some (wordBytes (pairs d.pown ++ pairs d.bmap ++ pairs (d.cm.map (fun x => (x.1, x.2.toNat))) ++ [d.jseq.toNat]))
  | 5 => if (s.vfPart v).isSome then some (wordBytes (s.lockWords v)) else none
  | _ => none

/-- SPDM_REQUEST (R413): the root of trust signs the digest of the measurement; that of the active layout attests it until the layout
changes (R411; log entry 81). -/
def execSpdmRequest (v i : Nat) (s : State) : Host.Outcome State Fault Refusal :=
  match s.measured v i with
  | none => .next s
  | some bs =>
    let dg := Config.sha512 bs
    let answer : Answer := { vf := v, index := i, digest := dg, sig := Config.ecdsaSign Config.identityKey dg }
    .next { s with dev := { s.dev with spdm := some answer, attested := s.dev.attested || i == 4 } }

/-! ## The life cycle -/

/-- The wipe of a reset and of every change of life-cycle state (R414): only host memory and the repair record are left; the
interface of the step goes on. -/
def State.wipe (s : State) (life : Life) : State :=
  { State.reset with
    mem := s.mem.filter (fun c => decide (hostBase ≤ c.1))
    badCw := s.badCw.filter (fun k => decide (hostBase ≤ 16 * k.1))
    dev := { ({} : Device) with life := life, repairs := s.dev.repairs }
    ticks := s.ticks, agenda := s.agenda, cur := s.cur, free := s.free }

/-- DEVICE_RESET (R414). -/
def execDeviceReset (s : State) : Host.Outcome State Fault Refusal := .next (s.wipe .cold)

/-- Self-repair (R416): the failures that it finds join the repair record, whose remaps it makes; a die that has no spare left comes up
with its last logical quads absent. -/
def selfRepair (d : Device) (found : List Repair) : Device :=
  let d := { d with repairs := d.repairs ++ found.filter (fun r => !d.repairs.contains r) }
  { d with remaps := d.repairs, absent := absentQuads d }

/-- Logical quads of die 0 that are there (R416). -/
def thawQuads (d : Device) : List Nat := (List.range Config.quadsPerDie).filter (fun q => !d.absent.contains q)

/-- The islands of the quads run at 750 MHz in THAW (R415; log entry 101). -/
def thawClocks : List (Nat × Nat) := (List.range 80).map (fun i => (i, 750))

/-- Partition 0 of THAW (R415): the quads of die 0, and L2 as memory, as partition index 0. -/
def State.enterThaw (s : State) (b : Boot) : State :=
  let s := s.wipe .thaw
  let d := { selfRepair s.dev b.found with firmware := some (b.rot.bytes, b.mp.bytes), clocks := thawClocks }
  let pown := (thawQuads d).map (fun q => (q, 0))
  let bmap := [(0, 0)]
  { s with dev := reloadShadow { d with pown := pown, bmap := bmap, cm := wantedRows pown bmap }, parts := [(0, {})] }

/-- A firmware image carries a signature of its SHA-512 digest that verifies (R413). -/
def imageSigned (f : Image) : Bool := Config.ecdsaVerify Config.firmwareKey (Config.sha512 f.bytes) f.sig

/-- The root of trust accepts the images of a start: both are signed (R413). -/
def bootSigned (b : Boot) : Bool := imageSigned b.rot && imageSigned b.mp

/-- FIRMWARE_VERIFY (R413, R415, R416). -/
def execFirmwareVerify (b : Boot) (s : State) : Host.Outcome State Fault Refusal :=
  .next (if s.dev.life = .cold && bootSigned b then s.enterThaw b else s)

/-- LCS_GO (R415). -/
def execLcsGo (s : State) : Host.Outcome State Fault Refusal :=
  .next (if s.dev.life = .thaw then { s with dev := { s.dev with go := true } } else s)

/-- ENTER_FULL (R414, R415): DRAM training and repair have finished. -/
def execEnterFull (s : State) : Host.Outcome State Fault Refusal :=
  if s.dev.life = .thaw && s.dev.go then
    let d := s.dev
    let s := s.wipe .full
    .next { s with dev := { s.dev with trained := true, firmware := d.firmware, remaps := d.remaps, absent := d.absent } }
  else .next s

/-! ## Clocks and the port -/

/-- Voltage and frequency islands (R3), and the nominal arithmetic clock in MHz, at which every island starts (log entry 101). -/
def islands : Nat := 160
def nominalMhz : Nat := 1500

/-- CLOCK_LOWERING (R2): the clock stays lowered until a reset or a change of life-cycle state (log entry 101). -/
def execClockLowering (i mhz : Nat) (s : State) : Host.Outcome State Fault Refusal :=
  .next (if i < islands && mhz < Sparse.get nominalMhz s.dev.clocks i then
    { s with dev := { s.dev with clocks := Sparse.set nominalMhz s.dev.clocks i mhz } } else s)

/-- LINK_TRAINING (R409): 128 GT/s, or down to 64 and 32; x16, or down to x8 and x4. -/
def execLinkTraining (rate width : Nat) (s : State) : Host.Outcome State Fault Refusal :=
  .next (if [128, 64, 32].contains rate && [16, 8, 4].contains width then
    { s with dev := { s.dev with linkRate := rate, linkWidth := width } } else s)

end Sys2Proof.Machine
end

