-- ==== Sys2Proof/Machine/Sfu.lean ====
section
/-! DEFINITION. The special functions (R216): each result is the exact value of the function, rounded once to FP32 with RNE. The
value is computed in fixed point with far more bits than an FP32 result can need, so its rounding is that of the exact value
(log entry 13). -/

namespace Sys2Proof.Machine

/-- floor(π · 2^640). -/
def piFix : Nat := 0x3243f6a8885a308d313198a2e03707344a4093822299f31d0082efa98ec4e6c89452821e638d01377be5466cf34e90c6cc0ac29b7c97c50dd3f84d5b5b54709179216d5d98979fb1bd1310ba698dfb5ac

/-- floor(ln 2 · 2^320). -/
def ln2Fix : Nat := 0xb17217f7d1cf79abc9e3b39803f2f6af40f343267298b62d8a0d175b8baafa2be7b876206debac98

/-- Fraction bits of the series. -/
def sfuBits : Nat := 320

/-- Taylor terms of exp at x (fixed point): `t` is the current term, `k` the next divisor. -/
def expSeries (x : Nat) : Nat → Nat → Nat → Nat
  | 0, _, _ => 0
  | n + 1, k, t => t + expSeries x n (k + 1) (t * x / 2^sfuBits / k)

/-- exp(x) for a fixed-point x of at most 32. -/
def expFix (x : Nat) : Nat := expSeries x 200 1 (2^sfuBits)

/-- Alternating series of sin (start 1) and cos (start 0) at x (fixed point with `b` bits). -/
def trigSeries (b x : Nat) : Nat → Nat → Int → Int
  | 0, _, _ => 0
  | n + 1, k, t => t + trigSeries b x n (k + 2) (-(t * x / 2^b * x / 2^b) / ((k * (k + 1) : Nat) : Int))

/-- Series of atanh: z + z^3/3 + ... (fixed point). -/
def atanhSeries (z2 : Nat) : Nat → Nat → Nat → Nat
  | 0, _, _ => 0
  | n + 1, k, t => t / k + atanhSeries z2 n (k + 2) (t * z2 / 2^sfuBits)

/-- ln of a fixed-point number in [1, 2). -/
def lnFix (m : Nat) : Nat :=
  let z := (m - 2^sfuBits) * 2^sfuBits / (m + 2^sfuBits)
  2 * atanhSeries (z * z / 2^sfuBits) 120 1 z

/-- An inexact positive or negative value rounded to FP32 by RNE; the SFU sets no flag for it (R216). -/
def sfuRound (neg : Bool) (m : Nat) (e : Int) : Nat := (roundFit fmtF32 .rn false false neg m e true).1

/-- The value just inside x towards 0: what sin x and tanh x are, to far below an ulp, for tiny x. -/
def justBelow (neg : Bool) (m : Nat) (e : Int) : Nat := sfuRound neg (m * 2^80 - 1) (e - 80)

/-- FRCP (R216). -/
def fRcp (b : Nat) : Nat × FlagSet :=
  match val fmtF32 b with
  | .nan => (fmtF32.nan, 0)
  | .inf s => (encFin fmtF32 s 0 0, 0)
  | .fin s m e =>
    if m = 0 then (infPat fmtF32 s, flDZ)
    else ((roundFit fmtF32 .rn false false s (2^160 / m) (-e - 160) (decide (2^160 % m ≠ 0))).1, 0)

/-- FRSQ (R216): 1 / sqrt x = sqrt(m * 2^e) / (m * 2^e), by the integer root of 2^k / m. -/
def fRsq (b : Nat) : Nat × FlagSet :=
  match val fmtF32 b with
  | .nan => (fmtF32.nan, 0)
  | .inf s => if s then (fmtF32.nan, flNV) else (0, 0)
  | .fin s m e =>
    if m = 0 then (infPat fmtF32 s, flDZ)
    else if s then (fmtF32.nan, flNV)
    else
      -- x = n * 4^h with n = m or 2m; 1/sqrt x = 2^-h * sqrt(1/n); floor(sqrt(2^240 / n)) = floor(2^120 / sqrt n)
      let (n, h) : Nat × Int := if e % 2 = 0 then (m, e / 2) else (2 * m, (e - 1) / 2)
      let r := isqrt (2^240 / n)
      ((roundFit fmtF32 .rn false false false r (-h - 120) (decide (r * r * n ≠ 2^240))).1, 0)

/-- Fraction bits of the trigonometric reduction. -/
def trigBits : Nat := 448

/-- x modulo π/2 for x = m * 2^e: the quadrant modulo 4 and the remainder in [0, π/2), fixed point with `trigBits` bits. -/
def reduceTrig (m : Nat) (e : Int) : Nat × Nat :=
  -- in fixed point with 639 bits the half circle π/2 is piFix itself taken at 2^641
  let x : Nat := if 0 ≤ e + 641 then m * 2^(e + 641).toNat else m / 2^(-(e + 641)).toNat
  let q := x / piFix
  (q % 4, (x % piFix) / 2^(641 - trigBits))

/-- A signed fixed-point result of the trigonometric series, rounded. -/
def trigRound (v : Int) : Nat := sfuRound (decide (v < 0)) v.natAbs (-(trigBits : Int))

/-- sin of a reduced argument in quadrant q. -/
def trigQuad (q r : Nat) : Int :=
  let sn := trigSeries trigBits r 90 2 r
  let cs := trigSeries trigBits r 90 1 (2^trigBits : Nat)
  match q with
  | 0 => sn
  | 1 => cs
  | 2 => -sn
  | _ => -cs

/-- FSIN (R216). -/
def fSin (b : Nat) : Nat × FlagSet :=
  match val fmtF32 b with
  | .nan => (fmtF32.nan, 0)
  | .inf _ => (fmtF32.nan, flNV)
  | .fin s m e =>
    if m = 0 then (encFin fmtF32 s 0 0, 0)
    else if expo m e < -40 then (justBelow s m e, 0)
    else
      let (q, r) := reduceTrig m e
      let v := trigQuad q r
      (trigRound (if s then -v else v), 0)

/-- FCOS (R216). -/
def fCos (b : Nat) : Nat × FlagSet :=
  match val fmtF32 b with
  | .nan => (fmtF32.nan, 0)
  | .inf _ => (fmtF32.nan, flNV)
  | .fin _ m e =>
    if m = 0 then (0x3F800000, 0)
    else if expo m e < -40 then (justBelow false 1 0, 0)
    else
      let (q, r) := reduceTrig m e
      (trigRound (trigQuad ((q + 1) % 4) r), 0)

/-- FEXP2 (R216). -/
def fExp2 (b : Nat) : Nat × FlagSet :=
  match val fmtF32 b with
  | .nan => (fmtF32.nan, 0)
  | .inf s => if s then (0, 0) else (infPat fmtF32 false, 0)
  | .fin s m e =>
    -- |x| in fixed point; exact, because e is at least -149
    let x : Int := if 0 ≤ e then (m * 2^(min e.toNat 40) * 2^sfuBits : Nat) else (m * 2^(e + sfuBits).toNat : Nat)
    let x := if s then -x else x
    let n := x / (2^sfuBits : Nat)
    let fr := (x % (2^sfuBits : Nat)).toNat
    if 128 ≤ n then (infPat fmtF32 false, flOF ||| flNX)
    else if n < -150 || (n = -150 && fr = 0) then (0, flUF ||| flNX)
    else if fr = 0 then ((roundFit fmtF32 .rn false false false 1 n false).1, 0)
    else (sfuRound false (expFix (fr * ln2Fix / 2^sfuBits)) (n - sfuBits), 0)

/-- FLOG2 (R216). -/
def fLog2 (b : Nat) : Nat × FlagSet :=
  match val fmtF32 b with
  | .nan => (fmtF32.nan, 0)
  | .inf s => if s then (fmtF32.nan, flNV) else (infPat fmtF32 false, 0)
  | .fin s m e =>
    if m = 0 then (infPat fmtF32 true, flDZ)
    else if s then (fmtF32.nan, flNV)
    else
      let n := expo m e
      let fr := m * 2^(sfuBits - Nat.log2 m)
      if fr = 2^sfuBits then
        (if n = 0 then (0, 0) else ((roundFit fmtF32 .rn false false (decide (n < 0)) n.natAbs 0 false).1, 0))
      else
        let v : Int := n * (2^sfuBits : Nat) + (lnFix fr * 2^sfuBits / ln2Fix : Nat)
        (sfuRound (decide (v < 0)) v.natAbs (-(sfuBits : Int)), 0)

/-- FTANH (R216). -/
def fTanh (b : Nat) : Nat × FlagSet :=
  match val fmtF32 b with
  | .nan => (fmtF32.nan, 0)
  | .inf s => ((if s then 0x80000000 else 0) + 0x3F800000, 0)
  | .fin s m e =>
    if m = 0 then (encFin fmtF32 s 0 0, 0)
    else if expo m e < -40 then (justBelow s m e, 0)
    else if 4 ≤ expo m e then (justBelow s 1 0, 0)
    else
      let x2 := m * 2^(e + 1 + sfuBits).toNat
      let y := expFix x2
      (sfuRound s ((y - 2^sfuBits) * 2^sfuBits / (y + 2^sfuBits)) (-(sfuBits : Int)), 0)

end Sys2Proof.Machine
end

