-- ==== Sys2Proof/Machine/VecFloat.lean ====
section
/-! DEFINITION. Float forms in lanes (R209 to R216): each element by Float.lean and Sfu.lean. -/

namespace Sys2Proof.Machine

/-- Elements of a register of a float type (R209). -/
def floatElems (t : FTy) (w : W32) : List Nat :=
  match t with
  | .f32 => [w.toNat]
  | _ => [w.toNat % 2^16, w.toNat / 2^16]

/-- Element results packed in a register with the type's tag. -/
def packFloats (t : FTy) (rs : List (Nat × FlagSet)) : LaneOut :=
  let v := rs.foldr (fun r acc => r.1 + 2^(ftyFmt t).bits * acc) 0
  ([⟨BitVec.ofNat 32 v, ftyTag t⟩], rs.foldl (fun acc r => acc ||| r.2) 0)

/-- The rounding mode of a form in a group (R120). -/
def modeIn (g : Group) (rm : Rm) : RMode := rmodeOf rm (fpRm g.fpstat) 0

/-- A form of two registers, element by element. -/
def float2 (t : FTy) (op : Nat → Nat → Nat × FlagSet) (a b : W32) : LaneOut :=
  packFloats t ((floatElems t a).zipWith op (floatElems t b))

/-- FADD, FSUB, FMUL on an A or I word (R209, R210): the I forms are FP32 under RNE. -/
def laneF2 (op : Fmt → RMode → Bool → Nat → Nat → Nat × FlagSet) (o : OpAI) (m : FMode) (g : Group) (_ : Nat) (x : Lane) : LaneOut :=
  match o with
  | .a f => float2 m.ty (op (ftyFmt m.ty) (modeIn g m.rm) m.ftz) (x.reg f.a.toNat).val (x.reg f.b.toNat).val
  | .i f => float2 .f32 (op fmtF32 .rn m.ftz) (x.reg f.a.toNat).val f.imm

def floatDst (o : OpAI) : Nat :=
  match o with
  | .a f => f.d.toNat
  | .i f => f.d.toNat

def execFadd (o : OpAI) (m : FMode) (s : State) : Host.Outcome State Fault Refusal :=
  run (.fadd o m) (vecBody (floatDst o) (laneF2 fAdd o m)) s
def execFsub (f : FA) (m : FMode) (s : State) : Host.Outcome State Fault Refusal :=
  run (.fsub f m) (vecBody f.d.toNat (laneF2 fSub (.a f) m)) s
def execFmul (o : OpAI) (m : FMode) (s : State) : Host.Outcome State Fault Refusal :=
  run (.fmul o m) (vecBody (floatDst o) (laneF2 fMul o m)) s

/-- FFMA of three registers, element by element (R210). -/
def float3 (t : FTy) (mode : RMode) (ftz : Bool) (a b c : W32) : LaneOut :=
  packFloats t (((floatElems t a).zip (floatElems t b)).zipWith (fun x z => fFma (ftyFmt t) mode ftz x.1 x.2 z) (floatElems t c))

def laneFma (f : FA) (m : FMode) (g : Group) (_ : Nat) (x : Lane) : LaneOut :=
  float3 m.ty (modeIn g m.rm) m.ftz (x.reg f.a.toNat).val (x.reg f.b.toNat).val (x.reg f.c.toNat).val

def execFfma (f : FA) (m : FMode) (s : State) : Host.Outcome State Fault Refusal :=
  run (.ffma f m) (vecBody f.d.toNat (laneFma f m)) s

/-- FMIN and FMAX (R211). -/
def laneMinMax (f : FA) (ftz : Bool) (ty : FTy) (isMax : Bool) (_ : Group) (_ : Nat) (x : Lane) : LaneOut :=
  float2 ty (fun a b => (fMinMax (ftyFmt ty) ftz isMax a b, 0)) (x.reg f.a.toNat).val (x.reg f.b.toNat).val

def execFmin (f : FA) (ftz : Bool) (ty : FTy) (s : State) : Host.Outcome State Fault Refusal :=
  run (.fmin f ftz ty) (vecBody f.d.toNat (laneMinMax f ftz ty false)) s
def execFmax (f : FA) (ftz : Bool) (ty : FTy) (s : State) : Host.Outcome State Fault Refusal :=
  run (.fmax f ftz ty) (vecBody f.d.toNat (laneMinMax f ftz ty true)) s

/-- The element that FCMP and FCLASS look at. -/
def floatElem (ty : FTy) (e1 : Bool) (w : W32) : Nat := (floatElems ty w).getD (if e1 then 1 else 0) 0

/-- FCMP (R212). -/
def execFcmp (f : FA) (cc : Fcc) (ty : FTy) (e1 : Bool) (s : State) : Host.Outcome State Fault Refusal :=
  runG (.fcmp f cc ty e1) (fun g act => g.writeP act f.d.toNat (fun _ x =>
    fCmp (ftyFmt ty) cc (floatElem ty e1 (x.reg f.a.toNat).val) (floatElem ty e1 (x.reg f.b.toNat).val))) s

/-- FCLASS (R213). -/
def execFclass (f : FA) (ty : FTy) (e1 : Bool) (s : State) : Host.Outcome State Fault Refusal :=
  runG (.fclass f ty e1) (pureBody f.d.toNat (fun _ _ x =>
    [⟨BitVec.ofNat 32 (2^fClass (ftyFmt ty) (floatElem ty e1 (x.reg f.a.toNat).val)), tagN32⟩])) s

/-- FRND (R214). -/
def execFrnd (f : FA) (m : FMode) (s : State) : Host.Outcome State Fault Refusal :=
  run (.frnd f m) (vecBody f.d.toNat (fun g _ x =>
    packFloats m.ty ((floatElems m.ty (x.reg f.a.toNat).val).map (fRnd (ftyFmt m.ty) (modeIn g m.rm) m.ftz)))) s

/-- FDIV and FSQRT (R215). -/
def execFdiv (f : FA) (ftz : Bool) (rm : Rm) (s : State) : Host.Outcome State Fault Refusal :=
  run (.fdiv f ftz rm) (lateBody f.d.toNat (fun g _ x =>
    packFloats .f32 [fDiv (modeIn g rm) ftz (x.reg f.a.toNat).val.toNat (x.reg f.b.toNat).val.toNat])) s
def execFsqrt (f : FA) (ftz : Bool) (rm : Rm) (s : State) : Host.Outcome State Fault Refusal :=
  run (.fsqrt f ftz rm) (lateBody f.d.toNat (fun g _ x =>
    packFloats .f32 [fSqrt (modeIn g rm) ftz (x.reg f.a.toNat).val.toNat])) s

/-- A special function (R216). -/
def laneSfu (fn : Nat → Nat × FlagSet) (f : FA) (_ : Group) (_ : Nat) (x : Lane) : LaneOut :=
  packFloats .f32 [fn (x.reg f.a.toNat).val.toNat]

def execFrcp (f : FA) (s : State) : Host.Outcome State Fault Refusal := run (.frcp f) (lateBody f.d.toNat (laneSfu fRcp f)) s
def execFrsq (f : FA) (s : State) : Host.Outcome State Fault Refusal := run (.frsq f) (lateBody f.d.toNat (laneSfu fRsq f)) s
def execFsin (f : FA) (s : State) : Host.Outcome State Fault Refusal := run (.fsin f) (lateBody f.d.toNat (laneSfu fSin f)) s
def execFcos (f : FA) (s : State) : Host.Outcome State Fault Refusal := run (.fcos f) (lateBody f.d.toNat (laneSfu fCos f)) s
def execFexp2 (f : FA) (s : State) : Host.Outcome State Fault Refusal := run (.fexp2 f) (lateBody f.d.toNat (laneSfu fExp2 f)) s
def execFlog2 (f : FA) (s : State) : Host.Outcome State Fault Refusal := run (.flog2 f) (lateBody f.d.toNat (laneSfu fLog2 f)) s
def execFtanh (f : FA) (s : State) : Host.Outcome State Fault Refusal := run (.ftanh f) (lateBody f.d.toNat (laneSfu fTanh f)) s

end Sys2Proof.Machine
end

