-- ==== Sys2Proof/Machine/VecInt.lean ====
section
/-! DEFINITION. Integer arithmetic in lanes (R199 to R204): exact results, wrapped or clamped. -/

namespace Sys2Proof.Machine

/-- Elements of an operand of an integer type (R199). -/
def intElems (t : ITy) (ws : List W32) : List Int :=
  match t with
  | .s8x4 | .n8x4 =>
    (List.range 4).map (fun k => intOf 8 (itySigned t) (natOfWords ws / 2^(8 * k) % 2^8))
  | t => [intOf (ityBits t) (itySigned t) (natOfWords ws)]

/-- Words that spell a number. -/
def wordsOf (n v : Nat) : List W32 := (List.range n).map (fun k => BitVec.ofNat 32 (v / 2^(32 * k)))

/-- Exact element results written in a type (R200). -/
def packInts (t : ITy) (sat : Bool) (ys : List Int) : LaneOut :=
  let ws := ys.map (writeInt (ityBits t) (itySigned t) sat)
  let v := ws.foldr (fun w acc => w.1 + 2^(ityBits t) * acc) 0
  ((wordsOf (ityRegs t) v).map (fun w => ⟨w, ityTag t⟩), ws.foldl (fun acc w => acc ||| w.2) 0)

/-- A form of two sources, element by element (R200). -/
def int2 (op : Int → Int → Int) (t : ITy) (sat : Bool) (a b : List W32) : LaneOut :=
  packInts t sat ((intElems t a).zipWith op (intElems t b))

/-- Operands of an A form. -/
def intA (f : FA) (t : ITy) (x : Lane) : List W32 := wordsAt x f.a.toNat (ityRegs t)
def intB (f : FA) (t : ITy) (x : Lane) : List W32 := wordsAt x f.b.toNat (ityRegs t)

/-- A two-source form on an A or I word; the immediate is read in the type (R199). -/
def intAI (op : Int → Int → Int) (o : OpAI) (t : ITy) (sat : Bool) (_ : Group) (_ : Nat) (x : Lane) : LaneOut :=
  match o with
  | .a f => int2 op t sat (intA f t x) (intB f t x)
  | .i f => int2 op t sat [(x.reg f.a.toNat).val] [f.imm]

def opDst (o : OpAI) : Nat :=
  match o with
  | .a f => f.d.toNat
  | .i f => f.d.toNat

def execIadd (o : OpAI) (t : ITy) (sat : Bool) (s : State) : Host.Outcome State Fault Refusal :=
  run (.iadd o t sat) (vecBody (opDst o) (intAI (· + ·) o t sat)) s

def execIsub (f : FA) (t : ITy) (sat : Bool) (s : State) : Host.Outcome State Fault Refusal :=
  run (.isub f t sat) (vecBody f.d.toNat (intAI (· - ·) (.a f) t sat)) s

def execImin (f : FA) (t : ITy) (s : State) : Host.Outcome State Fault Refusal :=
  run (.imin f t) (vecBody f.d.toNat (intAI min (.a f) t false)) s

def execImax (f : FA) (t : ITy) (s : State) : Host.Outcome State Fault Refusal :=
  run (.imax f t) (vecBody f.d.toNat (intAI max (.a f) t false)) s

/-- The value of a 32-bit register in a type. -/
def intReg (t : ITy) (x : Lane) (r : Nat) : Int := intOf 32 (itySigned t) (x.reg r).val.toNat

/-- IADD3 (R200). -/
def execIadd3 (f : FA) (t : ITy) (s : State) : Host.Outcome State Fault Refusal :=
  run (.iadd3 f t) (vecBody f.d.toNat (fun _ _ x =>
    packInts t false [intReg t x f.a.toNat + intReg t x f.b.toNat + intReg t x f.c.toNat])) s

/-- The part of an exact product that IMUL writes (R202). -/
def mulPart (t : ITy) (sat : Bool) (part : MulPart) (p : Int) : LaneOut :=
  match part with
  | .lo => packInts t sat [p]
  | .hi => ([⟨BitVec.ofNat 32 (wrapTo 32 (p / 2^32)), ityTag t⟩], 0)
  | .wide => (pairRegs (BitVec.ofNat 64 (wrapTo 64 p)) tagI64, 0)

/-- IMUL (R202). -/
def laneMul (o : OpAI) (t : ITy) (sat : Bool) (part : MulPart) (_ : Group) (_ : Nat) (x : Lane) : LaneOut :=
  match o with
  | .a f => mulPart t sat part (intReg t x f.a.toNat * intReg t x f.b.toNat)
  | .i f => mulPart t sat part (intReg t x f.a.toNat * intOf 32 (itySigned t) f.imm.toNat)

def execImul (o : OpAI) (t : ITy) (sat : Bool) (part : MulPart) (s : State) : Host.Outcome State Fault Refusal :=
  run (.imul o t sat part) (vecBody (opDst o) (laneMul o t sat part)) s

/-- IMAD (R202). -/
def laneMad (f : FA) (t : ITy) (sat wide : Bool) (_ : Group) (_ : Nat) (x : Lane) : LaneOut :=
  let p := intReg t x f.a.toNat * intReg t x f.b.toNat
  if wide then (pairRegs (BitVec.ofNat 64 (wrapTo 64 (p + ((x.pair f.c.toNat).toNat : Int)))) tagI64, 0)
  else packInts t sat [p + intReg t x f.c.toNat]

def execImad (f : FA) (t : ITy) (sat : Bool) (wide : Bool) (s : State) : Host.Outcome State Fault Refusal :=
  run (.imad f t sat wide) (vecBody f.d.toNat (laneMad f t sat wide)) s

/-- IDIV and IREM (R203): truncation toward zero; a division by zero raises DZ. -/
def laneDiv (f : FA) (t : ITy) (rem : Bool) (_ : Group) (_ : Nat) (x : Lane) : LaneOut :=
  let a := intReg t x f.a.toNat
  let b := intReg t x f.b.toNat
  if b = 0 then
    ([⟨if rem then (x.reg f.a.toNat).val else 0xFFFFFFFF, ityTag t⟩], flDZ)
  else packInts t false [if rem then Int.tmod a b else Int.tdiv a b]

def execIdiv (f : FA) (t : ITy) (s : State) : Host.Outcome State Fault Refusal :=
  run (.idiv f t) (lateBody f.d.toNat (laneDiv f t false)) s

def execIrem (f : FA) (t : ITy) (s : State) : Host.Outcome State Fault Refusal :=
  run (.irem f t) (lateBody f.d.toNat (laneDiv f t true)) s

/-- IABS (R204). -/
def execIabs (f : FA) (t : ITy) (sat : Bool) (s : State) : Host.Outcome State Fault Refusal :=
  run (.iabs f t sat) (vecBody f.d.toNat (fun _ _ x =>
    packInts t sat ((intElems t (intA f t x)).map (fun y => (y.natAbs : Int))))) s

/-- ISAD (R204): the sum of absolute differences and the 32-bit vC, N32. -/
def execIsad (f : FA) (t : ITy) (s : State) : Host.Outcome State Fault Refusal :=
  run (.isad f t) (vecBody f.d.toNat (fun _ _ x =>
    let ds := (intElems t (intA f t x)).zipWith (fun a b => (a - b).natAbs) (intElems t (intB f t x))
    ([⟨BitVec.ofNat 32 (ds.foldl (· + ·) 0 + (x.reg f.c.toNat).val.toNat), tagN32⟩], 0))) s

end Sys2Proof.Machine
end

