-- ==== Sys2Proof/Machine/VecLogic.lean ====
section
/-! DEFINITION. Moves (R201), logic and shifts (R205), bit fields (R206), integer compares (R207), predicates (R208). -/

namespace Sys2Proof.Machine

/-- MOV (R201). -/
def execMov (f : FA) (b64 : Bool) (s : State) : Host.Outcome State Fault Refusal :=
  runG (.mov f b64) (pureBody f.d.toNat (fun _ _ x =>
    if b64 then [x.reg f.a.toNat, x.reg (f.a.toNat + 1)] else [x.reg f.a.toNat])) s

/-- The tag that MOVI writes (R201). -/
def moviTag (t : MoviTy) : BitVec 4 :=
  match t with
  | .s32 => tagI32 | .n32 => tagN32 | .f32 => tagF32 | .raw => tagRAW

/-- MOVI (R201). -/
def execMovi (f : FI) (t : MoviTy) (s : State) : Host.Outcome State Fault Refusal :=
  runG (.movi f t) (pureBody f.d.toNat (fun _ _ _ => [⟨f.imm, moviTag t⟩])) s

/-- SEL (R201). -/
def execSel (f : FA) (s : State) : Host.Outcome State Fault Refusal :=
  runG (.sel f) (pureBody f.d.toNat (fun _ _ x => [if x.pred f.c.toNat then x.reg f.a.toNat else x.reg f.b.toNat])) s

/-- A logic form, word by word, RAW (R205). -/
def laneLogic (op : W32 → W32 → W32) (o : OpAI) (b64 : Bool) (_ : Group) (_ : Nat) (x : Lane) : List Reg :=
  match o with
  | .a f =>
    let w (k : Nat) : Reg := ⟨op (x.reg (f.a.toNat + k)).val (x.reg (f.b.toNat + k)).val, tagRAW⟩
    if b64 then [w 0, w 1] else [w 0]
  | .i f => [⟨op (x.reg f.a.toNat).val f.imm, tagRAW⟩]

/-- Destination of an A or I form. -/
def aiDst (o : OpAI) : Nat :=
  match o with
  | .a f => f.d.toNat
  | .i f => f.d.toNat

def execAnd (o : OpAI) (b64 : Bool) (s : State) : Host.Outcome State Fault Refusal :=
  runG (.and o b64) (pureBody (aiDst o) (laneLogic (· &&& ·) o b64)) s
def execOr (o : OpAI) (b64 : Bool) (s : State) : Host.Outcome State Fault Refusal :=
  runG (.or o b64) (pureBody (aiDst o) (laneLogic (· ||| ·) o b64)) s
def execXor (o : OpAI) (b64 : Bool) (s : State) : Host.Outcome State Fault Refusal :=
  runG (.xor o b64) (pureBody (aiDst o) (laneLogic (· ^^^ ·) o b64)) s

/-- AND NOT (R205). -/
def andNot (x y : W32) : W32 := x &&& ~~~y

def execAndn (f : FA) (b64 : Bool) (s : State) : Host.Outcome State Fault Refusal :=
  runG (.andn f b64) (pureBody f.d.toNat (laneLogic andNot (.a f) b64)) s

/-- Shifts by an unsigned amount (R205). -/
def shl32 (x : W32) (n : Nat) : W32 := if n < 32 then x <<< n else 0
def shr32 (x : W32) (n : Nat) : W32 := if n < 32 then x >>> n else 0
def sar32 (x : W32) (n : Nat) : W32 := x.sshiftRight (min n 31)
def rot32 (x : W32) (n : Nat) : W32 := let k := n % 32; (x <<< k) ||| (x >>> (32 - k))

/-- A shift form (R205). -/
def laneShift (op : W32 → Nat → W32) (tag : BitVec 4) (o : OpAI) (_ : Group) (_ : Nat) (x : Lane) : List Reg :=
  match o with
  | .a f => [⟨op (x.reg f.a.toNat).val (x.reg f.b.toNat).val.toNat, tag⟩]
  | .i f => [⟨op (x.reg f.a.toNat).val f.imm.toNat, tag⟩]

def execShl (o : OpAI) (s : State) : Host.Outcome State Fault Refusal :=
  runG (.shl o) (pureBody (aiDst o) (laneShift shl32 tagRAW o)) s
def execShr (o : OpAI) (s : State) : Host.Outcome State Fault Refusal :=
  runG (.shr o) (pureBody (aiDst o) (laneShift shr32 tagRAW o)) s
def execSar (o : OpAI) (s : State) : Host.Outcome State Fault Refusal :=
  runG (.sar o) (pureBody (aiDst o) (laneShift sar32 tagI32 o)) s
def execRot (o : OpAI) (s : State) : Host.Outcome State Fault Refusal :=
  runG (.rot o) (pureBody (aiDst o) (laneShift rot32 tagRAW o)) s

/-- Number of 1 bits, of leading 0 bits, and the bits reversed (R206). -/
def popcount (x : W32) : Nat := ((List.range 32).filter (fun k => x.getLsbD k)).length
def leadingZeros (x : W32) : Nat := if x = 0 then 32 else 31 - Nat.log2 x.toNat
def bitReverse (x : W32) : W32 := maskOf (fun k => x.getLsbD (31 - k))

def execPopc (f : FA) (s : State) : Host.Outcome State Fault Refusal :=
  runG (.popc f) (pureBody f.d.toNat (fun _ _ x => [⟨BitVec.ofNat 32 (popcount (x.reg f.a.toNat).val), tagN32⟩])) s
def execClz (f : FA) (s : State) : Host.Outcome State Fault Refusal :=
  runG (.clz f) (pureBody f.d.toNat (fun _ _ x => [⟨BitVec.ofNat 32 (leadingZeros (x.reg f.a.toNat).val), tagN32⟩])) s
def execBrev (f : FA) (s : State) : Host.Outcome State Fault Refusal :=
  runG (.brev f) (pureBody f.d.toNat (fun _ _ x => [⟨bitReverse (x.reg f.a.toNat).val, tagRAW⟩])) s

/-- Position and length of a control word (R206). -/
def fieldPos (k : W32) : Nat := k.toNat % 32
def fieldLen (k : W32) : Nat := min (k.toNat / 2^8 % 64) (32 - fieldPos k)

/-- BFX (R206): `n` bits sign-extended or zero-extended. -/
def extract (v k : W32) (signed : Bool) : W32 :=
  let n := fieldLen k
  let y := v.toNat / 2^fieldPos k % 2^n
  if signed && decide (0 < n) && y.testBit (n - 1) then BitVec.ofNat 32 (y + (2^32 - 2^n)) else BitVec.ofNat 32 y

def execBfx (f : FA) (signed : Bool) (s : State) : Host.Outcome State Fault Refusal :=
  runG (.bfx f signed) (pureBody f.d.toNat (fun _ _ x =>
    [⟨extract (x.reg f.a.toNat).val (x.reg f.b.toNat).val signed, if signed then tagI32 else tagN32⟩])) s

/-- BFI (R206). -/
def insert (v base k : W32) : W32 :=
  let m : W32 := BitVec.ofNat 32 ((2^fieldLen k - 1) * 2^fieldPos k)
  (base &&& ~~~m) ||| ((v <<< fieldPos k) &&& m)

def execBfi (f : FA) (s : State) : Host.Outcome State Fault Refusal :=
  runG (.bfi f) (pureBody f.d.toNat (fun _ _ x =>
    [⟨insert (x.reg f.a.toNat).val (x.reg f.b.toNat).val (x.reg f.c.toNat).val, tagRAW⟩])) s

/-- ICMP (R207). -/
def laneCmp (o : OpCmp) (cc : Cc) (b64 : Bool) (x : Lane) : Bool :=
  match o with
  | .a f => if b64 then condition cc (x.pair f.a.toNat) (x.pair f.b.toNat)
            else condition cc (x.reg f.a.toNat).val (x.reg f.b.toNat).val
  | .i _ _ a k _ => condition cc (x.reg a.toNat).val (k.signExtend 32)

def cmpDst (o : OpCmp) : Nat :=
  match o with
  | .a f => f.d.toNat
  | .i _ d _ _ _ => d.toNat

def execIcmp (o : OpCmp) (cc : Cc) (b64 : Bool) (s : State) : Host.Outcome State Fault Refusal :=
  runG (.icmp o cc b64) (fun g act => g.writeP act (cmpDst o) (fun _ x => laneCmp o cc b64 x)) s

/-- PAND, POR, PXOR with inverted sources (R208). -/
def predOp (f : FA) (na nb : Bool) (op : Bool → Bool → Bool) (g : Group) (act : Lanes) : Group :=
  g.writeP act f.d.toNat (fun _ x => op (x.pred f.a.toNat != na) (x.pred f.b.toNat != nb))

def execPand (f : FA) (na nb : Bool) (s : State) : Host.Outcome State Fault Refusal :=
  runG (.pand f na nb) (predOp f na nb (· && ·)) s
def execPor (f : FA) (na nb : Bool) (s : State) : Host.Outcome State Fault Refusal :=
  runG (.por f na nb) (predOp f na nb (· || ·)) s
def execPxor (f : FA) (na nb : Bool) (s : State) : Host.Outcome State Fault Refusal :=
  runG (.pxor f na nb) (predOp f na nb (· != ·)) s
def execPnot (f : FA) (s : State) : Host.Outcome State Fault Refusal :=
  runG (.pnot f) (fun g act => g.writeP act f.d.toNat (fun _ x => !x.pred f.a.toNat)) s

/-- PMOV (R208). -/
def pmov (f : FA) (k : PmovKind) (g : Group) (act : Lanes) : Group :=
  match k with
  | .pp => g.writeP act f.d.toNat (fun _ x => x.pred f.a.toNat)
  | .vp => g.writeV act f.d.toNat (fun _ x => ⟨if x.pred f.a.toNat then 1 else 0, tagN32⟩)
  | .pv => g.writeP act f.d.toNat (fun _ x => (x.reg f.a.toNat).val != 0)

def execPmov (f : FA) (k : PmovKind) (s : State) : Host.Outcome State Fault Refusal := runG (.pmov f k) (pmov f k) s

end Sys2Proof.Machine
end

