-- ==== Sys2Proof/Machine/Dual.lean ====
section
/-! DEFINITION. Dual words (R101 to R105): two halves, each with the effect of its full form with SUB = 0, checked half by half
and written together. -/

namespace Sys2Proof.Machine

/-- The full form's operand fields of a half: destination and up to three sources. -/
def halfFA (d : BitVec 7) (a b c : BitVec 8) : FA :=
  { g := ⟨0, false⟩, d := d.zeroExtend 8, a := a, b := b, c := c, la := 0, hs := 0, he := 0, lra := false, lrb := false, lrc := false }

/-- The full form's operand fields of a half with an immediate. -/
def halfFI (d : BitVec 7) (a : BitVec 8) (k : W32) : FI := { g := ⟨0, false⟩, d := d.zeroExtend 8, a := a, imm := k, lra := false }

/-- First and second operand of an R-kind half (R102). -/
def halfOrder (m : HalfMode) (d : BitVec 7) (s t : BitVec 8) : BitVec 8 × BitVec 8 :=
  match m with
  | .m0 => (d.zeroExtend 8, s)
  | .m1 => (s, t)
  | .m2 => (t, s)

/-- The float forms' modifiers with SUB = 0. -/
def halfMode : FMode := ⟨false, .rn, .f32⟩

/-- A result without flags. -/
def quiet (rs : List Reg) : LaneOut := (rs, 0)

/-- What an R-kind half gives in a lane (R103). -/
def laneHalfR (op : HalfR) (f : FA) (g : Group) (l : Nat) (x : Lane) : LaneOut :=
  match op with
  | .iadd => intAI (· + ·) (.a f) .s32 false g l x
  | .isub => intAI (· - ·) (.a f) .s32 false g l x
  | .imin => intAI min (.a f) .s32 false g l x
  | .imax => intAI max (.a f) .s32 false g l x
  | .imul => laneMul (.a f) .s32 false .lo g l x
  | .and => quiet (laneLogic (· &&& ·) (.a f) false g l x)
  | .or => quiet (laneLogic (· ||| ·) (.a f) false g l x)
  | .xor => quiet (laneLogic (· ^^^ ·) (.a f) false g l x)
  | .andn => quiet (laneLogic andNot (.a f) false g l x)
  | .shl => quiet (laneShift shl32 tagRAW (.a f) g l x)
  | .shr => quiet (laneShift shr32 tagRAW (.a f) g l x)
  | .sar => quiet (laneShift sar32 tagI32 (.a f) g l x)
  | .fadd => laneF2 fAdd (.a f) halfMode g l x
  | .fsub => laneF2 fSub (.a f) halfMode g l x
  | .fmul => laneF2 fMul (.a f) halfMode g l x
  | .fmin => laneMinMax f false .f32 false g l x
  | .fmax => laneMinMax f false .f32 true g l x

/-- What an I-kind half gives in a lane (R103). -/
def laneHalfI (op : HalfI) (f : FI) (g : Group) (l : Nat) (x : Lane) : LaneOut :=
  match op with
  | .iadd => intAI (· + ·) (.i f) .s32 false g l x
  | .and => quiet (laneLogic (· &&& ·) (.i f) false g l x)
  | .or => quiet (laneLogic (· ||| ·) (.i f) false g l x)
  | .xor => quiet (laneLogic (· ^^^ ·) (.i f) false g l x)
  | .shl => quiet (laneShift shl32 tagRAW (.i f) g l x)
  | .shr => quiet (laneShift shr32 tagRAW (.i f) g l x)
  | .sar => quiet (laneShift sar32 tagI32 (.i f) g l x)

/-- What a U-kind half gives in a lane (R103). -/
def laneHalfU (op : HalfU) (r : Reg) : List Reg :=
  match op with
  | .mov => [r]
  | .popc => [⟨BitVec.ofNat 32 (popcount r.val), tagN32⟩]
  | .brev => [⟨bitReverse r.val, tagRAW⟩]

/-- What a half gives in a lane: the registers from its destination on, and its flags. -/
def laneHalf (h : Half) (g : Group) (l : Nat) (x : Lane) : LaneOut :=
  match h with
  | .nop => ([], 0)
  | .r op m d s t => let o := halfOrder m d s t; laneHalfR op (halfFA d o.1 o.2 0) g l x
  | .i op d s k => laneHalfI op (halfFI d s (k.signExtend 32)) g l x
  | .u op _ s => quiet (laneHalfU op (x.reg s.toNat))
  | .movi _ k => quiet [⟨k.signExtend 32, tagI32⟩]
  | .ffma d s t => laneFma (halfFA d s t (d.zeroExtend 8)) halfMode g l x

/-- Destination of a half. -/
def halfDst : Half → Nat
  | .nop => 0
  | .r _ _ d _ _ | .i _ d _ _ | .u _ d _ | .movi d _ | .ffma d _ _ => d.toNat

/-- The checks of one half before its float traps: budget, registers in error, tags (R105, R332). -/
def halfCheck (h : Half) (g : Group) (act : Lanes) : Option Trap :=
  let u := halfUse ⟨0, false⟩ h
  if regUnclaimed g u then some { code := 0x005, einfo := none }
  else
    match badIn g act u.srcs with
    | some t => some t
    | none =>
      let bad := tagFails g act u.srcs
      if bad ≠ 0 then some { code := 0x100, mask := some bad, einfo := none } else none

/-- The enabled float trap of a half, with the flags set so far (R105, R129). -/
def halfTrap (g : Group) (fls : List (Nat × FlagSet)) : Option Trap :=
  (fpCause g.fpstat (allFlags fls)).map (fun x => { code := x.2, mask := some (flagLanes fls x.1) })

/-- A dual word (R105): half 0's checks, half 1's, then both write. A failing half 0 leaves only its own flags (log entry 24). -/
def bodyDual (_ps : Bool) (h0 h1 : Half) (s : State) (g : Group) (act : Lanes) : Res :=
  let u (h : Half) := (halfUse ⟨0, false⟩ h).srcs
  if pendingIn g act (u h0 ++ u h1) then .stall
  else
    let fl0 := flagsOf g act (laneHalf h0 g)
    let fl1 := flagsOf g act (laneHalf h1 g)
    let set (fls : List (Nat × FlagSet)) (g : Group) : Group := { g with fpstat := fpSet g.fpstat (allFlags fls) }
    match halfCheck h0 g act with
    | some t => .trap s t
    | none =>
      match halfTrap g fl0 with
      | some t => .trap (s.setGroup s.cur (set fl0 g)) t
      | none =>
        match halfCheck h1 g act with
        | some t => .trap s t
        | none =>
          match halfTrap g fl1 with
          | some t => .trap (s.setGroup s.cur (set fl1 (set fl0 g))) t
          | none =>
            let g' := (set fl1 (set fl0 g)).mapLanes act (fun l x =>
              (x.setRegs (halfDst h0) (laneHalf h0 g l x).1).setRegs (halfDst h1) (laneHalf h1 g l x).1)
            .done (s.setGroup s.cur g')

def execDualWord (ps : Bool) (h0 h1 : Half) (s : State) : Host.Outcome State Fault Refusal :=
  run (.dualWord ps h0 h1) (bodyDual ps h0 h1) s

end Sys2Proof.Machine
end

