-- ==== Sys2Proof/Machine/Dispatch.lean ====
section
/-! DEFINITION. One arm for each instruction and each step of the engines, the host and the environment: its meaning. -/

namespace Sys2Proof.Machine

/-- What an instruction does. -/
def exec (i : Instr) (s : State) : Host.Outcome State Fault Refusal :=
  match i with
  | .nop => Sys2Proof.Machine.execNop s
  | .dualWord ps h0 h1 => Sys2Proof.Machine.execDualWord ps h0 h1 s
  | .bra f => Sys2Proof.Machine.execBra f s
  | .braC f => Sys2Proof.Machine.execBraC f s
  | .brx f => Sys2Proof.Machine.execBrx f s
  | .call f => Sys2Proof.Machine.execCall f s
  | .callx f => Sys2Proof.Machine.execCallx f s
  | .ret f => Sys2Proof.Machine.execRet f s
  | .rjoin f => Sys2Proof.Machine.execRjoin f s
  | .exit f => Sys2Proof.Machine.execExit f s
  | .exitJ f => Sys2Proof.Machine.execExitJ f s
  | .loop f imm => Sys2Proof.Machine.execLoop f imm s
  | .lbrk f => Sys2Proof.Machine.execLbrk f s
  | .yield f => Sys2Proof.Machine.execYield f s
  | .getem f toS => Sys2Proof.Machine.execGetem f toS s
  | .setem f k => Sys2Proof.Machine.execSetem f k s
  | .vote f k => Sys2Proof.Machine.execVote f k s
  | .getid f id toS => Sys2Proof.Machine.execGetid f id toS s
  | .setstage f fromS => Sys2Proof.Machine.execSetstage f fromS s
  | .bar f => Sys2Proof.Machine.execBar f s
  | .bara f => Sys2Proof.Machine.execBara f s
  | .barw f => Sys2Proof.Machine.execBarw f s
  | .rbtake f => Sys2Proof.Machine.execRbtake f s
  | .rbgive f => Sys2Proof.Machine.execRbgive f s
  | .rbq f k => Sys2Proof.Machine.execRbq f k s
  | .smov f k => Sys2Proof.Machine.execSmov f k s
  | .smovi f => Sys2Proof.Machine.execSmovi f s
  | .sadd o => Sys2Proof.Machine.execSadd o s
  | .ssub f => Sys2Proof.Machine.execSsub f s
  | .smul f => Sys2Proof.Machine.execSmul f s
  | .sand o => Sys2Proof.Machine.execSand o s
  | .sor o => Sys2Proof.Machine.execSor o s
  | .sxor o => Sys2Proof.Machine.execSxor o s
  | .sshl o => Sys2Proof.Machine.execSshl o s
  | .sshr o arith => Sys2Proof.Machine.execSshr o arith s
  | .scmp o cc => Sys2Proof.Machine.execScmp o cc s
  | .ssel f => Sys2Proof.Machine.execSsel f s
  | .sld f signed => Sys2Proof.Machine.execSld f signed s
  | .sbr f z => Sys2Proof.Machine.execSbr f z s
  | .abind f => Sys2Proof.Machine.execAbind f s
  | .aq f sel => Sys2Proof.Machine.execAq f sel s
  | .mov f b64 => Sys2Proof.Machine.execMov f b64 s
  | .movi f t => Sys2Proof.Machine.execMovi f t s
  | .sel f => Sys2Proof.Machine.execSel f s
  | .iadd o t sat => Sys2Proof.Machine.execIadd o t sat s
  | .iadd3 f t => Sys2Proof.Machine.execIadd3 f t s
  | .isub f t sat => Sys2Proof.Machine.execIsub f t sat s
  | .imul o t sat part => Sys2Proof.Machine.execImul o t sat part s
  | .imad f t sat wide => Sys2Proof.Machine.execImad f t sat wide s
  | .idiv f t => Sys2Proof.Machine.execIdiv f t s
  | .irem f t => Sys2Proof.Machine.execIrem f t s
  | .imin f t => Sys2Proof.Machine.execImin f t s
  | .imax f t => Sys2Proof.Machine.execImax f t s
  | .iabs f t sat => Sys2Proof.Machine.execIabs f t sat s
  | .isad f t => Sys2Proof.Machine.execIsad f t s
  | .and o b64 => Sys2Proof.Machine.execAnd o b64 s
  | .or o b64 => Sys2Proof.Machine.execOr o b64 s
  | .xor o b64 => Sys2Proof.Machine.execXor o b64 s
  | .andn f b64 => Sys2Proof.Machine.execAndn f b64 s
  | .shl o => Sys2Proof.Machine.execShl o s
  | .shr o => Sys2Proof.Machine.execShr o s
  | .sar o => Sys2Proof.Machine.execSar o s
  | .rot o => Sys2Proof.Machine.execRot o s
  | .popc f => Sys2Proof.Machine.execPopc f s
  | .clz f => Sys2Proof.Machine.execClz f s
  | .brev f => Sys2Proof.Machine.execBrev f s
  | .bfx f signed => Sys2Proof.Machine.execBfx f signed s
  | .bfi f => Sys2Proof.Machine.execBfi f s
  | .icmp o cc b64 => Sys2Proof.Machine.execIcmp o cc b64 s
  | .pand f na nb => Sys2Proof.Machine.execPand f na nb s
  | .por f na nb => Sys2Proof.Machine.execPor f na nb s
  | .pxor f na nb => Sys2Proof.Machine.execPxor f na nb s
  | .pnot f => Sys2Proof.Machine.execPnot f s
  | .pmov f k => Sys2Proof.Machine.execPmov f k s
  | .fadd o m => Sys2Proof.Machine.execFadd o m s
  | .fsub f m => Sys2Proof.Machine.execFsub f m s
  | .fmul o m => Sys2Proof.Machine.execFmul o m s
  | .ffma f m => Sys2Proof.Machine.execFfma f m s
  | .fmin f ftz ty => Sys2Proof.Machine.execFmin f ftz ty s
  | .fmax f ftz ty => Sys2Proof.Machine.execFmax f ftz ty s
  | .fcmp f cc ty e1 => Sys2Proof.Machine.execFcmp f cc ty e1 s
  | .fclass f ty e1 => Sys2Proof.Machine.execFclass f ty e1 s
  | .frnd f m => Sys2Proof.Machine.execFrnd f m s
  | .fdiv f ftz rm => Sys2Proof.Machine.execFdiv f ftz rm s
  | .fsqrt f ftz rm => Sys2Proof.Machine.execFsqrt f ftz rm s
  | .frcp f => Sys2Proof.Machine.execFrcp f s
  | .frsq f => Sys2Proof.Machine.execFrsq f s
  | .fsin f => Sys2Proof.Machine.execFsin f s
  | .fcos f => Sys2Proof.Machine.execFcos f s
  | .fexp2 f => Sys2Proof.Machine.execFexp2 f s
  | .flog2 f => Sys2Proof.Machine.execFlog2 f s
  | .ftanh f => Sys2Proof.Machine.execFtanh f s
  | .cvt g d a hsA he lra k => Sys2Proof.Machine.execCvt g d a hsA he lra k s
  | .pack f t sat rm => Sys2Proof.Machine.execPack f t sat rm s
  | .unpack f t h => Sys2Proof.Machine.execUnpack f t h s
  | .bpsplit f p => Sys2Proof.Machine.execBpsplit f p s
  | .bpjoin f q k1 => Sys2Proof.Machine.execBpjoin f q k1 s
  | .tagset f tag => Sys2Proof.Machine.execTagset f tag s
  | .tagget f => Sys2Proof.Machine.execTagget f s
  | .shfl o rule ring zf => Sys2Proof.Machine.execShfl o rule ring zf s
  | .redg f op ty rm => Sys2Proof.Machine.execRedg f op ty rm s
  | .scang f excl op ty rm => Sys2Proof.Machine.execScang f excl op ty rm s
  | .rng f k => Sys2Proof.Machine.execRng f k s
  | .rqscale f grp => Sys2Proof.Machine.execRqscale f grp s
  | .rquant f => Sys2Proof.Machine.execRquant f s
  | .rdeq f => Sys2Proof.Machine.execRdeq f s
  | .ld f k => Sys2Proof.Machine.execLd f k s
  | .st f k => Sys2Proof.Machine.execSt f k s
  | .atom f op u nr => Sys2Proof.Machine.execAtom f op u nr s
  | .cas f => Sys2Proof.Machine.execCas f s
  | .ll f tag => Sys2Proof.Machine.execLl f tag s
  | .sc f pd => Sys2Proof.Machine.execSc f pd s
  | .fence f sc => Sys2Proof.Machine.execFence f sc s
  | .talloc f fromS => Sys2Proof.Machine.execTalloc f fromS s
  | .tfree f => Sys2Proof.Machine.execTfree f s
  | .tq f sel => Sys2Proof.Machine.execTq f sel s
  | .tld f sz signed => Sys2Proof.Machine.execTld f sz signed s
  | .tst f sz => Sys2Proof.Machine.execTst f sz s
  | .cpy f mode nb => Sys2Proof.Machine.execCpy f mode nb s
  | .cpyg f e nb => Sys2Proof.Machine.execCpyg f e nb s
  | .cpys f e nb => Sys2Proof.Machine.execCpys f e nb s
  | .cbinit f => Sys2Proof.Machine.execCbinit f s
  | .cbarr f => Sys2Proof.Machine.execCbarr f s
  | .cbwait f => Sys2Proof.Machine.execCbwait f s
  | .cbtest f => Sys2Proof.Machine.execCbtest f s
  | .coll f kind op => Sys2Proof.Machine.execColl f kind op s
  | .mloadb f => Sys2Proof.Machine.execMloadb f s
  | .mswap f => Sys2Proof.Machine.execMswap f s
  | .mma f pri nb => Sys2Proof.Machine.execMma f pri nb s
  | .scanl f rm rv pr => Sys2Proof.Machine.execScanl f rm rv pr s
  | .scanp f rm rv pr => Sys2Proof.Machine.execScanp f rm rv pr s
  | .autoCfg f => Sys2Proof.Machine.execAutoCfg f s
  | .autoSeed f => Sys2Proof.Machine.execAutoSeed f s
  | .autoLdx f => Sys2Proof.Machine.execAutoLdx f s
  | .autoInf f train nb => Sys2Proof.Machine.execAutoInf f train nb s
  | .autoFb1 f => Sys2Proof.Machine.execAutoFb1 f s
  | .autoFb2 f => Sys2Proof.Machine.execAutoFb2 f s
  | .autoRd f nb => Sys2Proof.Machine.execAutoRd f nb s
  | .autoWr f => Sys2Proof.Machine.execAutoWr f s
  | .autoFence f => Sys2Proof.Machine.execAutoFence f s
  | .nodemk f => Sys2Proof.Machine.execNodemk f s
  | .nodedel f => Sys2Proof.Machine.execNodedel f s
  | .nodeq f => Sys2Proof.Machine.execNodeq f s
  | .spawn f b o remote aj j => Sys2Proof.Machine.execSpawn f b o remote aj j s
  | .jinit f => Sys2Proof.Machine.execJinit f s
  | .jwait f => Sys2Proof.Machine.execJwait f s
  | .estw f tagHi => Sys2Proof.Machine.execEstw f tagHi s
  | .estq f n => Sys2Proof.Machine.execEstq f n s
  | .estf f => Sys2Proof.Machine.execEstf f s
  | .ckmark f nb => Sys2Proof.Machine.execCkmark f nb s
  | .cksnap f nb => Sys2Proof.Machine.execCksnap f nb s
  | .ckroll f nb => Sys2Proof.Machine.execCkroll f nb s
  | .ckdrop f nb all unmark => Sys2Proof.Machine.execCkdrop f nb all unmark s
  | .glaunch f nb => Sys2Proof.Machine.execGlaunch f nb s
  | .gcond f => Sys2Proof.Machine.execGcond f s
  | .qend f => Sys2Proof.Machine.execQend f s
  | .trap f => Sys2Proof.Machine.execTrap f s
  | .eret f => Sys2Proof.Machine.execEret f s
  | .mfsr f hi => Sys2Proof.Machine.execMfsr f hi s
  | .mtsr f hi => Sys2Proof.Machine.execMtsr f hi s
  | .pmap f => Sys2Proof.Machine.execPmap f s
  | .tlbinv f k => Sys2Proof.Machine.execTlbinv f k s
  | .resultLands g => Sys2Proof.Machine.execResultLands g s
  | .causeDelivery g => Sys2Proof.Machine.execCauseDelivery g s
  | .blockWatchdogExpiry b => Sys2Proof.Machine.execBlockWatchdogExpiry b s
  | .fairnessTimerExpiry g => Sys2Proof.Machine.execFairnessTimerExpiry g s
  | .contextMove g => Sys2Proof.Machine.execContextMove g s
  | .estateFetchLands g l r bad => Sys2Proof.Machine.execEstateFetchLands g l r bad s
  | .jwaitCounterRead g => Sys2Proof.Machine.execJwaitCounterRead g s
  | .spawnBlockingTimeout g => Sys2Proof.Machine.execSpawnBlockingTimeout g s
  | .binTimerExpiry n => Sys2Proof.Machine.execBinTimerExpiry n s
  | .spillSegmentDrain n => Sys2Proof.Machine.execSpillSegmentDrain n s
  | .nodeSwapIn n => Sys2Proof.Machine.execNodeSwapIn n s
  | .remoteRecordArrival p r => Sys2Proof.Machine.execRemoteRecordArrival p r s
  | .remoteRecordTimeout n => Sys2Proof.Machine.execRemoteRecordTimeout n s
  | .jobDispatch j => Sys2Proof.Machine.execJobDispatch j s
  | .jobDataLands j n => Sys2Proof.Machine.execJobDataLands j n s
  | .jobTranslationFault j => Sys2Proof.Machine.execJobTranslationFault j s
  | .jobComplete j => Sys2Proof.Machine.execJobComplete j s
  | .mmaPassGrant q j => Sys2Proof.Machine.execMmaPassGrant q j s
  | .collParamExchange j params words => Sys2Proof.Machine.execCollParamExchange j params words s
  | .spindleAcceptGraph j => Sys2Proof.Machine.execSpindleAcceptGraph j s
  | .spindleKernelNode w => Sys2Proof.Machine.execSpindleKernelNode w s
  | .spindleConditionalNode w => Sys2Proof.Machine.execSpindleConditionalNode w s
  | .spindleWhileNode w => Sys2Proof.Machine.execSpindleWhileNode w s
  | .spindleEndNode w => Sys2Proof.Machine.execSpindleEndNode w s
  | .sqtailWrite v n tail => Sys2Proof.Machine.execSqtailWrite v n tail s
  | .launchPacket v n => Sys2Proof.Machine.execLaunchPacket v n s
  | .markerComplete v n => Sys2Proof.Machine.execMarkerComplete v n s
  | .blockPlacement l c => Sys2Proof.Machine.execBlockPlacement l c s
  | .affinityWindowExpiry l => Sys2Proof.Machine.execAffinityWindowExpiry l s
  | .startBarrierArrival l r gen refuses => Sys2Proof.Machine.execStartBarrierArrival l r gen refuses s
  | .startBarrierTimeout l => Sys2Proof.Machine.execStartBarrierTimeout l s
  | .coreHotMark c t => Sys2Proof.Machine.execCoreHotMark c t s
  | .coreHotClear c => Sys2Proof.Machine.execCoreHotClear c s
  | .droopDetect q => Sys2Proof.Machine.execDroopDetect q s
  | .droopMarkExpiry q => Sys2Proof.Machine.execDroopMarkExpiry q s
  | .thermalMarkOverride p => Sys2Proof.Machine.execThermalMarkOverride p s
  | .sliceEnd p => Sys2Proof.Machine.execSliceEnd p s
  | .preemptSave p => Sys2Proof.Machine.execPreemptSave p s
  | .blockQuantumEnd b => Sys2Proof.Machine.execBlockQuantumEnd b s
  | .quantumExpiry g => Sys2Proof.Machine.execQuantumExpiry g s
  | .ticketRelease l => Sys2Proof.Machine.execTicketRelease l s
  | .bankFailedMark a b => Sys2Proof.Machine.execBankFailedMark a b s
  | .scrubPass => Sys2Proof.Machine.execScrubPass s
  | .hostMemRequest o n w => Sys2Proof.Machine.execHostMemRequest o n w s
  | .tlbsdGo v => Sys2Proof.Machine.execTlbsdGo v s
  | .lcmdPrepare => Sys2Proof.Machine.execLcmdPrepare s
  | .lcmdFlip => Sys2Proof.Machine.execLcmdFlip s
  | .lcmdAbort => Sys2Proof.Machine.execLcmdAbort s
  | .layoutConfirm => Sys2Proof.Machine.execLayoutConfirm s
  | .mpWatchdogReset => Sys2Proof.Machine.execMpWatchdogReset s
  | .capmove v => Sys2Proof.Machine.execCapmove v s
  | .capack v => Sys2Proof.Machine.execCapack v s
  | .capmoveTimeout => Sys2Proof.Machine.execCapmoveTimeout s
  | .lend v => Sys2Proof.Machine.execLend v s
  | .lendRecall p => Sys2Proof.Machine.execLendRecall p s
  | .quadRetirement q chan => Sys2Proof.Machine.execQuadRetirement q chan s
  | .pcmdResumeGroup v => Sys2Proof.Machine.execPcmdResumeGroup v s
  | .pcmdTerminateBlock v => Sys2Proof.Machine.execPcmdTerminateBlock v s
  | .pcmdPreemptPartition v => Sys2Proof.Machine.execPcmdPreemptPartition v s
  | .pcmdResumePartition v refused => Sys2Proof.Machine.execPcmdResumePartition v refused s
  | .pcmdDiscardSlice v => Sys2Proof.Machine.execPcmdDiscardSlice v s
  | .lviolRead => Sys2Proof.Machine.execLviolRead s
  | .evlostRead => Sys2Proof.Machine.execEvlostRead s
  | .drlostRead p => Sys2Proof.Machine.execDrlostRead p s
  | .registerWrite r v => Sys2Proof.Machine.execRegisterWrite r v s
  | .lockInterfaceRequest v => Sys2Proof.Machine.execLockInterfaceRequest v s
  | .startInterfaceRequest v => Sys2Proof.Machine.execStartInterfaceRequest v s
  | .stopInterfaceRequest v => Sys2Proof.Machine.execStopInterfaceRequest v s
  | .ideStreamFailure v => Sys2Proof.Machine.execIdeStreamFailure v s
  | .spdmRequest v xi => Sys2Proof.Machine.execSpdmRequest v xi s
  | .deviceReset => Sys2Proof.Machine.execDeviceReset s
  | .firmwareVerify b => Sys2Proof.Machine.execFirmwareVerify b s
  | .lcsGo => Sys2Proof.Machine.execLcsGo s
  | .enterFull => Sys2Proof.Machine.execEnterFull s
  | .clockLowering xi mhz => Sys2Proof.Machine.execClockLowering xi mhz s
  | .linkTraining rate width => Sys2Proof.Machine.execLinkTraining rate width s
  | .unassignedEncoding w => Sys2Proof.Machine.execUnassignedEncoding w s

end Sys2Proof.Machine
end

