-- ==== Sys2Proof/Machine/Issue.lean ====
section
/-! DEFINITION. YIELD's hold on a group (R186): which of the core's other groups are ready (R349). -/

namespace Sys2Proof.Machine

/-- Group `gid`, ACTIVE, is ready (R349): its turn as the state stands does something, so that its next word has no interlock, no
stall and no wait. -/
def State.readyGroup (s : State) (gid : Nat) : Bool :=
  match ({ s with cur := gid }).prepare gid with
  | .over t => decide (t ≠ { s with cur := gid })
  | .issue t i => match exec i t with | .next u => decide (u ≠ t) | _ => true

/-- A YIELD holds the group back (R186): another ready group of its core, not held itself, has still to issue. -/
def State.held (s : State) (gid : Nat) : Bool :=
  match s.group? gid with
  | none => false
  | some g =>
    g.st == .active && g.yielded &&
      (s.onCore (s.coreOf g)).any (fun x => x.1 != gid && x.2.st == .active && !x.2.yielded && s.readyGroup x.1)

end Sys2Proof.Machine
end

