-- ==== Sys2Proof/Machine/Orders.lean ====
section
/-! DEFINITION. What software or another module tells the device by no instruction and by no row of the opcode table: the checkpoint
pool's room (R302), a core's temperature threshold and sensor (R342), a node that the host creates (R38), a replicated packet (R351). -/

namespace Sys2Proof.Machine

/-- The supervisor gives the checkpoint pool of a partition room for `n` granules (R302). -/
def State.setPool (s : State) (p n : Nat) : State :=
  if (Table.get? s.parts p).isSome then s.updPart p (fun r => { r with ckpool := n }) else s

/-- The host creates a node (R38) of the partition of VF `v` from a node descriptor, checked as NODEMK checks one; what fails creates
nothing (log entry 93). -/
def State.hostNode (s : State) (v : Nat) (a : W64) : State :=
  match s.vfPart v with
  | none => s
  | some p =>
    if !s.partActive p then s
    else
      match s.virtBytes p 2 a 64 with
      | none => s
      | some bs => if (descFails bs a).isSome then s else (s.makeNode bs a p v).1

/-- What an order does. -/
def State.obey (s : State) : Order → State
  | .ckpool p n => s.setPool p n
  | .threshold c t => s.setThreshold c t
  | .sensor c t => s.updCore c (fun r => { r with temp := t })
  | .hostNode v a => s.hostNode v a
  | .replicated v n bs => s.receive v n bs

end Sys2Proof.Machine
end

