-- ==== Sys2Proof/Machine/Step.lean ====
section
/-! DEFINITION. One step: the next turn of the agenda, or an instruction of group `cur`; and how an instruction is placed to run
first. -/

namespace Sys2Proof.Machine

/-- A turn of group `gid`: nothing, while a YIELD holds it. -/
def turn (s : State) (gid : Nat) : Host.Outcome State Fault Refusal :=
  if s.held gid then .next { s with cur := gid }
  else
    match ({ s with cur := gid }).prepare gid with
    | .over t => .next t
    | .issue t i => exec i t

/-- One step of the machine (log entry 2). -/
def step (s : State) : Host.Outcome State Fault Refusal :=
  match s.agenda with
  | [] => turn s s.cur
  | .group g :: r => turn { s with agenda := r } g
  | .event i :: r => exec i { s with agenda := r }
  | .upset x :: r => .next ({ s with agenda := r }.strike x)
  | .lost x :: r => .next ({ s with agenda := r }.lose x)
  | .order x :: r => .next ({ s with agenda := r }.obey x)

/-- `s` with the instruction whose table word is `w` stored where the next step fetches; a machine that fetches nothing next is
loaded first (log entry 1). -/
def State.withFetchWord (s : State) (nbits w : Nat) : State :=
  let bs := bytesOfNat 8 (w % 2^(min nbits 64))
  match s.fetchAt with
  | some a => { s with mem := writeBytes s.mem a bs }
  | none => { s.loaded with mem := writeBytes s.loaded.mem loadPc bs }

end Sys2Proof.Machine
end

