-- ==== Sys2Proof/Safety.lean ====
section
/-! DEFINITION. The terms that claims use: a step that goes on, an instruction that issues (R108), what an instruction leaves alone
in its group and in the rest of the machine, an instruction that completes with a result (R82, R95, R198). -/

namespace Sys2Proof.Machine

/-- The step goes on to a next state: it neither faults nor refuses. -/
def Steps (s t : State) : Prop := step s = .next t

/-- Every state of a run of `n` steps from `s` exists: nothing stops. -/
def SafeFor : Nat → State → Prop
  | 0, _ => True
  | n + 1, s => ∃ t, Steps s t ∧ SafeFor n t

/-! ## Issuing -/

/-- The active lanes of an instruction of a group (R12), as it stands once open results have landed where they land first (R95): of any
instruction but a SPAWN of Solstice mode, which lands them too (`reachOf`). -/
def actOf (g : Group) (i : Instr) : Lanes := (g.reach false i).active (useOf i).guard

/-- The group as it reaches `i` in the mode of its block (R95). -/
def reachOf (s : State) (g : Group) (i : Instr) : Group := g.reach (s.isSolstice g.blk) i

/-- Group `g` issues the well-formed instruction `i`, and steps 5 to 9 of R108 raise nothing; no register that it reads is pending
or in error, and no result in error lands before it acts (R97, R332, R372). -/
structure Issues (s : State) (g : Group) (i : Instr) : Prop where
  form : Instr.wf i = true
  here : s.group? s.cur = some g
  clean : landsAt (s.isSolstice g.blk) i = true → firstLanded (reachOf s g i).due = none
  checks : preCheck i (useOf i) (reachOf s g i) = none
  landed : pendingIn (reachOf s g i) ((reachOf s g i).active (useOf i).guard) (readsOf i) = false
  sound : badRead (reachOf s g i) ((reachOf s g i).active (useOf i).guard) i = none
  tags : tagFails (reachOf s g i) ((reachOf s g i).active (useOf i).guard) (useOf i).srcs = 0

/-- No enabled float cause among the flags that the lanes of `i` raise (R129). -/
def NoFpTrap (g : Group) (i : Instr) (f : Nat → Lane → LaneOut) : Prop :=
  fpCause g.fpstat (allFlags (flagsOf g (actOf g i) f)) = none

/-! ## Frames -/

/-- An open window lands register `r` of lane `l`, a predicate, a scalar register (R95). -/
def landsV (g : Group) (l r : Nat) : Prop := ∃ w ∈ g.windows, ∃ x, Landing.vec l r x ∈ w.lands
def landsP (g : Group) (l p : Nat) : Prop := ∃ w ∈ g.windows, ∃ b, Landing.pred l p b ∈ w.lands
def landsS (g : Group) (r : Nat) : Prop := ∃ w ∈ g.windows, ∃ x, Landing.scalar r x ∈ w.lands

/-- What an instruction may write in its group: vector registers and predicates by lane, random counters, wills, reservations by
lane, scalar and address registers, flags, EM. -/
structure Touches where
  vec : Nat → Nat → Prop := fun _ _ => False
  pred : Nat → Nat → Prop := fun _ _ => False
  ctr : Nat → Prop := fun _ => False
  will : Nat → Prop := fun _ => False
  resv : Nat → Prop := fun _ => False
  scal : Nat → Prop := fun _ => False
  addr : Nat → Prop := fun _ => False
  flags : Prop := False
  em : Prop := False

/-- Everything of a group but what `w` names is unchanged, PC, loops, windows and the counts of issue apart: registers, predicates,
lane contexts, scalar and address registers, FPSTAT, the path and its stack entry, the mode, the registers of an exception, the
budget, barriers. -/
structure Same (w : Touches) (g h : Group) : Prop where
  vec : ∀ l r, l < 32 → ¬ w.vec l r → (h.lane l).reg r = (g.lane l).reg r
  pred : ∀ l p, l < 32 → p < 8 → ¬ w.pred l p → (h.lane l).pred p = (g.lane l).pred p
  ctr : ∀ l, l < 32 → ¬ w.ctr l → (h.lane l).ctr = (g.lane l).ctr
  will : ∀ l, l < 32 → ¬ w.will l → (h.lane l).will = (g.lane l).will
  resv : ∀ l, l < 32 → ¬ w.resv l → (h.lane l).resv = (g.lane l).resv
  lane : ∀ l, l < 32 → (h.lane l).key = (g.lane l).key ∧ (h.lane l).wid = (g.lane l).wid ∧ (h.lane l).estq = (g.lane l).estq ∧
    (h.lane l).join = (g.lane l).join
  scal : ∀ r, ¬ w.scal r → h.sreg r = g.sreg r
  addr : ∀ r, ¬ w.addr r → h.areg r = g.areg r
  fpTop : h.fpstat &&& 0xFFFFFF80 = g.fpstat &&& 0xFFFFFF80
  flags : ¬ w.flags → h.fpstat = g.fpstat
  em : ¬ w.em → h.em = g.em
  path : h.path = g.path ∧ h.occ = g.occ ∧ h.cur = g.cur ∧ h.st = g.st
  mode : h.supervisor = g.supervisor ∧ h.saved = g.saved ∧ h.hset = g.hset ∧ h.hseg = g.hseg ∧ h.serving = g.serving
  exc : h.epc = g.epc ∧ h.ecause = g.ecause ∧ h.eaddr = g.eaddr ∧ h.emaskf = g.emaskf ∧ h.einfo = g.einfo ∧ h.elpc = g.elpc
  ident : h.blk = g.blk ∧ h.grp = g.grp ∧ h.role = g.role ∧ h.stage = g.stage ∧ h.budget = g.budget ∧ h.bars = g.bars

/-- What `i` may write once it retires: its own writes, the registers that its last-read marks release (R100), and whatever open
windows land (R95). -/
def Touches.retire (w : Touches) (i : Instr) (g : Group) : Touches :=
  { w with
    vec := fun l r => w.vec l r ∨ r ∈ released (useOf i) ∨ landsV g l r
    pred := fun l p => w.pred l p ∨ landsP g l p
    scal := fun r => w.scal r ∨ landsS g r }

/-- The tables beside the groups and the blocks, memory, the device and the agenda are unchanged. -/
structure Rest (s t : State) : Prop where
  mem : t.mem = s.mem ∧ t.badCw = s.badCw
  work : t.jobs = s.jobs ∧ t.launches = s.launches ∧ t.walkers = s.walkers
  nodes : t.nodes = s.nodes ∧ t.nodeGens = s.nodeGens ∧ t.estates = s.estates ∧ t.nextWill = s.nextWill
  parts : t.quads = s.quads ∧ t.cores = s.cores ∧ t.parts = s.parts ∧ t.vfs = s.vfs ∧ t.dev = s.dev
  turn : t.agenda = s.agenda ∧ t.cur = s.cur

/-- The groups but `s.cur` are unchanged, but that one that has yielded may issue again (R186); so are the blocks, but for the
count of retired instructions (R388). -/
structure Others (s t : State) : Prop where
  groups : ∀ k, k ≠ s.cur → (t.group? k).map (fun x => { x with yielded := false }) = (s.group? k).map (fun x => { x with yielded := false })
  blocks : ∀ b, (t.block? b).map (fun x => { x with retiredCount := 0 }) = (s.block? b).map (fun x => { x with retiredCount := 0 })

/-- The group has advanced in sequence: the next PC with the loop-end step (R82, R184). -/
def Advanced (g h : Group) : Prop := h.pc = g.advance.pc ∧ h.lc = g.advance.lc ∧ h.nest = g.advance.nest

/-! ## Completing -/

/-- Every register that a last-read mark of `i` releases reads as 0, RAW, in every lane (R100), unless an open window lands there. -/
def Released (g : Group) (i : Instr) (h : Group) : Prop :=
  ∀ l r, l < 32 → r ∈ released (useOf i) → ¬ landsV g l r → (h.lane l).reg r = Reg.zero

/-- Instruction `i` of group `g` completes in sequence: `exec` answers a next state in which the group `h` has advanced, nothing
has changed in it but `w` and what retirement changes, and nothing outside it; marked registers are released; `P h` holds. -/
def Completes (s : State) (g : Group) (i : Instr) (w : Touches) (P : Group → Prop) : Prop :=
  ∃ t h, exec i s = .next t ∧ t.group? s.cur = some h ∧ Rest s t ∧ Others s t ∧ Advanced g h ∧ Same (w.retire i g) g h ∧
    Released g i h ∧ P h

/-- The vector registers from `d` on that `f` writes in the active lanes of `i`. -/
def vecTouch (g : Group) (i : Instr) (d : Nat) (f : Nat → Lane → List Reg) : Nat → Nat → Prop :=
  fun l r => (actOf g i).getLsbD l ∧ d ≤ r ∧ r < d + (f l (g.lane l)).length

/-- The registers from `d` on hold what `f` gives in each active lane; v0 takes nothing (R19), and a window that lands there
overrides it (R96). -/
def Holds (g : Group) (i : Instr) (d : Nat) (f : Nat → Lane → List Reg) (h : Group) : Prop :=
  ∀ l k x, l < 32 → (actOf g i).getLsbD l → (f l (g.lane l))[k]? = some x → d + k ≠ 0 → ¬ landsV g l (d + k) →
    (h.lane l).reg (d + k) = x

/-- `i` computes: unless an enabled float cause is met it completes, with `f`'s registers from `d` on in every active lane, and
FPSTAT with the flags raised (R128, R198). -/
def Computes (s : State) (g : Group) (i : Instr) (d : Nat) (f : Nat → Lane → LaneOut) : Prop :=
  Issues s g i → NoFpTrap g i f →
    Completes s g i { vec := vecTouch g i d (fun l x => (f l x).1), flags := True } (fun h =>
      Holds g i d (fun l x => (f l x).1) h ∧ h.fpstat = fpSet g.fpstat (allFlags (flagsOf g (actOf g i) f)))

/-- `i` computes without flags. -/
def ComputesPure (s : State) (g : Group) (i : Instr) (d : Nat) (f : Nat → Lane → List Reg) : Prop :=
  Issues s g i → Completes s g i { vec := vecTouch g i d f } (Holds g i d f)

/-- `i` computes behind a window of LA words (R94, R95): with LA acting as 0 the result is there when it retires; otherwise its
window is the last of the open ones. -/
def ComputesLate (s : State) (g : Group) (i : Instr) (d : Nat) (f : Nat → Lane → LaneOut) : Prop :=
  Issues s g i → NoFpTrap g i f →
    Completes s g i { vec := fun l r => effLa g i = 0 ∧ vecTouch g i d (fun l x => (f l x).1) l r, flags := True } (fun h =>
      h.fpstat = fpSet g.fpstat (allFlags (flagsOf g (actOf g i) f)) ∧
      (effLa g i = 0 → ∀ l k x, l < 32 → (actOf g i).getLsbD l → (f l (g.lane l)).1[k]? = some x → d + k ≠ 0 →
        (h.lane l).reg (d + k) = x) ∧
      (effLa g i ≠ 0 → h.windows.getLast? =
        some { pc := g.pc, path := g.path, left := effLa g i, lands := landingsOf g (actOf g i) d f }))

/-- `i` writes predicate `p` in every active lane; p0 takes nothing (R19). -/
def ComputesPred (s : State) (g : Group) (i : Instr) (p : Nat) (f : Nat → Lane → Bool) : Prop :=
  Issues s g i →
    Completes s g i { pred := fun l q => (actOf g i).getLsbD l ∧ q = p } (fun h =>
      ∀ l, l < 32 → (actOf g i).getLsbD l → p ≠ 0 → p < 8 → ¬ landsP g l p → (h.lane l).pred p = f l (g.lane l))

/-- The landings `ls` of instruction `i` (R95, R96): with LA acting as 0 each is in its place once `i` has retired, unless the list
names the place twice; otherwise they are those of the last open window. -/
def Lands (g h : Group) (i : Instr) (ls : List Landing) : Prop :=
  (effLa g i = 0 →
    (∀ l r x, l < 32 → r ≠ 0 → Landing.vec l r x ∈ ls → (∀ y, Landing.vec l r y ∈ ls → y = x) → (h.lane l).reg r = x) ∧
    (∀ l p b, l < 32 → p ≠ 0 → p < 8 → Landing.pred l p b ∈ ls → (∀ c, Landing.pred l p c ∈ ls → c = b) → (h.lane l).pred p = b) ∧
    (∀ r x, Landing.scalar r x ∈ ls → (∀ y, Landing.scalar r y ∈ ls → y = x) → h.sreg r = x)) ∧
  (effLa g i ≠ 0 → h.windows.getLast? = some { pc := g.pc, path := g.path, left := effLa g i, lands := ls })

/-- What landings may write when they land as the instruction retires. -/
def landTouch (g : Group) (i : Instr) (ls : List Landing) : Touches where
  vec := fun l r => effLa g i = 0 ∧ ∃ x, Landing.vec l r x ∈ ls
  pred := fun l p => effLa g i = 0 ∧ ∃ b, Landing.pred l p b ∈ ls
  scal := fun r => effLa g i = 0 ∧ ∃ x, Landing.scalar r x ∈ ls

/-- A group without its reservations and its yield. -/
def Group.sansResv (g : Group) : Group := { g with yielded := false, lanes := g.lanes.map (fun x => { x with resv := none }) }

/-- What a write of memory leaves alone (R162, R302): all but memory, codewords in error, the copies that snapshots take and
reservations; a group of the core may issue again, and the block counts the instruction. -/
structure StoreRest (s t : State) : Prop where
  groups : ∀ k, k ≠ s.cur → (t.group? k).map Group.sansResv = (s.group? k).map Group.sansResv
  blocks : ∀ b, (t.block? b).map (fun x => { x with retiredCount := 0 }) = (s.block? b).map (fun x => { x with retiredCount := 0 })
  work : t.jobs = s.jobs ∧ t.launches = s.launches ∧ t.walkers = s.walkers
  nodes : t.nodes = s.nodes ∧ t.nodeGens = s.nodeGens ∧ t.estates = s.estates ∧ t.nextWill = s.nextWill
  units : t.quads = s.quads ∧ t.cores = s.cores ∧ t.vfs = s.vfs ∧ t.dev = s.dev
  parts : ∀ p, { t.part p with marks := [] } = { s.part p with marks := [] }
  turn : t.agenda = s.agenda ∧ t.cur = s.cur

/-- `i` completes with writes of `n` bytes at the addresses `as`: no other byte of memory changes. -/
def Stores (s : State) (g : Group) (i : Instr) (w : Touches) (as : List Nat) (n : Nat) (P : State → Group → Prop) : Prop :=
  ∃ t h, exec i s = .next t ∧ t.group? s.cur = some h ∧ Advanced g h ∧ StoreRest s t ∧
    Same ({ w with resv := fun _ => True : Touches }.retire i g) g h ∧ Released g i h ∧
    (∀ a, (∀ x ∈ as, a < x ∨ x + n ≤ a) → readByte t.mem a = readByte s.mem a) ∧ P t h

/-- `i` completes and has set the PC itself: everything else as `Completes`. -/
def Jumps (s : State) (g : Group) (i : Instr) (w : Touches) (P : Group → Prop) : Prop :=
  ∃ t h, exec i s = .next t ∧ t.group? s.cur = some h ∧ Rest s t ∧ Others s t ∧ Same (w.retire i g) g h ∧ P h

/-- `i` divides the group's path as R171 says, once the results of the transfer have landed (R95): PATH, EM, PC, CUR and the group's
entries are those of the procedure, and everything else is as it was. -/
def Divides (s : State) (g : Group) (i : Instr) (t : Lanes) (tpc fpc rpc : W64) (kind : EntryKind) : Prop :=
  (splitPushes g t tpc fpc kind = true → s.stackFull g = false) →
    ∃ u h, exec i s = .next u ∧ u.group? s.cur = some h ∧ Rest s u ∧ h.st = g.st ∧
      (∀ x, x = split s.nextEntry s.cur g.landPath (s.ownEntries s.cur g) t tpc fpc rpc kind →
        h.path = x.1.path ∧ h.em = x.1.em ∧ h.pc = x.1.pc ∧ h.cur = x.1.cur ∧ u.ownEntries s.cur h = x.2) ∧
      Same (({} : Touches).retire i g) g { h with path := g.path, em := g.em, cur := g.cur, hseg := g.hseg } ∧
      (∀ k, k ≠ s.cur → (u.group? k).map (fun x => { x with yielded := false }) = (s.group? k).map (fun x => { x with yielded := false })) ∧
      (∀ b, (u.block? b).map (fun x => { x with retiredCount := 0, stack := [] }) =
        (s.block? b).map (fun x => { x with retiredCount := 0, stack := [] }))

/-- RET goes on: PATH, EM and PC are those given, the group's entries those of `es`, and everything else is as it was (R170, R174). -/
def Returns (s : State) (g : Group) (f : FC) (path em : Lanes) (pc : W64) (es : List Entry) : Prop :=
  ∃ u h, exec (.ret f) s = .next u ∧ u.group? s.cur = some h ∧ Rest s u ∧ h.path = path ∧ h.em = em ∧ h.pc = pc ∧
    u.ownEntries s.cur h = es ∧ Same (({} : Touches).retire (.ret f) g) g { h with path := g.path, em := g.em, cur := g.cur } ∧
    (∀ k, k ≠ s.cur → (u.group? k).map (fun x => { x with yielded := false }) = (s.group? k).map (fun x => { x with yielded := false })) ∧
    (∀ b, (u.block? b).map (fun x => { x with retiredCount := 0, stack := [] }) =
      (s.block? b).map (fun x => { x with retiredCount := 0, stack := [] }))

/-- `i` writes scalar register `d`. -/
def ComputesScalar (s : State) (g : Group) (i : Instr) (d : Nat) (v : W32) : Prop :=
  Issues s g i → Completes s g i { scal := fun r => r = d } (fun h => ¬ landsS g d → h.sreg d = v)

/-- Two words of a lane under an operation, one by one, RAW (R205). -/
def wordPair (x : Lane) (a b : Nat) (op : W32 → W32 → W32) : List Reg :=
  [⟨op (x.reg a).val (x.reg b).val, tagRAW⟩, ⟨op (x.reg (a + 1)).val (x.reg (b + 1)).val, tagRAW⟩]

/-- A form that draws `n` times a lane completes: its registers, its flags, and the counter moved on in every active lane; with TWR
clear, or no counter wrapped, nothing traps (R142, R143, R228, R219, R220). -/
def Draws (s : State) (g : Group) (i : Instr) (d n : Nat) (f : Nat → Lane → LaneOut) : Prop :=
  Issues s g i → NoFpTrap g i f →
    (fpTwr g.fpstat = false ∨ ∀ l, l < 32 → (actOf g i).getLsbD l → wraps (g.lane l).ctr n = false) →
    Completes s g i { vec := vecTouch g i d (fun l x => (f l x).1), ctr := fun l => (actOf g i).getLsbD l, flags := True } (fun h =>
      Holds g i d (fun l x => (f l x).1) h ∧
      (∀ l, l < 32 → (actOf g i).getLsbD l → (h.lane l).ctr = (g.lane l).ctr + BitVec.ofNat 48 n) ∧
      h.fpstat = fpSet g.fpstat (allFlags (flagsOf g (actOf g i) f) |||
        if (lanesOf (actOf g i)).any (fun l => wraps (g.lane l).ctr n) then flWR else 0))

/-- A tree form completes: `f` gives each active lane its result, `fl` the flags of the tree (R226, R227, R273, R95). -/
def TreeForm (s : State) (g : Group) (i : Instr) (d : Nat) (fl : List (Nat × FlagSet)) (f : Nat → Reg) : Prop :=
  Issues s g i → fpCause g.fpstat (allFlags fl) = none →
    Completes s g i { vec := fun l r => effLa g i = 0 ∧ (actOf g i).getLsbD l ∧ r = d, flags := True } (fun h =>
      h.fpstat = fpSet g.fpstat (allFlags fl) ∧
      (effLa g i = 0 → d ≠ 0 → ∀ l, l < 32 → (actOf g i).getLsbD l → (h.lane l).reg d = f l) ∧
      (effLa g i ≠ 0 → h.windows.getLast? = some { pc := g.pc, path := g.path, left := effLa g i
                                                   lands := (lanesOf (actOf g i)).map (fun l => Landing.vec l d (f l)) }))

/-- A form whose lanes raise the flags `fls` takes the highest-ranked enabled cause (R129): the handler runs at its vector, FPSTAT has
the flags, no vector register or predicate is written but by open windows that land (R365), and nothing outside the group changes but
yields (R186) and the count of free values (`u`). -/
def TrapsWith (s u : State) (g : Group) (i : Instr) (fls : List (Nat × FlagSet)) : Prop :=
  ∀ fl code, Issues s g i → g.supervisor = false → goodVector (s.hvec g) = true → fpCause g.fpstat (allFlags fls) = some (fl, code) →
    ∃ h, exec i s = .next ((u.clearYields s.cur g).setGroup s.cur h) ∧ h.pc = s.hvec g ∧ h.supervisor = true ∧ h.epc = g.pc ∧ h.ecause.toNat = code ∧
      h.fpstat = fpSet g.fpstat (allFlags fls) ∧ h.emaskf = flagLanes fls fl ∧
      (∀ l r, l < 32 → ¬ landsV g l r → (h.lane l).reg r = (g.lane l).reg r) ∧
      (∀ l p, l < 32 → ¬ landsP g l p → (h.lane l).pred p = (g.lane l).pred p) ∧
      (fl, code) ∈ fpCauses ∧
      (∀ c ∈ fpCauses, allFlags fls &&& fpTraps g.fpstat &&& c.1 ≠ 0 → code ≤ c.2)

/-- The same for a form that computes lane by lane. -/
def TrapsOnFlag (s : State) (g : Group) (i : Instr) (f : Nat → Lane → LaneOut) : Prop :=
  TrapsWith s s g i (flagsOf g (actOf g i) f)

/-- The full-word form of a half of a dual word (R102, R103): SUB 0, no marks, no hold; in mode 0 the destination is the first source,
in mode 2 the sources are exchanged, and FFMA adds to its destination. -/
def fullOf (h : Half) : Instr :=
  match h with
  | .nop => .nop
  | .r op m d s t =>
    let f (a b : BitVec 8) : FA := { g := ⟨0, false⟩, d := d.setWidth 8, a := a, b := b, c := 0, la := 0, hs := 0, he := 0, lra := false, lrb := false,
                                     lrc := false }
    let f : FA := match m with | .m0 => f (d.setWidth 8) s | .m1 => f s t | .m2 => f t s
    match op with
    | .iadd => .iadd (.a f) .s32 false
    | .isub => .isub f .s32 false
    | .imin => .imin f .s32
    | .imax => .imax f .s32
    | .and => .and (.a f) false
    | .or => .or (.a f) false
    | .xor => .xor (.a f) false
    | .andn => .andn f false
    | .shl => .shl (.a f)
    | .shr => .shr (.a f)
    | .sar => .sar (.a f)
    | .fadd => .fadd (.a f) ⟨false, .rn, .f32⟩
    | .fsub => .fsub f ⟨false, .rn, .f32⟩
    | .fmul => .fmul (.a f) ⟨false, .rn, .f32⟩
    | .fmin => .fmin f false .f32
    | .fmax => .fmax f false .f32
    | .imul => .imul (.a f) .s32 false .lo
  | .i op d s k =>
    let f : FI := { g := ⟨0, false⟩, d := d.setWidth 8, a := s, imm := k.signExtend 32, lra := false }
    match op with
    | .iadd => .iadd (.i f) .s32 false
    | .and => .and (.i f) false
    | .or => .or (.i f) false
    | .xor => .xor (.i f) false
    | .shl => .shl (.i f)
    | .shr => .shr (.i f)
    | .sar => .sar (.i f)
  | .u op d s =>
    let f : FA := { g := ⟨0, false⟩, d := d.setWidth 8, a := s, b := 0, c := 0, la := 0, hs := 0, he := 0, lra := false, lrb := false, lrc := false }
    match op with
    | .mov => .mov f false
    | .popc => .popc f
    | .brev => .brev f
  | .movi d k => .movi { g := ⟨0, false⟩, d := d.setWidth 8, a := 0, imm := k.signExtend 32, lra := false } .s32
  | .ffma d s t =>
    .ffma { g := ⟨0, false⟩, d := d.setWidth 8, a := s, b := t, c := d.setWidth 8, la := 0, hs := 0, he := 0, lra := false, lrb := false,
            lrc := false } ⟨false, .rn, .f32⟩

/-- A scan with carry-in (R138, R139): `node` the tree's operation, `last` the final step on the carry-in from register `c` of the
lowest active lane. -/
def ScanForm (s : State) (g : Group) (i : Instr) (d c : Nat) (node : Scan → Scan → Scan × FlagSet) (last : Nat → Scan → Nat × FlagSet)
    (vals : List (Option Scan)) : Prop :=
  ∀ (t : Tree Scan) (hin : Nat) (fin : Nat → Nat × FlagSet) (fls : List (Nat × FlagSet)), t = scanTree (actOf g i) node vals →
    hin = (match lowest (actOf g i) with | some l => ((g.lane l).reg c).val.toNat | none => 0) →
    fin = (fun l => match t.vals.getD l none with | some e => if e.r then (e.b, 0) else last hin e | none => (0, 0)) →
    fls = t.flags ++ (lanesOf (actOf g i)).map (fun l => (l, (fin l).2)) →
    TreeForm s g i d fls (fun l => ⟨BitVec.ofNat 32 (fin l).1, tagF32⟩) ∧ TrapsWith s s g i fls

/-- The value of SHFL in lane `l` from source `src`, outside a handler (R225). -/
def shuffled (g : Group) (act : Lanes) (a : Nat) (zf : Bool) (l : Nat) (src : Int) : Reg :=
  if 0 ≤ src ∧ src < 32 ∧ act.getLsbD src.toNat then (g.lane src.toNat).reg a else if zf then ⟨0, tagRAW⟩ else (g.lane l).reg a

/-- The group takes cause `t` at its instruction (R361, R365): its handler runs, the cause's registers are written, the path that
ran and its PC are saved, and nothing outside the group changes but that a group of the core that has yielded may issue again (R186). The word
has issued, as the fairness count tells (R172). -/
def Takes (s : State) (g : Group) (i : Instr) (t : Trap) : Prop :=
  g.supervisor = false → goodVector (s.hvec g) = true →
    ∃ u, exec i s = .next u ∧
      u = (s.clearYields s.cur g).setGroup s.cur (((reachOf s g i).countIssue (s.isSolstice g.blk)).enter t g.pc (s.hvec g) (t.info i))

/-- The count that completes the current phase of barrier `n`, with this arrival's count field (R190). -/
def phaseCount (s : State) (g : Group) (nb : NamedBar) (count : Nat) : Nat :=
  if nb.count.getD count = 0 then (s.liveGroups g.blk).length else nb.count.getD count

/-- Row and byte offset of an active lane's element (R246). -/
def tileOffset (f : FMt) (sz : BitVec 3) (t : Tile) (g : Group) (l : Nat) : Nat × Nat :=
  (tileIndex g (g.lane l) f.rk f.row.toNat,
    tileIndex g (g.lane l) f.rk f.row.toNat * t.rowBytes + tileIndex g (g.lane l) f.ck f.col.toNat * szBytes sz)

/-- A card issues (R248): the group goes on, the queue holds a job of kind `c` with the card's regions, and nothing else changes:
the job waits on those it overlaps, or is staged in Solstice mode. -/
def Posts (s : State) (g : Group) (i : Instr) (c : Card) (cb : Option Nat) (follow : Option Card) : Prop :=
  Issues s g i → (∀ n, cb = some n → ((s.blockOf g).copyBar n).init = true) → s.queueFull (s.quadOf g) = false →
    ∃ t h j, exec i s = .next t ∧ t.group? s.cur = some h ∧ Advanced g h ∧ Same (({} : Touches).retire i g) g h ∧
      t.job? s.ticks = some j ∧ j.kind = c.1 ∧ j.reads = c.2.1 ∧ j.writes = c.2.2 ∧ j.gid = s.cur ∧ j.blk = g.blk ∧ j.pc = g.pc ∧
      j.quad = s.quadOf g ∧ j.part = s.partOf g ∧ j.credit = s.creditOf g cb ∧ j.off = 0 ∧
      (s.isSolstice g.blk = false → j.st = .queued ∧ ∀ k x, k < s.ticks → s.job? k = some x → x.quad = j.quad → s.jobHere x = true → x.inFlight = true →
        edge x j false = true → k ∈ j.preds) ∧
      (s.isSolstice g.blk = true → j.st = .staged ∧ h.staged = g.staged ++ [.card s.ticks]) ∧
      (∀ k x, k < s.ticks → s.job? k = some x → t.job? k = some x) ∧
      (∀ x, follow = some x → ∃ k r, t.job? k = some r ∧ r.kind = x.1 ∧ r.st = .following ∧ r.after = some s.ticks) ∧
      t.mem = s.mem ∧ t.nodes = s.nodes ∧ t.quads = s.quads ∧ t.parts = s.parts ∧ t.dev = s.dev ∧
      (∀ b, (t.block? b).map (fun x => { x with retiredCount := 0 }) = (s.block? b).map (fun x => { x with retiredCount := 0 }))

/-- The event `i` ends job `id`, whose group lives, with the cause `d` for it, and changes no byte of memory (R262, R264, R301): the cause
falls due at once, and in Solstice mode it waits for the quantum end that shows the block the job (R382; log entry 118); FBC counts a feedback job that has started (R276). No job of the machine waits for a replay entry. -/
def JobFails (s : State) (i : Instr) (id : Nat) (j : Job) (d : Due) : Prop :=
  ∀ g n, s.group? j.gid = some g → g.blk = j.blk → g.st ≠ .retired → (∀ k ∈ s.jobs, k.2.st ≠ .parked none) →
    n = (s.quad j.quad).lathe.fbc + (if j.feeds then 1 else 0) → (j.feeds = true → n ≠ 0) →
    ∃ t, exec i s = .next t ∧ t.job? id = none ∧ t.mem = s.mem ∧
      (if s.isSolstice j.blk then t.group? j.gid = some g ∧
        (t.block? j.blk).map (·.later) = (s.block? j.blk).map (fun b => b.later ++ [{ job := id, gid := j.gid, due := some d }])
      else t.group? j.gid = some { g with due := g.due ++ [d] }) ∧
      (t.quad j.quad).lathe.fbc = n

/-- A completion record stands at its address when that can be written (R336). -/
def RecordAt (s t : State) (p : Nat) (compl : W64) (bs : List Byte) : Prop :=
  ∀ pg, canonical compl = true → s.walk p compl = .page pg → pg.w = true → compl.toNat % pg.bytes + 64 ≤ pg.bytes →
    s.isBadPart (pg.at compl) 64 = false → readBytes t.mem (pg.at compl) 64 = bs ∧
      ∀ k, k < pg.at compl ∨ pg.at compl + 64 ≤ k → readByte t.mem k = readByte s.mem k

/-! ## Numbers -/

/-- A value of R130's val is the real number `x`. -/
def FVal.Is (v : FVal) (x : ℝ) : Prop := ∃ s m e, v = .fin s m e ∧ x = (if s then -1 else 1) * (m : ℝ) * (2 : ℝ)^(e : ℤ)

/-- A finite value with sign `neg` and magnitude `a`. -/
def FVal.Mag (v : FVal) (neg : Bool) (a : ℝ) : Prop := ∃ m e, v = .fin neg m e ∧ a = (m : ℝ) * (2 : ℝ)^(e : ℤ)

/-- The sign of a value. -/
def FVal.sign : FVal → Bool
  | .nan => false
  | .inf s => s
  | .fin s _ _ => s

/-- A rounding takes the upper of two neighbours, when the lower is `n` spacings and `t` spacings are left over (R121, R123). -/
def takesUpper (mode : RMode) (neg : Bool) (n : Nat) (t : ℝ) : Prop :=
  match mode with
  | .rn => 1 / 2 < t ∨ t = 1 / 2 ∧ n % 2 = 1
  | .rz => False
  | .ru => t ≠ 0 ∧ neg = false
  | .rd => t ≠ 0 ∧ neg = true
  | .rs u => (u : ℝ) + 1 ≤ t * 2^32

/-- The magnitude `a` of a number with sign `neg` rounds to the multiple `b` of `q` (R121, R123). -/
def RoundsOn (mode : RMode) (neg : Bool) (q a b : ℝ) : Prop :=
  ∃ n : Nat, (n : ℝ) * q ≤ a ∧ a < ((n : ℝ) + 1) * q ∧
    (takesUpper mode neg n ((a - n * q) / q) → b = ((n : ℝ) + 1) * q) ∧ (¬ takesUpper mode neg n ((a - n * q) / q) → b = (n : ℝ) * q)

/-- rnd and sr (R121, R123): the magnitude `a` rounds to `b` at the format's spacing near it, the exponent unbounded above. -/
def RoundsIn (f : Fmt) (mode : RMode) (neg : Bool) (a b : ℝ) : Prop :=
  ∃ k : ℤ, (2 : ℝ)^k ≤ a ∧ a < (2 : ℝ)^(k + 1) ∧ RoundsOn mode neg ((2 : ℝ)^(max k f.emin - (f.p : ℤ) + 1)) a b

/-- The result of an overflow (R122, R126), `m` the largest finite magnitude. -/
def Overflown (f : Fmt) (mode : RMode) (sat neg : Bool) (m : ℝ) (out : Nat × FlagSet) : Prop :=
  if sat then (val f out.1).Mag neg m ∧ out.2 = flSAT ||| flNX
  else out.2 = flOF ||| flNX ∧
    if f.ieee then
      (match mode with
       | .rn | .rs _ => val f out.1 = .inf neg
       | .rz => (val f out.1).Mag neg m
       | .ru => if neg then (val f out.1).Mag neg m else val f out.1 = .inf neg
       | .rd => if neg then val f out.1 = .inf neg else (val f out.1).Mag neg m)
    else if f.bits = 8 then val f out.1 = .nan ∧ signBit f out.1 = neg
    else (val f out.1).Mag neg m

/-- An exact number of sign `neg` and magnitude `a`, not 0, delivered in a format: rounded once, with the flags of R121 to R126 and
the flush of .ftz (R124). -/
def Delivers (f : Fmt) (mode : RMode) (sat ftz neg : Bool) (a : ℝ) (out : Nat × FlagSet) : Prop :=
  ∃ b m : ℝ, RoundsIn f mode neg a b ∧ (val f f.maxPat).Mag false m ∧ out.1 < 2^f.bits ∧
    (m < b → Overflown f mode sat neg m out) ∧
    (b ≤ m → ftz = true → b < (2 : ℝ)^f.emin → (val f out.1).Mag neg 0 ∧ out.2 = flUF ||| flNX) ∧
    (b ≤ m → (ftz = true → (2 : ℝ)^f.emin ≤ b) → (val f out.1).Mag neg b ∧ (b = a → out.2 = 0) ∧
      (b ≠ a → out.2 = if b < (2 : ℝ)^f.emin then flUF ||| flNX else flNX))

/-- What an exact result becomes in a format: NaN, infinity and zero as such and without a flag (R111), any other number as
`Delivers` says. -/
def Rounded (f : Fmt) (mode : RMode) (ftz : Bool) (v : FVal) (out : Nat × FlagSet) : Prop :=
  out.1 < 2^f.bits ∧ (v = .nan → out = (f.nan, 0)) ∧ (∀ s, v = .inf s → val f out.1 = .inf s ∧ out.2 = 0) ∧
    (v.Is 0 → (val f out.1).Mag v.sign 0 ∧ out.2 = 0) ∧
    (∀ neg a, 0 < a → v.Mag neg a → Delivers f mode false ftz neg a out)

/-- ∞ − ∞, 0 · ∞ (R111). -/
def ClashAdd (p q : FVal) : Prop := ∃ s, p = .inf s ∧ q = .inf (!s)
def ClashMul (p q : FVal) : Prop := ∃ s, p.Is 0 ∧ q = .inf s ∨ p = .inf s ∧ q.Is 0

/-- `r` is the exact sum: a NaN operand gives NaN, an infinite one that infinity; a zero sum has the operands' sign, and where they
differ it is negative under RD alone (R111). -/
def SumIs (mode : RMode) (p q r : FVal) : Prop :=
  ¬ ClashAdd p q ∧ (p = .nan ∨ q = .nan → r = .nan) ∧
    (∀ s, p ≠ .nan → q ≠ .nan → (p = .inf s ∨ q = .inf s) → r = .inf s) ∧
    (∀ x y, p.Is x → q.Is y → r.Is (x + y) ∧ (x + y = 0 → (p.sign = q.sign → r.sign = p.sign) ∧
      (p.sign ≠ q.sign → (r.sign = true ↔ mode = .rd))))

/-- `r` is the exact product, its sign the XOR of the operands' (R210). -/
def ProductIs (p q r : FVal) : Prop :=
  ¬ ClashMul p q ∧ (p = .nan ∨ q = .nan → r = .nan) ∧
    (∀ s, p ≠ .nan → q ≠ .nan → (p = .inf s ∨ q = .inf s) → r = .inf (p.sign != q.sign)) ∧
    (∀ x y, p.Is x → q.Is y → r.Is (x * y) ∧ r.sign = (p.sign != q.sign))

/-- The place of a value on the extended line; a NaN has none, and −0 lies with +0 (R212). -/
def FVal.At (v : FVal) (x : EReal) : Prop := v = .inf true ∧ x = ⊥ ∨ v = .inf false ∧ x = ⊤ ∨ ∃ r : ℝ, v.Is r ∧ x = r

/-- No NaN, and not above: −0 lies below +0 (R211). -/
def FVal.Below (v w : FVal) : Prop :=
  v ≠ .nan ∧ w ≠ .nan ∧ (v = .inf true ∨ w = .inf false ∨
    ∃ x y, v.Is x ∧ w.Is y ∧ x ≤ y ∧ (x = y → v.sign = false → w.sign = false))

end Sys2Proof.Machine
end

