-- ==== Sys2Proof/Certificates/Slice0/Obligations.lean ====
section
/-! DEFINITION. What the provers are asked to show of the model. -/

open Sys2Proof Sys2Proof.Machine

/-! ## Arithmetic in lanes -/

/-- R198 to R204, R128: each integer form completes with its exact result in every active lane, wrapped or clamped in its type, and
with the flags raised; IDIV and IREM behind their window (R95). As in every statement of a completion, a register that a last-read
mark releases reads 0, RAW, afterwards (R100). -/
def Obligations.IntegerFormsComplete : Prop :=
  ∀ (s : State) (g : Group),
    (∀ o t sat, Computes s g (.iadd o t sat) (opDst o) (intAI (· + ·) o t sat g)) ∧
    (∀ f t sat, Computes s g (.isub f t sat) f.d.toNat (intAI (· - ·) (.a f) t sat g)) ∧
    (∀ f t, Computes s g (.imin f t) f.d.toNat (intAI min (.a f) t false g)) ∧
    (∀ f t, Computes s g (.imax f t) f.d.toNat (intAI max (.a f) t false g)) ∧
    (∀ f t, Computes s g (.iadd3 f t) f.d.toNat (fun _ x =>
      packInts t false [intReg t x f.a.toNat + intReg t x f.b.toNat + intReg t x f.c.toNat])) ∧
    (∀ o t sat part, Computes s g (.imul o t sat part) (opDst o) (laneMul o t sat part g)) ∧
    (∀ f t sat wide, Computes s g (.imad f t sat wide) f.d.toNat (laneMad f t sat wide g)) ∧
    (∀ f t sat, Computes s g (.iabs f t sat) f.d.toNat (fun _ x =>
      packInts t sat ((intElems t (intA f t x)).map (fun y => (y.natAbs : Int))))) ∧
    (∀ f t, Computes s g (.isad f t) f.d.toNat (fun _ x =>
      ([⟨BitVec.ofNat 32 (((intElems t (intA f t x)).zipWith (fun a b => (a - b).natAbs) (intElems t (intB f t x))).foldl (· + ·) 0 +
        (x.reg f.c.toNat).val.toNat), tagN32⟩], 0))) ∧
    (∀ f t, ComputesLate s g (.idiv f t) f.d.toNat (laneDiv f t false g)) ∧
    (∀ f t, ComputesLate s g (.irem f t) f.d.toNat (laneDiv f t true g))

/-- R199, R200, R202: what the exact results of the integer forms come to in 32 bits, in a pair and in bytes: sums and differences
modulo the width, the clamp of .sat with its flag, the parts of a product, a product and a sum in one step. -/
def Obligations.IntegerResultsWrapAndClamp : Prop :=
  ∀ (f : FA) (g : Group) (l : Nat) (x : Lane),
    (intAI (· + ·) (.a f) .s32 false g l x = ([⟨(x.reg f.a.toNat).val + (x.reg f.b.toNat).val, tagI32⟩], 0)) ∧
    (intAI (· - ·) (.a f) .n32 false g l x = ([⟨(x.reg f.a.toNat).val - (x.reg f.b.toNat).val, tagN32⟩], 0)) ∧
    (intAI (· + ·) (.a f) .s64 false g l x = (pairRegs (x.pair f.a.toNat + x.pair f.b.toNat) tagI64, 0)) ∧
    (intAI min (.a f) .n32 false g l x =
      ([⟨if (x.reg f.a.toNat).val.ult (x.reg f.b.toNat).val then (x.reg f.a.toNat).val else (x.reg f.b.toNat).val, tagN32⟩], 0)) ∧
    (intAI max (.a f) .s32 false g l x =
      ([⟨if (x.reg f.a.toNat).val.slt (x.reg f.b.toNat).val then (x.reg f.b.toNat).val else (x.reg f.a.toNat).val, tagI32⟩], 0)) ∧
    (∀ k, k < 4 → ∃ r, (intAI (· + ·) (.a f) .n8x4 false g l x).1 = [r] ∧ r.tag = tagN8x4 ∧
      r.val.extractLsb' (8 * k) 8 = (x.reg f.a.toNat).val.extractLsb' (8 * k) 8 + (x.reg f.b.toNat).val.extractLsb' (8 * k) 8) ∧
    (∃ r, intAI (· + ·) (.a f) .s32 true g l x = ([r], if r.val.toInt = (x.reg f.a.toNat).val.toInt + (x.reg f.b.toNat).val.toInt
        then 0 else flSAT) ∧
      r.val.toInt = max (-(2^31)) (min (2^31 - 1) ((x.reg f.a.toNat).val.toInt + (x.reg f.b.toNat).val.toInt))) ∧
    (laneMul (.a f) .s32 false .lo g l x = ([⟨(x.reg f.a.toNat).val * (x.reg f.b.toNat).val, tagI32⟩], 0)) ∧
    (laneMul (.a f) .n32 false .wide g l x =
      (pairRegs ((x.reg f.a.toNat).val.setWidth 64 * (x.reg f.b.toNat).val.setWidth 64) tagI64, 0)) ∧
    (laneMul (.a f) .n32 false .hi g l x =
      ([⟨(((x.reg f.a.toNat).val.setWidth 64 * (x.reg f.b.toNat).val.setWidth 64) >>> 32).setWidth 32, tagN32⟩], 0)) ∧
    (laneMul (.a f) .s32 false .hi g l x =
      ([⟨(((x.reg f.a.toNat).val.signExtend 64 * (x.reg f.b.toNat).val.signExtend 64) >>> 32).setWidth 32, tagI32⟩], 0)) ∧
    (laneMad f .s32 false false g l x = ([⟨(x.reg f.a.toNat).val * (x.reg f.b.toNat).val + (x.reg f.c.toNat).val, tagI32⟩], 0)) ∧
    (laneMad f .n32 false false g l x = ([⟨(x.reg f.a.toNat).val * (x.reg f.b.toNat).val + (x.reg f.c.toNat).val, tagN32⟩], 0)) ∧
    (∀ y : Int, y = (x.reg f.a.toNat).val.toInt * (x.reg f.b.toNat).val.toInt + (x.reg f.c.toNat).val.toInt →
      ∃ r, laneMad f .s32 true false g l x = ([r], if r.val.toInt = y then 0 else flSAT) ∧ r.tag = tagI32 ∧
        r.val.toInt = max (-(2^31)) (min (2^31 - 1) y)) ∧
    (∀ y : Nat, y = (x.reg f.a.toNat).val.toNat * (x.reg f.b.toNat).val.toNat + (x.reg f.c.toNat).val.toNat →
      ∃ r, laneMad f .n32 true false g l x = ([r], if r.val.toNat = y then 0 else flSAT) ∧ r.tag = tagN32 ∧ r.val.toNat = min (2^32 - 1) y) ∧
    (laneMad f .s32 false true g l x = (pairRegs ((x.reg f.a.toNat).val.signExtend 64 * (x.reg f.b.toNat).val.signExtend 64 +
      x.pair f.c.toNat) tagI64, 0)) ∧
    (laneMad f .n32 false true g l x = (pairRegs ((x.reg f.a.toNat).val.setWidth 64 * (x.reg f.b.toNat).val.setWidth 64 +
      x.pair f.c.toNat) tagI64, 0))

/-- R203: IDIV and IREM truncate toward zero, the most negative number divided by −1 gives itself and leaves 0, a division by zero
gives all ones and leaves the dividend, and it alone raises a flag, DZ, which
traps with FP_DIVZERO when TDZ is set. -/
def Obligations.DivisionTruncates : Prop :=
  (∀ (f : FA) (g : Group) (l : Nat) (x : Lane) (a b : W32), (x.reg f.a.toNat).val = a → (x.reg f.b.toNat).val = b →
      (b ≠ 0 → laneDiv f .s32 false g l x = ([⟨a.sdiv b, tagI32⟩], 0) ∧ laneDiv f .s32 true g l x = ([⟨a.srem b, tagI32⟩], 0) ∧
        laneDiv f .n32 false g l x = ([⟨a / b, tagN32⟩], 0) ∧ laneDiv f .n32 true g l x = ([⟨a % b, tagN32⟩], 0)) ∧
      (a = 0x80000000 → b = 0xFFFFFFFF →
        laneDiv f .s32 false g l x = ([⟨0x80000000, tagI32⟩], 0) ∧ laneDiv f .s32 true g l x = ([⟨0, tagI32⟩], 0)) ∧
      (b = 0 → ∀ t, laneDiv f t false g l x = ([⟨0xFFFFFFFF, ityTag t⟩], flDZ) ∧ laneDiv f t true g l x = ([⟨a, ityTag t⟩], flDZ))) ∧
  (∀ (s : State) (g : Group) (f : FA) (t : ITy),
      ComputesLate s g (.idiv f t) f.d.toNat (laneDiv f t false g) ∧ ComputesLate s g (.irem f t) f.d.toNat (laneDiv f t true g) ∧
      TrapsOnFlag s g (.idiv f t) (laneDiv f t false g) ∧ TrapsOnFlag s g (.irem f t) (laneDiv f t true g)) ∧
  (∀ fp : W32, fpCause fp flDZ = (if fp.getLsbD 8 then some (flDZ, 0x102) else none) ∧ fpCause fp 0 = none ∧
    fpSet fp flDZ = fp ||| 2 ∧ fpSet fp 0 = fp)

/-! ## Moves, logic, fields, tags -/

/-- R201: MOV copies a register, or a pair, with its tags; MOVI writes its immediate with the tag of its form; SEL takes vA where pC
is true and vB elsewhere, with the tag of the one taken; no tag of a source is refused.
The opcodes and the SUB fields are those of the table. Where a destination is v0 or p0 (R19) nothing is kept: v0 reads as zero, RAW,
and p0 as true. -/
def Obligations.MovesCopyValueAndTag : Prop :=
  (∀ (x : Lane) (r : Reg) (b : Bool) (rs : List Reg),
    x.reg 0 = ⟨0, tagRAW⟩ ∧ x.pred 0 = true ∧ (x.setReg 0 r).reg 0 = ⟨0, tagRAW⟩ ∧ (x.setRegs 0 rs).reg 0 = ⟨0, tagRAW⟩ ∧
    (x.setPred 0 b).pred 0 = true ∧ (∀ k, (x.setReg 0 r).reg k = x.reg k) ∧
    (∀ p, p < 8 → (x.setPred 0 b).pred p = x.pred p)) ∧
  ∀ (s : State) (g : Group),
    (∀ f, ComputesPure s g (.mov f false) f.d.toNat (fun _ x => [x.reg f.a.toNat])) ∧
    (∀ f, ComputesPure s g (.mov f true) f.d.toNat (fun _ x => [x.reg f.a.toNat, x.reg (f.a.toNat + 1)])) ∧
    (∀ f, ComputesPure s g (.movi f .s32) f.d.toNat (fun _ _ => [⟨f.imm, tagI32⟩])) ∧
    (∀ f, ComputesPure s g (.movi f .n32) f.d.toNat (fun _ _ => [⟨f.imm, tagN32⟩])) ∧
    (∀ f, ComputesPure s g (.movi f .f32) f.d.toNat (fun _ _ => [⟨f.imm, tagF32⟩])) ∧
    (∀ f, ComputesPure s g (.movi f .raw) f.d.toNat (fun _ _ => [⟨f.imm, tagRAW⟩])) ∧
    (∀ f, ComputesPure s g (.sel f) f.d.toNat (fun _ x => [if x.pred f.c.toNat then x.reg f.a.toNat else x.reg f.b.toNat])) ∧
    (∀ f b64 m, tagFails g m (useOf (.mov f b64)).srcs = 0 ∧ tagFails g m (useOf (.sel f)).srcs = 0) ∧
    (∀ f b64, Instr.wf (.mov f b64) = true → opcOf (encode (.mov f b64)).toNat = 0x40 ∧ (encode (.mov f b64)).toNat % 256 = b64.toNat ∧
      (b64 = true → f.d.toNat % 2 = 0 ∧ f.a.toNat % 2 = 0)) ∧
    (∀ f ty, Instr.wf (.movi f ty) = true → opcOf (encode (.movi f ty)).toNat = 0x41 ∧
      (encode (.movi f ty)).toNat % 8 = (match ty with | .s32 => 0 | .n32 => 1 | .f32 => 2 | .raw => 3)) ∧
    (∀ f, Instr.wf (.sel f) = true → opcOf (encode (.sel f)).toNat = 0x42 ∧ (encode (.sel f)).toNat % 256 = 0)

/-- R205: the logic forms act bit by bit on 32 bits, on a pair under .b64, or with an immediate, and write RAW; SHL and SHR by 32 or more
give 0, SAR by more than 31 fills with the sign and writes I32, ROT turns left modulo 32. R206: POPC counts the 1 bits, CLZ the leading 0
bits, BREV turns the bits around, BFX takes a field and extends it, BFI puts one in; bit by bit: bit i of BREV is bit 31 − i; BFX is the
field at pos of min(k[13:8], 32 − pos) bits with zeros or its top bit above it; BFI is vB with the field's bits from vA; CLZ leaves no 1
above the first. -/
def Obligations.LogicAndBitFormsComplete : Prop :=
  (∀ (s : State) (g : Group),
      (∀ (f : FA) (op : W32 → W32 → W32) (k : OpAI → Bool → Instr),
        (op = (· &&& ·) ∧ k = .and ∨ op = (· ||| ·) ∧ k = .or ∨ op = (· ^^^ ·) ∧ k = .xor) →
        ComputesPure s g (k (.a f) false) f.d.toNat (fun _ x => [⟨op (x.reg f.a.toNat).val (x.reg f.b.toNat).val, tagRAW⟩]) ∧
        ComputesPure s g (k (.a f) true) f.d.toNat (fun _ x => wordPair x f.a.toNat f.b.toNat op)) ∧
      (∀ (f : FI) (op : W32 → W32 → W32) (k : OpAI → Bool → Instr),
        (op = (· &&& ·) ∧ k = .and ∨ op = (· ||| ·) ∧ k = .or ∨ op = (· ^^^ ·) ∧ k = .xor) →
        ComputesPure s g (k (.i f) false) f.d.toNat (fun _ x => [⟨op (x.reg f.a.toNat).val f.imm, tagRAW⟩])) ∧
      (∀ f, ComputesPure s g (.andn f false) f.d.toNat (fun _ x => [⟨(x.reg f.a.toNat).val &&& ~~~(x.reg f.b.toNat).val, tagRAW⟩])) ∧
      (∀ f, ComputesPure s g (.andn f true) f.d.toNat (fun _ x => wordPair x f.a.toNat f.b.toNat (fun y z => y &&& ~~~z))) ∧
      (∀ f, ComputesPure s g (.shl (.a f)) f.d.toNat (fun _ x => [⟨(x.reg f.a.toNat).val <<< (x.reg f.b.toNat).val, tagRAW⟩])) ∧
      (∀ f, ComputesPure s g (.shr (.a f)) f.d.toNat (fun _ x => [⟨(x.reg f.a.toNat).val >>> (x.reg f.b.toNat).val, tagRAW⟩])) ∧
      (∀ f, ComputesPure s g (.sar (.a f)) f.d.toNat (fun _ x =>
        [⟨(x.reg f.a.toNat).val.sshiftRight (min (x.reg f.b.toNat).val.toNat 31), tagI32⟩])) ∧
      (∀ f, ComputesPure s g (.rot (.a f)) f.d.toNat (fun _ x =>
        [⟨(x.reg f.a.toNat).val.rotateLeft ((x.reg f.b.toNat).val.toNat % 32), tagRAW⟩])) ∧
      (∀ f, ComputesPure s g (.shl (.i f)) f.d.toNat (fun _ x => [⟨(x.reg f.a.toNat).val <<< f.imm, tagRAW⟩])) ∧
      (∀ f, ComputesPure s g (.shr (.i f)) f.d.toNat (fun _ x => [⟨(x.reg f.a.toNat).val >>> f.imm, tagRAW⟩])) ∧
      (∀ f, ComputesPure s g (.sar (.i f)) f.d.toNat (fun _ x => [⟨(x.reg f.a.toNat).val.sshiftRight f.imm.toNat, tagI32⟩])) ∧
      (∀ f, ComputesPure s g (.rot (.i f)) f.d.toNat (fun _ x => [⟨(x.reg f.a.toNat).val.rotateLeft f.imm.toNat, tagRAW⟩]))) ∧
  (∀ (s : State) (g : Group),
      (∀ f, ComputesPure s g (.popc f) f.d.toNat (fun _ x => [⟨BitVec.ofNat 32 (popcount (x.reg f.a.toNat).val), tagN32⟩])) ∧
      (∀ f, ComputesPure s g (.clz f) f.d.toNat (fun _ x => [⟨BitVec.ofNat 32 (leadingZeros (x.reg f.a.toNat).val), tagN32⟩])) ∧
      (∀ f, ComputesPure s g (.brev f) f.d.toNat (fun _ x => [⟨bitReverse (x.reg f.a.toNat).val, tagRAW⟩])) ∧
      (∀ f sg, ComputesPure s g (.bfx f sg) f.d.toNat (fun _ x =>
        [⟨extract (x.reg f.a.toNat).val (x.reg f.b.toNat).val sg, if sg then tagI32 else tagN32⟩])) ∧
      (∀ f, ComputesPure s g (.bfi f) f.d.toNat (fun _ x =>
        [⟨insert (x.reg f.a.toNat).val (x.reg f.b.toNat).val (x.reg f.c.toNat).val, tagRAW⟩]))) ∧
  (∀ (v w k : W32) (i : Nat), i < 32 →
    (bitReverse v).getLsbD i = v.getLsbD (31 - i) ∧
    ((extract v k false).getLsbD i = (decide (i < fieldLen k) && v.getLsbD (fieldPos k + i))) ∧
    ((extract v k true).getLsbD i =
      if i < fieldLen k then v.getLsbD (fieldPos k + i) else decide (0 < fieldLen k) && v.getLsbD (fieldPos k + fieldLen k - 1)) ∧
    ((insert v w k).getLsbD i =
      if fieldPos k ≤ i ∧ i < fieldPos k + fieldLen k then v.getLsbD (i - fieldPos k) else w.getLsbD i) ∧
    (leadingZeros v ≤ 32 ∧ (32 - leadingZeros v ≤ i → v.getLsbD i = false) ∧
      (leadingZeros v < 32 → v.getLsbD (31 - leadingZeros v) = true)))

/-- R221, R222, R223, R224, R213: UNPACK widens its elements, BPSPLIT takes one bit plane of 32 bytes, BPJOIN joins planes into four
bytes, TAGSET and TAGGET write and read the format tag, FCLASS writes one bit for the class: 8 a NaN, 0 and 7 the infinities, and
inwards from them the normal numbers, the subnormal ones and the zeros, the negative ones below. -/
def Obligations.FormatFormsComplete : Prop :=
  (∀ (f : Fmt) (b : Nat) (v : FVal), (f = fmtF32 ∨ f = fmtF16 ∨ f = fmtBF16) → b < 2^f.bits → v = val f b →
    (v = .nan → fClass f b = 8) ∧ (∀ s, v = .inf s → fClass f b = if s then 0 else 7) ∧
    (∀ neg a, v.Mag neg a → fClass f b = if a = 0 then (if neg then 3 else 4) else if a < (2 : ℝ)^f.emin then (if neg then 2 else 5)
      else (if neg then 1 else 6))) ∧
  ∀ (s : State) (g : Group),
    (∀ f t h, ComputesPure s g (.unpack f t h) f.d.toNat (laneUnpack f t h g)) ∧
    (∀ f p, ComputesPure s g (.bpsplit f p) f.d.toNat (fun _ x =>
      [⟨maskOf (fun j => (if j < 16 then regByte x f.a.toNat j else regByte x f.b.toNat (j - 16)).testBit (7 - p.toNat)), tagBP8⟩])) ∧
    (∀ f q k1, ComputesPure s g (.bpjoin f q k1) f.d.toNat (fun _ x =>
      [⟨maskOf (fun b => decide (7 - b % 8 ≤ k1.toNat) && (x.reg (f.a.toNat + (7 - b % 8))).val.getLsbD (4 * q.toNat + b / 8)),
        tagI8x4⟩])) ∧
    (∀ f tag, ComputesPure s g (.tagset f tag) f.d.toNat (fun _ x => [⟨(x.reg f.a.toNat).val, tag⟩])) ∧
    (∀ f, ComputesPure s g (.tagget f) f.d.toNat (fun _ x => [⟨(x.reg f.a.toNat).tag.zeroExtend 32, tagN32⟩])) ∧
    (∀ f ty e1, ComputesPure s g (.fclass f ty e1) f.d.toNat (fun _ x =>
      [⟨BitVec.ofNat 32 (2^fClass (ftyFmt ty) (floatElem ty e1 (x.reg f.a.toNat).val)), tagN32⟩]))

/-- R101 to R105: a dual word completes with the effects of both halves: each reads the registers as they stood, half 1's write stands
where both name one register, and the flags of both are set. R102, R103: what a half computes, reads and accepts is what its full form
does with SUB 0 and the operands of its mode. -/
def Obligations.DualWordsComplete : Prop :=
  (∀ (s : State) (g : Group) (h : Half), Computes s g (fullOf h) (halfDst h) (laneHalf h g) ∧
    (useOf (fullOf h)).srcs = (halfUse ⟨0, false⟩ h).srcs ∧ (useOf (fullOf h)).dst = (halfUse ⟨0, false⟩ h).dst) ∧
  ∀ (s : State) (g : Group) (ps : Bool) (h0 h1 : Half) (act : Lanes) (fl : Half → FlagSet) (out : Half → Nat → List Reg),
    act = actOf g (.dualWord ps h0 h1) → (∀ h, fl h = allFlags (flagsOf g act (laneHalf h g))) →
    (∀ h l, out h l = (laneHalf h g l (g.lane l)).1) → Issues s g (.dualWord ps h0 h1) →
    pendingIn g act ((halfUse ⟨0, false⟩ h0).srcs ++ (halfUse ⟨0, false⟩ h1).srcs) = false →
    (∀ h, (h = h0 ∨ h = h1) → halfCheck h g act = none ∧ fpCause g.fpstat (fl h) = none) →
    Completes s g (.dualWord ps h0 h1)
      { vec := fun l r => act.getLsbD l ∧ ∃ h, (h = h0 ∨ h = h1) ∧ halfDst h ≤ r ∧ r < halfDst h + (out h l).length, flags := True } (fun t =>
      t.fpstat = fpSet (fpSet g.fpstat (fl h0)) (fl h1) ∧
      (∀ h l k x, l < 32 → act.getLsbD l → (out h l)[k]? = some x → halfDst h + k ≠ 0 → ¬ landsV g l (halfDst h + k) →
        (h = h1 ∨ h = h0 ∧ (halfDst h + k < halfDst h1 ∨ halfDst h1 + (out h1 l).length ≤ halfDst h + k)) →
        (t.lane l).reg (halfDst h + k) = x))

/-! ## Predicates -/

/-- R194, R207, R212: ICMP and FCMP write the condition of their operands to the predicate in every active lane: signed or unsigned order
as the code names it, whatever the width; for floats the order of the numbers, −0 with +0, and of a NaN ne and nan alone. R208: PAND, POR
and PXOR with sources inverted under .na and .nb, PNOT, and the three forms of PMOV, with their opcodes and SUB fields. -/
def Obligations.PredicatesAreWritten : Prop :=
  (∀ (s : State) (g : Group),
      (∀ f cc, ComputesPred s g (.icmp (.a f) cc false) f.d.toNat
        (fun _ x => condition cc (x.reg f.a.toNat).val (x.reg f.b.toNat).val)) ∧
      (∀ f cc, ComputesPred s g (.icmp (.a f) cc true) f.d.toNat (fun _ x => condition cc (x.pair f.a.toNat) (x.pair f.b.toNat))) ∧
      (∀ gd d a k m cc, ComputesPred s g (.icmp (.i gd d a k m) cc false) d.toNat
        (fun _ x => condition cc (x.reg a.toNat).val (k.signExtend 32))) ∧
      (∀ (n : Nat) (x y : BitVec n) (cc : Cc), condition cc x y = true ↔
        match cc with
        | .eq => x = y
        | .ne => x ≠ y
        | .lt => x.toInt < y.toInt
        | .le => x.toInt ≤ y.toInt
        | .gt => y.toInt < x.toInt
        | .ge => y.toInt ≤ x.toInt
        | .ltu => x.toNat < y.toNat
        | .leu => x.toNat ≤ y.toNat
        | .gtu => y.toNat < x.toNat
        | .geu => y.toNat ≤ x.toNat) ∧
      (∀ (f : Fmt) (a b : Nat), (f = fmtF32 ∨ f = fmtF16 ∨ f = fmtBF16) → a < 2^f.bits → b < 2^f.bits →
        (∀ cc, val f a = .nan ∨ val f b = .nan → fCmp f cc a b = (match cc with | .ne | .nan => true | _ => false)) ∧
        (∀ x y : EReal, (val f a).At x → (val f b).At y → ∀ cc, fCmp f cc a b = true ↔
          match cc with
          | .eq => x = y
          | .ne => x ≠ y
          | .lt => x < y
          | .le => x ≤ y
          | .gt => y < x
          | .ge => y ≤ x
          | .num => True
          | .nan => False)) ∧
      (∀ f cc ty e1, ComputesPred s g (.fcmp f cc ty e1) f.d.toNat (fun _ x =>
        fCmp (ftyFmt ty) cc (floatElem ty e1 (x.reg f.a.toNat).val) (floatElem ty e1 (x.reg f.b.toNat).val)))) ∧
  (∀ (s : State) (g : Group) (f : FA),
      (∀ na nb, ComputesPred s g (.pand f na nb) f.d.toNat (fun _ x => (x.pred f.a.toNat != na) && (x.pred f.b.toNat != nb))) ∧
      (∀ na nb, ComputesPred s g (.por f na nb) f.d.toNat (fun _ x => (x.pred f.a.toNat != na) || (x.pred f.b.toNat != nb))) ∧
      (∀ na nb, ComputesPred s g (.pxor f na nb) f.d.toNat (fun _ x => (x.pred f.a.toNat != na) != (x.pred f.b.toNat != nb))) ∧
      ComputesPred s g (.pnot f) f.d.toNat (fun _ x => !x.pred f.a.toNat) ∧
      ComputesPred s g (.pmov f .pp) f.d.toNat (fun _ x => x.pred f.a.toNat) ∧
      ComputesPure s g (.pmov f .vp) f.d.toNat (fun _ x => [⟨if x.pred f.a.toNat then 1 else 0, tagN32⟩]) ∧
      ComputesPred s g (.pmov f .pv) f.d.toNat (fun _ x => (x.reg f.a.toNat).val != 0) ∧
      (∀ m, tagFails g m (useOf (.pmov f .pv)).srcs = 0) ∧
      (∀ na nb, (Instr.wf (.pand f na nb) = true → opcOf (encode (.pand f na nb)).toNat = 0x68 ∧
          (encode (.pand f na nb)).toNat % 256 = na.toNat + 2 * nb.toNat) ∧
        (Instr.wf (.por f na nb) = true → opcOf (encode (.por f na nb)).toNat = 0x69 ∧
          (encode (.por f na nb)).toNat % 256 = na.toNat + 2 * nb.toNat) ∧
        (Instr.wf (.pxor f na nb) = true → opcOf (encode (.pxor f na nb)).toNat = 0x6A ∧
          (encode (.pxor f na nb)).toNat % 256 = na.toNat + 2 * nb.toNat)) ∧
      (Instr.wf (.pnot f) = true → opcOf (encode (.pnot f)).toNat = 0x6B ∧ (encode (.pnot f)).toNat % 256 = 0) ∧
      (∀ k, Instr.wf (.pmov f k) = true → opcOf (encode (.pmov f k)).toNat = 0x6C ∧
        (encode (.pmov f k)).toNat % 256 = (match k with | .pp => 0 | .vp => 1 | .pv => 2)))

/-! ## Float and conversions -/

/-- R198, R209 to R216, R307: each float form completes with the operation of its elements in every active lane and the flags they raise,
unless an enabled one traps; FDIV, FSQRT and the special functions behind their window. A NaN
under RQUANT gives a free value (log entry 37). -/
def Obligations.FloatFormsComplete : Prop :=
  ∀ (s : State) (g : Group),
    (∀ o m, Computes s g (.fadd o m) (floatDst o) (laneF2 fAdd o m g)) ∧
    (∀ f m, Computes s g (.fsub f m) f.d.toNat (laneF2 fSub (.a f) m g)) ∧
    (∀ o m, Computes s g (.fmul o m) (floatDst o) (laneF2 fMul o m g)) ∧
    (∀ f m, Computes s g (.ffma f m) f.d.toNat (laneFma f m g)) ∧
    (∀ f ftz ty, Computes s g (.fmin f ftz ty) f.d.toNat (laneMinMax f ftz ty false g)) ∧
    (∀ f ftz ty, Computes s g (.fmax f ftz ty) f.d.toNat (laneMinMax f ftz ty true g)) ∧
    (∀ f m, Computes s g (.frnd f m) f.d.toNat (fun _ x =>
      packFloats m.ty ((floatElems m.ty (x.reg f.a.toNat).val).map (fRnd (ftyFmt m.ty) (modeIn g m.rm) m.ftz)))) ∧
    (∀ f ftz rm, ComputesLate s g (.fdiv f ftz rm) f.d.toNat (fun _ x =>
      packFloats .f32 [fDiv (modeIn g rm) ftz (x.reg f.a.toNat).val.toNat (x.reg f.b.toNat).val.toNat])) ∧
    (∀ f ftz rm, ComputesLate s g (.fsqrt f ftz rm) f.d.toNat (fun _ x =>
      packFloats .f32 [fSqrt (modeIn g rm) ftz (x.reg f.a.toNat).val.toNat])) ∧
    (∀ (f : FA) (i : Instr) (fn : Nat → Nat × FlagSet),
      (i = .frcp f ∧ fn = fRcp ∨ i = .frsq f ∧ fn = fRsq ∨ i = .fsin f ∧ fn = fSin ∨ i = .fcos f ∧ fn = fCos ∨
        i = .fexp2 f ∧ fn = fExp2 ∨ i = .flog2 f ∧ fn = fLog2 ∨ i = .ftanh f ∧ fn = fTanh) →
      ComputesLate s g i f.d.toNat (laneSfu fn f g)) ∧
    (∀ f, Computes s g (.rdeq f) f.d.toNat (laneRdeq f g)) ∧
    (∀ f, Computes s g (.rquant f) f.d.toNat (fun l x => laneRquant f (s.free + 2 * l) x))

/-- R121, R122, R124, R210, R211, R214 to R216: what the float operations compute. FADD, FSUB, FMUL, FFMA, FDIV and FSQRT deliver the
exact result rounded once in their mode, with NX, OF, UF, NV and DZ; a NaN gives the canonical NaN; an infinity, a zero and its sign
are exact; .ftz flushes subnormal inputs and tiny results. FMIN and FMAX take one operand, −0 below +0; FRND rounds to an integral
value. FRCP and FRSQ are rounded to nearest even without NX; of FSIN, FCOS, FEXP2, FLOG2 and FTANH it states the special and the
exact inputs and the flags. -/
def Obligations.FloatResultsRoundOnce : Prop :=
  (∀ (f : Fmt) (mode : RMode) (ftz : Bool) (a b c : Nat) (x y z : FVal), (f = fmtF32 ∨ f = fmtF16 ∨ f = fmtBF16) →
    (∀ u, mode ≠ .rs u) → a < 2^f.bits → b < 2^f.bits → c < 2^f.bits →
    x = val f (ftzIn f ftz a) → y = val f (ftzIn f ftz b) → z = val f (ftzIn f ftz c) →
    (ftz = false → x = val f a) ∧
    (∀ neg v, (val f a).Mag neg v → if ftz = true ∧ v < (2 : ℝ)^f.emin then x.Mag neg 0 else x = val f a) ∧
    ((∀ neg v, ¬ (val f a).Mag neg v) → x = val f a) ∧
    (ClashAdd x y → fAdd f mode ftz a b = (f.nan, flNV)) ∧
    (∀ r, SumIs mode x y r → Rounded f mode ftz r (fAdd f mode ftz a b)) ∧
    fSub f mode ftz a b = fAdd f mode ftz a (b ^^^ 2^(f.bits - 1)) ∧
    (ClashMul x y → fMul f mode ftz a b = (f.nan, flNV) ∧ fFma f mode ftz a b c = (f.nan, flNV)) ∧
    (∀ r, ProductIs x y r → Rounded f mode ftz r (fMul f mode ftz a b) ∧
      (ClashAdd r z → fFma f mode ftz a b c = (f.nan, flNV)) ∧
      ∀ t, SumIs mode r z t → Rounded f mode ftz t (fFma f mode ftz a b c)) ∧
    (∀ isMax m, m = fMinMax f ftz isMax a b →
      (x = .nan → y = .nan → m = f.nan) ∧ (x = .nan → y ≠ .nan → m = ftzIn f ftz b) ∧ (x ≠ .nan → y = .nan → m = ftzIn f ftz a) ∧
      (x ≠ .nan → y ≠ .nan → (m = ftzIn f ftz a ∨ m = ftzIn f ftz b) ∧
        if isMax then x.Below (val f m) ∧ y.Below (val f m) else (val f m).Below x ∧ (val f m).Below y)) ∧
    (x = .nan → fRnd f mode ftz a = (f.nan, 0)) ∧
    ((∃ s, x = .inf s) ∨ x.Is 0 → fRnd f mode ftz a = (ftzIn f ftz a, 0)) ∧
    (∀ neg v w, 0 < v → x.Mag neg v → RoundsOn mode neg 1 v w →
      (val f (fRnd f mode ftz a).1).Mag neg w ∧ (fRnd f mode ftz a).2 = if w = v then 0 else flNX)) ∧
  (∀ (mode : RMode) (ftz : Bool) (a b : Nat) (x y : FVal) (q r : Nat × FlagSet), (∀ u, mode ≠ .rs u) → a < 2^32 → b < 2^32 →
    x = val fmtF32 (ftzIn fmtF32 ftz a) → y = val fmtF32 (ftzIn fmtF32 ftz b) → q = fDiv mode ftz a b → r = fSqrt mode ftz a →
    (x = .nan ∨ y = .nan → q = (fmtF32.nan, 0)) ∧
    (((∃ s, x = .inf s) ∧ (∃ s, y = .inf s)) ∨ x.Is 0 ∧ y.Is 0 → q = (fmtF32.nan, flNV)) ∧
    (∀ s w, x = .inf s → y.Is w → val fmtF32 q.1 = .inf (s != y.sign) ∧ q.2 = 0) ∧
    (∀ s v, x.Is v → y = .inf s → (val fmtF32 q.1).Mag (x.sign != s) 0 ∧ q.2 = 0) ∧
    (∀ v, v ≠ 0 → x.Is v → y.Is 0 → val fmtF32 q.1 = .inf (x.sign != y.sign) ∧ q.2 = flDZ) ∧
    (∀ w, w ≠ 0 → x.Is 0 → y.Is w → (val fmtF32 q.1).Mag (x.sign != y.sign) 0 ∧ q.2 = 0) ∧
    (∀ v w, v ≠ 0 → w ≠ 0 → x.Is v → y.Is w → Delivers fmtF32 mode false ftz (x.sign != y.sign) |v / w| q) ∧
    (x = .nan → r = (fmtF32.nan, 0)) ∧ (x = .inf true → r = (fmtF32.nan, flNV)) ∧
    (x = .inf false → val fmtF32 r.1 = .inf false ∧ r.2 = 0) ∧
    (x.Is 0 → (val fmtF32 r.1).Mag x.sign 0 ∧ r.2 = 0) ∧
    (∀ v, v < 0 → x.Is v → r = (fmtF32.nan, flNV)) ∧
    (∀ v, 0 < v → x.Is v → Delivers fmtF32 mode false ftz false (Real.sqrt v) r)) ∧
  (∀ (a : Nat) (x : FVal), a < 2^32 → x = val fmtF32 a →
    (∀ fn : Nat → Nat × FlagSet, (fn = fRcp ∨ fn = fRsq ∨ fn = fSin ∨ fn = fCos ∨ fn = fExp2 ∨ fn = fLog2 ∨ fn = fTanh) →
      x = .nan → fn a = (fmtF32.nan, 0)) ∧
    (∀ s, x = .inf s → (val fmtF32 (fRcp a).1).Mag s 0 ∧ (fRcp a).2 = 0) ∧
    (x.Is 0 → val fmtF32 (fRcp a).1 = .inf x.sign ∧ (fRcp a).2 = flDZ) ∧
    (∀ v, v ≠ 0 → x.Is v → (fRcp a).2 = 0 ∧ ∃ fl, Delivers fmtF32 .rn false false x.sign |1 / v| ((fRcp a).1, fl)) ∧
    (x = .inf false → (val fmtF32 (fRsq a).1).Mag false 0 ∧ (fRsq a).2 = 0) ∧
    (x.Is 0 → val fmtF32 (fRsq a).1 = .inf x.sign ∧ (fRsq a).2 = flDZ) ∧
    (x = .inf true ∨ (∃ v, v < 0 ∧ x.Is v) → fRsq a = (fmtF32.nan, flNV) ∧ fLog2 a = (fmtF32.nan, flNV)) ∧
    (∀ v, 0 < v → x.Is v → (fRsq a).2 = 0 ∧ ∃ fl, Delivers fmtF32 .rn false false false (1 / Real.sqrt v) ((fRsq a).1, fl)) ∧
    (∀ s, x = .inf s → fSin a = (fmtF32.nan, flNV) ∧ fCos a = (fmtF32.nan, flNV)) ∧
    (x.Is 0 → (val fmtF32 (fSin a).1).Mag x.sign 0 ∧ (val fmtF32 (fCos a).1).Mag false 1 ∧ (val fmtF32 (fTanh a).1).Mag x.sign 0) ∧
    (∀ v, x.Is v → (fSin a).2 = 0 ∧ (fCos a).2 = 0 ∧ (fTanh a).2 = 0) ∧
    (∀ s, x = .inf s → (val fmtF32 (fTanh a).1).Mag s 1 ∧ (fTanh a).2 = 0) ∧
    (x = .inf false → val fmtF32 (fExp2 a).1 = .inf false ∧ (fExp2 a).2 = 0) ∧
    (x = .inf true → (val fmtF32 (fExp2 a).1).Mag false 0 ∧ (fExp2 a).2 = 0) ∧
    (∀ v, x.Is v →
      (128 ≤ v → val fmtF32 (fExp2 a).1 = .inf false ∧ (fExp2 a).2 = flOF ||| flNX) ∧
      (v ≤ -150 → (val fmtF32 (fExp2 a).1).Mag false 0 ∧ (fExp2 a).2 = flUF ||| flNX) ∧
      (-150 < v → v < 128 → (fExp2 a).2 = 0) ∧
      (∀ n : ℤ, v = n → -149 ≤ n → n < 128 → (val fmtF32 (fExp2 a).1).Mag false ((2 : ℝ)^n))) ∧
    (x = .inf false → val fmtF32 (fLog2 a).1 = .inf false ∧ (fLog2 a).2 = 0) ∧
    (x.Is 0 → val fmtF32 (fLog2 a).1 = .inf true ∧ (fLog2 a).2 = flDZ) ∧
    (∀ v, 0 < v → x.Is v → (fLog2 a).2 = 0 ∧ ∀ n : ℤ, v = (2 : ℝ)^n → (val fmtF32 (fLog2 a).1).Is n))

/-- R121 to R123, R125, R126, R219 to R221: what the conversions compute. A NaN becomes the target's NaN, 0 with NV in an integer,
+0 with NV in E2M1; an infinity and an overflow clamp under .sat and follow the table otherwise; every other number is rounded once,
by its draw under .rs; an integer target clamps with NV alone, wraps, or clamps with SAT. CVT writes one element and leaves the others, PACK
converts its sources in element order, UNPACK widens. That a signed source clamps in an unsigned target under .sat is log entry 14. -/
def Obligations.ConversionsSaturateAndRound : Prop :=
  (∀ (dst src : NTy) (mode : RMode) (sat ftz : Bool) (b : Nat) (out : Nat × FlagSet), b < 2^(ntyBits src) →
    out = convert dst src mode sat ftz b →
    (src.isFloat = true → ∀ x, x = val (ntyFmt src) (ftzIn (ntyFmt src) ftz b) →
      (dst.isFloat = true → ∀ m, (val (ntyFmt dst) (ntyFmt dst).maxPat).Mag false m →
        (x = .nan → out = if dst = .e2m1 then (0, flNV) else ((ntyFmt dst).nan, 0)) ∧
        (∀ s, x = .inf s →
          (dst = .f32 → val fmtF32 out.1 = .inf s ∧ out.2 = 0) ∧
          (dst ≠ .f32 → sat = true → (val (ntyFmt dst) out.1).Mag s m ∧ out.2 = flSAT) ∧
          (dst ≠ .f32 → sat = false →
            if dst = .e4m3 then out = (if s then 0xFF else 0x7F, flNV)
            else if dst = .e2m1 then (val fmtE2M1 out.1).Mag s 6 ∧ out.2 = flNV
            else val (ntyFmt dst) out.1 = .inf s ∧ out.2 = 0)) ∧
        (x.Is 0 → (val (ntyFmt dst) out.1).Mag x.sign 0 ∧ out.2 = 0) ∧
        (∀ neg a, 0 < a → x.Mag neg a → Delivers (ntyFmt dst) mode sat ftz neg a out)) ∧
      (dst.isFloat = false → ∀ w sg, (w, sg) = ntyInt dst → out.1 < 2^w ∧
        (x = .nan → out = (0, flNV)) ∧
        (∀ s, x = .inf s → intOf w sg out.1 = (if s then intMin w sg else intMax w sg) ∧ out.2 = flNV) ∧
        (∀ neg a r (y : ℤ), x.Mag neg a → RoundsOn mode neg 1 a r → (y : ℝ) = (if neg then -r else r) →
          intOf w sg out.1 = clampInt (intMin w sg) (intMax w sg) y ∧
          out.2 = if y < intMin w sg ∨ intMax w sg < y then flNV else if r = a then 0 else flNX))) ∧
    (src.isFloat = false → ∀ y, y = intOf (ntyInt src).1 (ntyInt src).2 b →
      (dst.isFloat = true → (y = 0 → out = (0, 0)) ∧
        (y ≠ 0 → Delivers (ntyFmt dst) mode sat false (decide (y < 0)) |(y : ℝ)| out)) ∧
      (dst.isFloat = false → ∀ w sg, (w, sg) = ntyInt dst → out.1 < 2^w ∧
        (sat = true → intOf w sg out.1 = clampInt (intMin w sg) (intMax w sg) y ∧
          out.2 = if y < intMin w sg ∨ intMax w sg < y then flSAT else 0) ∧
        (sat = false → (out.1 : ℤ) % (2^w : ℤ) = y % (2^w : ℤ) ∧ out.2 = 0)))) ∧
  (∀ (g : Group) (l : Nat) (x : Lane),
    (∀ (d a : BitVec 8) (k : CvtCtl) (r : Nat × FlagSet),
      r = convert k.dst k.src (rmodeOf k.rm (fpRm g.fpstat) (drawAt x.key x.ctr).toNat) k.sat k.ftz (ntyElem k.src x a.toNat k.e.toNat) →
      (k.dst.pair = true → laneCvt d a k g l x = (pairRegs (BitVec.ofNat 64 r.1) (ntyTag k.dst), r.2)) ∧
      (k.dst.pair = false → k.dst.count = 1 → laneCvt d a k g l x = ([⟨BitVec.ofNat 32 r.1, ntyTag k.dst⟩], r.2)) ∧
      (k.dst.pair = false → k.dst.count ≠ 1 → k.f.toNat < k.dst.count → ∃ v : W32, laneCvt d a k g l x = ([⟨v, ntyTag k.dst⟩], r.2) ∧
        ∀ n, n < k.dst.count → v.toNat / 2^(ntyBits k.dst * n) % 2^(ntyBits k.dst) =
          if n = k.f.toNat then r.1 else (x.reg d.toNat).val.toNat / 2^(ntyBits k.dst * n) % 2^(ntyBits k.dst))) ∧
    (∀ (f : FA) (t : NTy) (sat : Bool) (rm : Rm) (el : Nat → W32) (r : Nat → Nat × FlagSet), t.pair = false → t.count ≠ 1 →
      (∀ n, el n = if t.count = 2 then (x.reg (if n = 0 then f.a.toNat else f.b.toNat)).val
        else (x.reg (if n < 4 then f.a.toNat + n else f.b.toNat + (n - 4))).val) →
      (∀ n, r n = convert t (packSrc t) (rmodeOf rm (fpRm g.fpstat) (drawAt x.key (x.ctr + BitVec.ofNat 48 n)).toNat) sat false (el n).toNat) →
      ∃ v : W32, (lanePack f t sat rm g l x).1 = [⟨v, ntyTag t⟩] ∧
        (∀ n, n < t.count → v.toNat / 2^(ntyBits t * n) % 2^(ntyBits t) = (r n).1) ∧
        (∀ k, (lanePack f t sat rm g l x).2.getLsbD k = true ↔ ∃ n, n < t.count ∧ (r n).2.getLsbD k = true)) ∧
    (∀ (f : FA) (t : NTy) (h : Bool) (k : Nat), t.pair = false → t.count ≠ 1 → k < (if t.count = 2 then 2 else 4) →
      ∃ y : Reg, (laneUnpack f t h g l x)[k]? = some y ∧ y.tag = ntyTag (unpackDst t) ∧
        ∀ b, b = ntyElem t x f.a.toNat (k + if h then 4 else 0) →
          if t.isFloat then
            (val (ntyFmt t) b = .nan → y.val = 0x7FC00000) ∧ (∀ s, val (ntyFmt t) b = .inf s → val fmtF32 y.val.toNat = .inf s) ∧
            (∀ neg a, (val (ntyFmt t) b).Mag neg a → (val fmtF32 y.val.toNat).Mag neg a)
          else intOf 32 (ntyInt t).2 y.val.toNat = intOf (ntyInt t).1 (ntyInt t).2 b))

/-- R127 to R129, R365: a form whose lanes raise an enabled cause takes the highest-ranked of those, with its flags set and no
register written; EMASKF holds the lanes that raised it. So for the arithmetic, the special functions, the conversions, the
reproducible sums (R307) and the reduction trees (R226, R227). -/
def Obligations.EnabledFloatFlagTraps : Prop :=
  ∀ (s : State) (g : Group),
    (∀ o m, TrapsOnFlag s g (.fadd o m) (laneF2 fAdd o m g)) ∧
    (∀ f m, TrapsOnFlag s g (.fsub f m) (laneF2 fSub (.a f) m g)) ∧
    (∀ o m, TrapsOnFlag s g (.fmul o m) (laneF2 fMul o m g)) ∧
    (∀ f m, TrapsOnFlag s g (.ffma f m) (laneFma f m g)) ∧
    (∀ f m, TrapsOnFlag s g (.frnd f m) (fun _ x =>
      packFloats m.ty ((floatElems m.ty (x.reg f.a.toNat).val).map (fRnd (ftyFmt m.ty) (modeIn g m.rm) m.ftz)))) ∧
    (∀ f ftz rm, TrapsOnFlag s g (.fdiv f ftz rm) (fun _ x =>
      packFloats .f32 [fDiv (modeIn g rm) ftz (x.reg f.a.toNat).val.toNat (x.reg f.b.toNat).val.toNat])) ∧
    (∀ f ftz rm, TrapsOnFlag s g (.fsqrt f ftz rm) (fun _ x =>
      packFloats .f32 [fSqrt (modeIn g rm) ftz (x.reg f.a.toNat).val.toNat])) ∧
    (∀ (f : FA) (i : Instr) (fn : Nat → Nat × FlagSet),
      (i = .frcp f ∧ fn = fRcp ∨ i = .frsq f ∧ fn = fRsq ∨ i = .fsin f ∧ fn = fSin ∨ i = .fcos f ∧ fn = fCos ∨
        i = .fexp2 f ∧ fn = fExp2 ∨ i = .flog2 f ∧ fn = fLog2 ∨ i = .ftanh f ∧ fn = fTanh) →
      TrapsOnFlag s g i (laneSfu fn f g)) ∧
    (∀ f, TrapsOnFlag s g (.rdeq f) (laneRdeq f g)) ∧
    (∀ f, TrapsWith s (if anyNan g (actOf g (.rquant f)) f.a.toNat then { s with free := s.free + 64 } else s) g (.rquant f)
      (flagsOf g (actOf g (.rquant f)) (fun l x => laneRquant f (s.free + 2 * l) x))) ∧
    (∀ f op ty rm, TrapsWith s s g (.redg f op ty rm) (reduceTree (actOf g (.redg f op ty rm)) (redNode op ty (rmodeOf rm 0 0))
      (laneVals g (actOf g (.redg f op ty rm)) f.a.toNat)).flags) ∧
    (∀ f excl op ty rm, TrapsWith s s g (.scang f excl op ty rm) (scanTree (actOf g (.scang f excl op ty rm))
      (redNode op ty (rmodeOf rm 0 0)) (laneVals g (actOf g (.scang f excl op ty rm)) f.a.toNat)).flags) ∧
    (∀ f t, TrapsOnFlag s g (.idiv f t) (laneDiv f t false g)) ∧
    (∀ f t, TrapsOnFlag s g (.irem f t) (laneDiv f t true g)) ∧
    (∀ gd d a hsA he lra k, TrapsOnFlag s g (.cvt gd d a hsA he lra k) (laneCvt d a k g)) ∧
    (∀ f t sat rm, TrapsOnFlag s g (.pack f t sat rm) (lanePack f t sat rm g))

/-- R142, R143, R228: RNG.n32 and RNG.f32 draw once in every active lane, RNG.getc reads the counter, RNG.setc writes it. R219,
R220: CVT and PACK convert, and under .rs draw once for each element that they round. -/
def Obligations.DrawingFormsComplete : Prop :=
  ∀ (s : State) (g : Group),
    (∀ f, Draws s g (.rng f .n32) f.d.toNat 1 (fun _ x => ([⟨drawAt x.key x.ctr, tagN32⟩], 0))) ∧
    (∀ f, Draws s g (.rng f .f32) f.d.toNat 1 (fun _ x =>
      ([⟨BitVec.ofNat 32 (encFin fmtF32 false ((drawAt x.key x.ctr).toNat / 2^8) (-24)), tagF32⟩], 0))) ∧
    (∀ f, ComputesPure s g (.rng f .getc) f.d.toNat (fun _ x => [⟨x.ctr.setWidth 32, tagRAW⟩, ⟨(x.ctr >>> 32).setWidth 32, tagRAW⟩])) ∧
    (∀ f, Issues s g (.rng f .setc) → Completes s g (.rng f .setc) { ctr := fun l => (actOf g (.rng f .setc)).getLsbD l } (fun h =>
      ∀ l, l < 32 → (actOf g (.rng f .setc)).getLsbD l → (h.lane l).ctr = ((g.lane l).pair f.a.toNat).setWidth 48)) ∧
    (∀ gd d a hsA he lra k, Draws s g (.cvt gd d a hsA he lra k) d.toNat (if k.rm = .rs then 1 else 0) (laneCvt d a k g)) ∧
    (∀ f t sat rm, Draws s g (.pack f t sat rm) f.d.toNat (if rm = .rs then t.count else 0) (lanePack f t sat rm g))

/-! ## Across lanes -/

/-- R227: REDG gives every active lane the root of the tree of R136, SCANG each lane the node of the tree of R137, the identity where the
tree is empty. R136, R137, R227: for an integer sum over active lanes the root is the sum of their values modulo 2^32, and lane i of the
scan the sum of the active values up to lane i. R138, R139, R273: SCANP and SCANL give each active lane the final step on its node of the
tree of R137, with the carry-in of the lowest active lane, or trap on an enabled flag (R129). -/
def Obligations.TreesReduceAndScan : Prop :=
  (∀ (s : State) (g : Group),
      (∀ (f : FA) (op : RedOp) (ty : RedTy) (rm : Rm) (t : Machine.Tree W32),
        t = reduceTree (actOf g (.redg f op ty rm)) (redNode op ty (rmodeOf rm 0 0)) (laneVals g (actOf g (.redg f op ty rm)) f.a.toNat) →
        TreeForm s g (.redg f op ty rm) f.d.toNat t.flags (fun _ => ⟨(t.vals.getD 0 none).getD (redIdentity op ty), redTag ty⟩)) ∧
      (∀ (f : FA) (op : RedOp) (ty : RedTy) (rm : Rm) (t : Machine.Tree W32),
        t = scanTree (actOf g (.scang f false op ty rm)) (redNode op ty (rmodeOf rm 0 0))
          (laneVals g (actOf g (.scang f false op ty rm)) f.a.toNat) →
        TreeForm s g (.scang f false op ty rm) f.d.toNat t.flags (fun l => ⟨(t.vals.getD l none).getD (redIdentity op ty), redTag ty⟩)) ∧
      (∀ (f : FA) (op : RedOp) (ty : RedTy) (rm : Rm) (t : Machine.Tree W32),
        t = scanTree (actOf g (.scang f true op ty rm)) (redNode op ty (rmodeOf rm 0 0))
          (laneVals g (actOf g (.scang f true op ty rm)) f.a.toNat) →
        TreeForm s g (.scang f true op ty rm) f.d.toNat t.flags (fun l =>
          ⟨(if l = 0 then none else t.vals.getD (l - 1) none).getD (redIdentity op ty), redTag ty⟩))) ∧
  (∀ (g : Group) (act : Lanes) (r : Nat) (mode : RMode) (ty : RedTy), ty ≠ .f32 → act ≠ 0 →
      ((reduceTree act (redNode .add ty mode) (laneVals g act r)).vals.getD 0 none =
        some (((lanesOf act).map (fun l => ((g.lane l).reg r).val)).foldl (· + ·) 0)) ∧
      (∀ i, i < 32 → act.getLsbD i →
        (scanTree act (redNode .add ty mode) (laneVals g act r)).vals.getD i none =
          some ((((lanesOf act).filter (fun l => decide (l ≤ i))).map (fun l => ((g.lane l).reg r).val)).foldl (· + ·) 0))) ∧
  (∀ (s : State) (g : Group) (f : FA) (rm : Rm) (rv : Bool) (pr : BitVec 3),
      ScanForm s g (.scanp f rm rv pr) f.d.toNat f.c.toNat (scanpNode (modeIn g rm)) (fun h e => fFma fmtF32 (modeIn g rm) false e.a h e.b)
        (scanVals g (actOf g (.scanp f rm rv pr)) f.a.toNat f.b.toNat rv pr.toNat) ∧
      ScanForm s g (.scanl f rm rv pr) f.d.toNat f.c.toNat (scanlNode (modeIn g rm)) (fun h e => fAdd fmtF32 (modeIn g rm) false h e.b)
        (scanVals g (actOf g (.scanl f rm rv pr)) 0 f.a.toNat rv pr.toNat))

/-- R225: SHFL gives each active lane the vA of the source lane that its rule names, when that lane is active; zero under .zf, else its
own; the rules name lane d, the lane d below, d above, and the one that differs in the bits of d, modulo 32 on the ring. R307: RQSCALE
gives the larger of its scale and the lane's, over the group under .grp. -/
def Obligations.ShuffleAndScaleComplete : Prop :=
  ∀ (s : State) (g : Group),
    (∀ f rule ring zf, g.supervisor = false → ComputesPure s g (.shfl (.a f) rule ring zf) f.d.toNat (fun l x =>
      [shuffled g (actOf g (.shfl (.a f) rule ring zf)) f.a.toNat zf l (shflSource rule ring l (x.reg f.b.toNat).val.toNat)])) ∧
    (∀ gd d a k lra rule ring zf, g.supervisor = false → ComputesPure s g (.shfl (.i gd d a k lra) rule ring zf) d.toNat (fun l _ =>
      [shuffled g (actOf g (.shfl (.i gd d a k lra) rule ring zf)) a.toNat zf l (shflSource rule ring l k.toNat)])) ∧
    (∀ (l d : Nat) (x : BitVec 32), l < 32 → d = x.toNat →
      (∀ rule y, (rule = .from ∧ y = (d : Int) ∨ rule = .lag ∧ y = l - d ∨ rule = .lead ∧ y = l + d ∨
          rule = .pair ∧ y = (BitVec.ofNat 32 l ^^^ x).toNat) → shflSource rule false l d = y ∧
        0 ≤ shflSource rule true l d ∧ shflSource rule true l d < 32 ∧ (32 : Int) ∣ y - shflSource rule true l d)) ∧
    (∀ f, ComputesPure s g (.rqscale f false) f.d.toNat (fun _ x =>
      [⟨BitVec.ofInt 32 (max (x.reg f.c.toNat).val.toInt (scaleOf (x.reg f.a.toNat).val.toNat)), tagI32⟩])) ∧
    (∀ f, ComputesPure s g (.rqscale f true) f.d.toNat (fun _ _ =>
      [⟨BitVec.ofInt 32 ((lanesOf (actOf g (.rqscale f true))).foldl (fun acc l =>
        max acc (max ((g.lane l).reg f.c.toNat).val.toInt (scaleOf ((g.lane l).reg f.a.toNat).val.toNat))) scaleNone), tagI32⟩]))

/-! ## The scalar pipe and the group -/

/-- R194, R196: the scalar forms write their destination with their operation modulo 2^32; SSHL and SSHR shift by five bits; SMOV
reads the lowest active lane, a loop's count, and writes a scalar to every active lane; AQ reads an address register. -/
def Obligations.ScalarFormsComplete : Prop :=
  ∀ (s : State) (g : Group),
    (∀ f, ComputesScalar s g (.smov f .ss) f.d.toNat (g.sreg f.a.toNat)) ∧
    (∀ f, ComputesScalar s g (.smov f .sv) f.d.toNat (match lowest (actOf g (.smov f .sv)) with
      | some l => ((g.lane l).reg f.a.toNat).val | none => g.sreg f.d.toNat)) ∧
    (∀ f, ComputesPure s g (.smov f .vs) f.d.toNat (fun _ _ => [⟨g.sreg f.a.toNat, tagRAW⟩])) ∧
    (∀ f, ComputesScalar s g (.smov f .sl) f.d.toNat (if (g.loop f.a.toNat).live then (g.loop f.a.toNat).count else 0)) ∧
    (∀ f, ComputesScalar s g (.smovi f) f.d.toNat f.imm) ∧
    (∀ (f : FA) (i : Instr) (op : W32 → W32 → W32),
      (i = .sadd (.a f) ∧ op = (· + ·) ∨ i = .ssub f ∧ op = (· - ·) ∨ i = .smul f ∧ op = (· * ·) ∨ i = .sand (.a f) ∧ op = (· &&& ·) ∨
        i = .sor (.a f) ∧ op = (· ||| ·) ∨ i = .sxor (.a f) ∧ op = (· ^^^ ·) ∨ i = .sshl (.a f) ∧ op = (fun (x y : W32) => x <<< (y.toNat % 32)) ∨
        i = .sshr (.a f) false ∧ op = (fun (x y : W32) => x >>> (y.toNat % 32)) ∨
        i = .sshr (.a f) true ∧ op = (fun (x y : W32) => x.sshiftRight (y.toNat % 32))) →
      ComputesScalar s g i f.d.toNat (op (g.sreg f.a.toNat) (g.sreg f.b.toNat))) ∧
    (∀ (f : FI) (i : Instr) (op : W32 → W32 → W32),
      (i = .sadd (.i f) ∧ op = (· + ·) ∨ i = .sand (.i f) ∧ op = (· &&& ·) ∨ i = .sor (.i f) ∧ op = (· ||| ·) ∨
        i = .sxor (.i f) ∧ op = (· ^^^ ·) ∨ i = .sshl (.i f) ∧ op = (fun (x y : W32) => x <<< y) ∨
        i = .sshr (.i f) false ∧ op = (fun (x y : W32) => x >>> y) ∨ i = .sshr (.i f) true ∧ op = (fun (x y : W32) => x.sshiftRight y.toNat)) →
      ComputesScalar s g i f.d.toNat (op (g.sreg f.a.toNat) f.imm)) ∧
    (∀ f cc, ComputesScalar s g (.scmp (.a f) cc) f.d.toNat (if condition cc (g.sreg f.a.toNat) (g.sreg f.b.toNat) then 1 else 0)) ∧
    (∀ gd d a k m cc, ComputesScalar s g (.scmp (.i gd d a k m) cc) d.toNat
      (if condition cc (g.sreg a.toNat) (k.signExtend 32) then 1 else 0)) ∧
    (∀ f, ComputesScalar s g (.ssel f) f.d.toNat (if g.sreg f.a.toNat ≠ 0 then g.sreg f.b.toNat else g.sreg f.c.toNat)) ∧
    (∀ f, ComputesScalar s g (.aq f 0) f.d.toNat ((g.areg f.a.toNat).base.setWidth 32)) ∧
    (∀ f, ComputesScalar s g (.aq f 1) f.d.toNat (((g.areg f.a.toNat).base >>> 32).setWidth 32)) ∧
    (∀ f, ComputesScalar s g (.aq f 2) f.d.toNat (g.areg f.a.toNat).limit)

/-- R187: GETEM reads EM; SETEM puts a mask within PATH in EM, and leaves it when no lane gives one; VOTE gives the OR, the AND and the
mask of a predicate over the active lanes. R107, R186, R242, R306: NOP and FENCE change nothing but the PC (FENCE orders what this machine
does in order already: log entry 3); YIELD and QEND land every open result; outside Solstice mode QEND does nothing else, and in it the
group's quantum ends. -/
def Obligations.GroupFormsComplete : Prop :=
  (∀ (s : State) (g : Group) (f : FA),
      ComputesPure s g (.getem f false) f.d.toNat (fun _ _ => [⟨g.em, tagN32⟩]) ∧
      ComputesScalar s g (.getem f true) f.d.toNat g.em ∧
      (Issues s g (.setem f .v) → Completes s g (.setem f .v) { em := True } (fun h => h.em =
        (match lowest (actOf g (.setem f .v)) with | some l => ((g.lane l).reg f.a.toNat).val &&& g.path | none => g.em))) ∧
      (Issues s g (.setem f .p) → Completes s g (.setem f .p) { em := True } (fun h => ∀ l, l < 32 →
        h.em.getLsbD l = (g.path.getLsbD l && (g.lane l).pred f.a.toNat))) ∧
      (Issues s g (.setem f .s) → Completes s g (.setem f .s) { em := True } (fun h => h.em = g.sreg f.a.toNat &&& g.path)) ∧
      ComputesPred s g (.vote f .someP) f.d.toNat (fun _ _ =>
        (lanesOf (actOf g (.vote f .someP))).any (fun l => (g.lane l).pred f.a.toNat)) ∧
      ComputesPred s g (.vote f .everyP) f.d.toNat (fun _ _ =>
        (lanesOf (actOf g (.vote f .everyP))).all (fun l => (g.lane l).pred f.a.toNat)) ∧
      ComputesScalar s g (.vote f .someS) f.d.toNat
        (if (lanesOf (actOf g (.vote f .someS))).any (fun l => (g.lane l).pred f.a.toNat) then 1 else 0) ∧
      ComputesScalar s g (.vote f .everyS) f.d.toNat
        (if (lanesOf (actOf g (.vote f .everyS))).all (fun l => (g.lane l).pred f.a.toNat) then 1 else 0) ∧
      ComputesPure s g (.vote f .bitsV) f.d.toNat (fun _ _ =>
        [⟨maskOf (fun l => (actOf g (.vote f .bitsV)).getLsbD l && (g.lane l).pred f.a.toNat), tagN32⟩]) ∧
      ComputesScalar s g (.vote f .bitsS) f.d.toNat (maskOf (fun l => (actOf g (.vote f .bitsS)).getLsbD l && (g.lane l).pred f.a.toNat))) ∧
  (∀ (s : State) (g : Group),
      (Issues s g .nop → Completes s g .nop {} (fun h => h.yielded = false)) ∧
      (∀ f sc, Issues s g (.fence f sc) → Completes s g (.fence f sc) {} (fun h => h.yielded = false)) ∧
      (∀ f, Issues s g (.yield f) → Completes s g (.yield f) {} (fun h => h.windows = [] ∧ h.yielded = true)) ∧
      (∀ f, Issues s g (.qend f) → Completes s g (.qend f) {} (fun h => h.windows = [] ∧ h.quantumDone = s.isSolstice g.blk)))

/-- R23 to R25, R188, R189, R193, R245, R288, R299, R311: GETID, RBQ, TQ, NODEQ, ESTQ and MFSR write what they ask for, by the tables of
their codes: the identities, what a tile and its store hold, the system registers, what a node and its overflow region hold (a node that
no unreleased commit has sent to); SETSTAGE changes %stage and nothing else. In Solstice mode RBQ.pool, RBQ.wait and NODEQ give what the
last quantum end left. -/
def Obligations.QueriesComplete : Prop :=
  ∀ (s : State) (g : Group) (b : Block), s.block? g.blk = some b →
    (∀ f id, id ≠ 10 → ComputesPure s g (.getid f id false) f.d.toNat
      (fun l _ => [⟨if id = 0 then BitVec.ofNat 32 l else identity b g id.toNat, tagN32⟩])) ∧
    (∀ f, ComputesPure s g (.getid f 10 false) f.d.toNat (fun _ x => [⟨x.wid.setWidth 32, tagI64⟩, ⟨(x.wid >>> 32).setWidth 32, tagI64⟩])) ∧
    (∀ f id, ComputesScalar s g (.getid f id true) f.d.toNat (identity b g id.toNat)) ∧
    (∀ f, ComputesScalar s g (.rbq f .own) f.d.toNat (BitVec.ofNat 32 g.budget)) ∧
    (∀ f, ComputesScalar s g (.rbq f .pool) f.d.toNat (BitVec.ofNat 32 (if b.solstice then b.poolSeen else b.pool))) ∧
    (∀ f, ComputesScalar s g (.rbq f .wait) f.d.toNat (BitVec.ofNat 32 (if b.solstice then b.claimsSeen else b.claims).length)) ∧
    (∀ f sel, ComputesScalar s g (.tq f sel) f.d.toNat (BitVec.ofNat 32 (tileQuery s g f.a.toNat sel.toNat))) ∧
    (∀ f, ComputesScalar s g (.nodeq f) f.rd.toNat
      (match Table.get? (if b.solstice then b.nodesSeen else s.nodesNow b.part) (g.sreg f.ra.toNat).toNat with
        | some vs => vs.getD f.num.toNat 0 | none => 0)) ∧
    (∀ f n, ComputesPure s g (.estq f n) f.d.toNat (fun _ x => [⟨Sparse.get 0 x.estq n.toNat, tagN32⟩])) ∧
    (∀ f, ComputesScalar s g (.mfsr f false) f.rd.toNat (BitVec.ofNat 32 (s.sysReg g f.num.toNat))) ∧
    (∀ f, ComputesScalar s g (.mfsr f true) f.rd.toNat (BitVec.ofNat 32 (s.sysReg g f.num.toNat / 2^32))) ∧
    (∀ f, Issues s g (.setstage f false) → ∃ t h, exec (.setstage f false) s = .next t ∧ t.group? s.cur = some h ∧ Rest s t ∧ Others s t ∧
      Advanced g h ∧ h.stage = f.imm.toNat % 16 ∧ Same (({} : Touches).retire (.setstage f false) g) g { h with stage := g.stage }) ∧
    (∀ f, Issues s g (.setstage f true) → ∃ t h, exec (.setstage f true) s = .next t ∧ t.group? s.cur = some h ∧ Rest s t ∧ Others s t ∧
      Advanced g h ∧ h.stage = (g.sreg f.a.toNat).toNat % 16 ∧
      Same (({} : Touches).retire (.setstage f true) g) g { h with stage := g.stage }) ∧
    (∀ n v, (n, v) ∈ [(1, g.grp), (2, b.x), (3, b.y), (4, b.z), (5, b.nx), (6, b.ny), (7, b.nz), (8, g.stage), (9, g.role), (11, b.core),
        (12, b.core / 4), (13, b.core / 4 / 10), (14, b.launchId.toNat), (15, b.gen.toNat)] → identity b g n = BitVec.ofNat 32 v) ∧
    (∀ n (v : Nat), (n, v) ∈ [(0x000, g.epc.toNat), (0x001, g.ecause.toNat), (0x002, g.eaddr.toNat), (0x003, g.emaskf.toNat),
        (0x004, (s.part b.part).hvec.toNat), (0x005, g.einfo.toNat), (0x006, g.elpc.toNat), (0x010, g.fpstat.toNat), (0x020, g.qcount),
        (0x030, 65536 * b.vf + b.part), (0x031, b.estgen.toNat), (0x040, b.bwdog.toNat)] → s.sysReg g n = v) ∧
    (∀ h, (s.tile? g.blk h = none → ∀ sel, sel < 3 → tileQuery s g h sel = 0) ∧
      (∀ t, s.tile? g.blk h = some t → tileQuery s g h 1 = t.rows ∧ tileQuery s g h 2 = t.rowBytes ∧
        (tileQuery s g h 0).testBit 0 = true ∧ tileQuery s g h 0 / 2 % 16 = t.tag.toNat ∧ (tileQuery s g h 0).testBit 5 = t.quad ∧
        (tileQuery s g h 0).testBit 6 = t.e2m1 ∧ tileQuery s g h 0 < 128) ∧
      tileQuery s g h 3 = s.freeCore b.core ∧ tileQuery s g h 4 = s.freeQuad (b.core / 4)) ∧
    (∀ (p k : Nat) (n : Node) (h : W32), (k, n) ∈ s.nodes → n.live = true → n.part = p → h = n.handle k →
      (∀ m ∈ s.nodes, m.2.live = true → m.2.part = p → m.2.handle m.1 = h → m = (k, n)) →
      (∀ x ∈ s.blocks, ∀ c ∈ x.2.commits, c.released = true) → (∀ x ∈ n.swaps, s.unreleasedAt x.2.1 x.2.2 = false) →
      ∃ vs : List W32, Table.get? (s.nodesNow p) h.toNat = some vs ∧ vs.length = 7 ∧
        vs[0]? = some (BitVec.ofNat 32 (1 + 2 * n.ordered.toNat + 4 * n.swapped.toNat +
          8 * (decide (64 ≤ n.ovfSize ∧ n.ovfSize / 64 ≤ n.spilledCount)).toNat)) ∧
        vs[1]? = some (BitVec.ofNat 32 n.bin.length) ∧ vs[2]? = some (BitVec.ofNat 32 n.spilledCount) ∧
        vs[3]? = some (BitVec.ofNat 32 (n.ovfSize / 64 - n.spilledCount)) ∧ vs[4]? = some (BitVec.ofNat 32 n.segments.length) ∧
        vs[5]? = some n.accepted ∧ vs[6]? = some n.dead) ∧
    (∀ (p : Nat) (h : W32), (∀ m ∈ s.nodes, m.2.live = true → m.2.part = p → m.2.handle m.1 ≠ h) → Table.get? (s.nodesNow p) h.toNat = none)

/-! ## Control -/

/-- R173, R174: BRA divides the path between its target and the next word, CALL under a CALL entry, BRX and CALLX by the target of the
lowest active lane; with no active lane each of BRX, CALL and CALLX only advances, and BRA goes on in sequence. R170, R174: the lanes of
RET wait in the innermost CALL entry of the chain that holds them all, out of every entry inside it; when the whole path returns and
nothing is deferred there, the path goes on after its call, and after the call outside it where that is the same place; some lanes of the
path wait there while the others go on; from a branch inside the call the deferred path of the branch runs. -/
def Obligations.TransfersDivideAndRejoin : Prop :=
  (∀ (s : State) (g : Group) (f : FC),
      (Issues s g (.bra f) → actOf g (.bra f) ≠ 0 → Divides s g (.bra f) (actOf g (.bra f)) (target g f.off) (g.pc + 8)
        (if joinDist f = 0 then (if (g.pc + 8).toNat ≤ (target g f.off).toNat then target g f.off else g.pc + 8)
          else g.pc + 8 * BitVec.ofNat 64 (joinDist f)) .br) ∧
      (Issues s g (.call f) → actOf g (.call f) ≠ 0 →
        Divides s g (.call f) (actOf g (.call f)) (target g f.off) (g.pc + 8) (g.pc + 8) .call) ∧
      (∀ ts l0 t0 r, Issues s g (.brx f) → targetsOf g (actOf g (.brx f)) f.ra.toNat = .ok ts → ts = (l0, t0) :: r →
        Divides s g (.brx f) (maskOf (fun l => ts.any (fun x => x.1 == l && x.2 == t0))) t0 g.pc (target g f.off) .br) ∧
      (∀ ts l0 t0 r, Issues s g (.callx f) → targetsOf g (actOf g (.callx f)) f.ra.toNat = .ok ts → ts = (l0, t0) :: r →
        Divides s g (.callx f) (maskOf (fun l => ts.any (fun x => x.1 == l && x.2 == t0))) t0 g.pc (g.pc + 8) .call) ∧
      (∀ i, (i = .bra f ∨ i = .brx f ∨ i = .call f ∨ i = .callx f ∨ i = .ret f) → Issues s g i → actOf g i = 0 → Completes s g i {} (fun _ => True))) ∧
  (∀ (s : State) (g : Group) (f : FC) (a : Lanes), Issues s g (.ret f) → a = actOf g (.ret f) → a ≠ 0 → g.supervisor = false →
      (∀ e, s.ownEntries s.cur g = [e] → g.cur = some e.id → e.kind = .call → a &&& ~~~e.full = 0 →
        (a = g.path → e.defl = 0 → Returns s g f (e.wait ||| g.path) (e.wen ||| (g.em &&& ~~~g.path) ||| (g.em &&& g.path)) e.rpc []) ∧
        (g.path &&& ~~~a ≠ 0 → g.advance.pc ≠ e.rpc → Returns s g f (g.path &&& ~~~a) (g.em &&& ~~~a) g.advance.pc
          [{ e with wait := e.wait ||| a, wen := e.wen ||| (g.em &&& a) }])) ∧
      (∀ c0 c1, s.ownEntries s.cur g = [c0, c1] → g.cur = some c1.id → c0.id < c1.id → c0.kind = .call → c1.kind = .call → a = g.path →
        a &&& ~~~c1.full = 0 → c1.defl = 0 → (c1.wait ||| g.path) &&& ~~~c0.full = 0 →
        ∃ em, (g.em &&& ~~~g.path = 0 → em = c1.wen ||| g.em) ∧
          (c1.rpc ≠ c0.rpc → Returns s g f (c1.wait ||| g.path) em c1.rpc [c0]) ∧
          (c1.rpc = c0.rpc → c0.defl = 0 → Returns s g f (c0.wait ||| (c1.wait ||| g.path)) (c0.wen ||| em) c0.rpc [])) ∧
      (∀ c b, s.ownEntries s.cur g = [c, b] → g.cur = some b.id → c.id < b.id → c.kind = .call → b.kind = .br →
        a &&& ~~~c.full = 0 → b.full &&& ~~~c.full = 0 →
        (g.path &&& ~~~a ≠ 0 → g.advance.pc ≠ b.rpc → Returns s g f (g.path &&& ~~~a) (g.em &&& ~~~a) g.advance.pc
          [{ c with wait := c.wait ||| a, wen := c.wen ||| (g.em &&& a) }, b.without a]) ∧
        (a = g.path → b.defl &&& ~~~a ≠ 0 → b.defl &&& ~~~b.full = 0 → b.dpc ≠ b.rpc → ∃ b', b'.id = b.id ∧ b'.defl = 0 ∧
          b'.full = b.full &&& ~~~a ∧ b'.wait = b.wait &&& ~~~a ∧ b'.rpc = b.rpc ∧
          Returns s g f (b.defl &&& ~~~a) (b.den &&& ~~~a) b.dpc [{ c with wait := c.wait ||| a, wen := c.wen ||| (g.em &&& a) }, b'])))

/-- R171: a transfer of a whole path only moves its PC; a divided path pushes one entry with the whole of it, runs the fall-through
and defers the lanes that transfer, or parks them at the reconvergence point; a call runs under its entry. -/
def Obligations.SplitPushesOneEntry : Prop :=
  ∀ (id own : Nat) (g : Group) (es : List Entry) (t : Lanes) (tpc fpc rpc : W64) (kind : EntryKind), (∀ e ∈ es, e.id ≠ id) →
    t &&& ~~~g.path = 0 → t ≠ 0 →
    (kind = .br → (t = g.path ∨ tpc = fpc) →
      split id own g es t tpc fpc rpc kind = ({ g with pc := tpc }, es)) ∧
    (t ≠ g.path → tpc ≠ fpc → fpc ≠ rpc → ∃ e, (split id own g es t tpc fpc rpc kind).2 = es ++ [e] ∧ e.id = id ∧ e.kind = kind ∧
      e.owner = own ∧ e.rpc = rpc ∧ e.full = g.path ∧
      (split id own g es t tpc fpc rpc kind).1 = { g with path := g.path &&& ~~~t, em := g.em &&& (g.path &&& ~~~t), pc := fpc, cur := some id, fair := 0 } ∧
      (tpc ≠ rpc → e.defl = t ∧ e.den = g.em &&& t ∧ e.dpc = tpc ∧ e.wait = 0 ∧ e.wen = 0) ∧
      (tpc = rpc → e.defl = 0 ∧ e.wait = t ∧ e.wen = g.em &&& t)) ∧
    (kind = .call → fpc = rpc → tpc ≠ rpc → ∃ e, (split id own g es t tpc fpc rpc kind).2 = es ++ [e] ∧ e.id = id ∧ e.kind = .call ∧
      e.owner = own ∧ e.full = g.path ∧ e.rpc = rpc ∧ e.defl = 0 ∧ e.wait = g.path &&& ~~~t ∧ e.wen = g.em &&& (g.path &&& ~~~t) ∧
      (split id own g es t tpc fpc rpc kind).1 =
        { g with path := t, em := g.em &&& t, pc := tpc, cur := some id, fair := if t = g.path then g.fair else 0 })

/-- R175, R183, R184, R185: SBR goes to its target or on; LOOP makes its counter live or passes its body by; LBRK ends its loop and
those inside it; an advance onto a live loop's end counts it down and starts it again, or ends it. -/
def Obligations.LoopsCount : Prop :=
  ∀ (s : State) (g : Group) (f : FC),
    (∀ z, Issues s g (.sbr f z) → (g.sreg f.ra.toNat = 0 ↔ z = true) → Jumps s g (.sbr f z) {} (fun h => h.pc = target g f.off ∧ h.lc = g.lc ∧ h.nest = g.nest)) ∧
    (∀ z, Issues s g (.sbr f z) → ¬ (g.sreg f.ra.toNat = 0 ↔ z = true) → Completes s g (.sbr f z) {} (fun _ => True)) ∧
    (∀ imm c, Issues s g (.loop f imm) → (g.loop f.xp.toNat).live = false →
      (∀ k ∈ g.nest, (target g f.off).toNat ≤ (g.loop k).stop.toNat) → c = (if imm then f.ra.setWidth 32 else g.sreg f.ra.toNat) →
      (c = 0 → Jumps s g (.loop f imm) {} (fun h => h.pc = target g f.off ∧ h.lc = g.lc ∧ h.nest = g.nest)) ∧
      (c ≠ 0 → Jumps s g (.loop f imm) {} (fun h => h.pc = g.pc + 8 ∧ h.nest = f.xp.toNat :: g.nest ∧
        h.loop f.xp.toNat = { live := true, count := c, start := g.pc + 8, stop := target g f.off } ∧
        ∀ k, k ≠ f.xp.toNat → h.loop k = g.loop k))) ∧
    (Issues s g (.lbrk f) → (g.loop f.xp.toNat).live = true →
      Jumps s g (.lbrk f) {} (fun h => h.pc = (g.loop f.xp.toNat).stop ∧ (h.loop f.xp.toNat).live = false ∧
        (∀ k ∈ g.nest.takeWhile (· != f.xp.toNat), (h.loop k).live = false) ∧ f.xp.toNat ∉ h.nest)) ∧
    (∀ n r, g.nest = n :: r → (g.loop n).stop = g.pc + 8 → 1 < (g.loop n).count.toNat →
      g.advance.pc = (g.loop n).start ∧ (g.advance.loop n).count = (g.loop n).count - 1 ∧ g.advance.nest = g.nest) ∧
    (∀ n, g.nest = [n] → (g.loop n).stop = g.pc + 8 → (g.loop n).count.toNat ≤ 1 →
      g.advance.pc = g.pc + 8 ∧ (g.advance.loop n).live = false ∧ g.advance.nest = [])

/-- R176, R28: EXIT of some lanes of the running path takes them out of the group and goes on; of all of a group's lanes, with no
construct open, it retires the group, whose budget enters the pool. No will is held here. -/
def Obligations.ExitEndsLanes : Prop :=
  ∀ (s : State) (g : Group) (f : FC) (b : Block) (act : Lanes), Issues s g (.exit f) → act = actOf g (.exit f) →
    s.block? g.blk = some b → g.supervisor = false → (∀ l, l < 32 → act.getLsbD l → (g.lane l).will = none) →
    s.ownEntries s.cur g = [] → g.cur = none → act &&& ~~~g.occ = 0 → g.path &&& ~~~g.occ = 0 → g.windows = [] →
    (act = 0 → Completes s g (.exit f) {} (fun _ => True)) ∧
    (act ≠ 0 → g.path &&& ~~~act ≠ 0 → ∃ t h, exec (.exit f) s = .next t ∧ t.group? s.cur = some h ∧ t.mem = s.mem ∧
      h.path = g.path &&& ~~~act ∧ h.occ = g.occ &&& ~~~act ∧ h.em = g.em &&& ~~~act ∧ h.pc = g.advance.pc ∧ h.lc = g.advance.lc ∧ h.nest = g.advance.nest ∧ h.st = g.st ∧ h.budget = g.budget ∧
      (∀ l r, l < 32 → act.getLsbD l = false → r ∉ released (useOf (.exit f)) → (h.lane l).reg r = (g.lane l).reg r) ∧
      (∀ l, l < 32 → act.getLsbD l → h.lane l = {})) ∧
    (act ≠ 0 → g.path &&& ~~~act = 0 → s.isSolstice g.blk = false → s.inCompaction s.cur g = false → b.compact = none → g.due = [] →
      b.claims = [] → (∃ k x, k ≠ s.cur ∧ s.group? k = some x ∧ x.blk = g.blk ∧ x.st ≠ .retired) →
      ∃ t h c, exec (.exit f) s = .next t ∧ t.group? s.cur = some h ∧ t.mem = s.mem ∧ h.st = .retired ∧ h.path = 0 ∧ h.occ = 0 ∧
        t.block? g.blk = some c ∧ c.pool = b.pool + g.budget)

/-- R296: EXIT.J takes 1 from the join counter of its lane, and the lane leaves as under EXIT; a counter at 0 stays, and the lane takes
the cause 0x183 after the instruction instead of leaving. R294, R305: JINIT and GCOND store a scalar register, 8 bytes with zeros above it
or 4, at the group's address, and nothing else. R45, R46, R295: JWAIT of a counter at 0 goes on; otherwise the group waits at it, and its
context leaves the Sapwood where no estate fetch is in flight (R319). -/
def Obligations.JoinCounters : Prop :=
  (∀ (s : State) (g : Group) (f : FC) (l a : Nat) (va : W64), Issues s g (.exitJ f) → g.supervisor = false → s.isSolstice g.blk = false →
      s.ownEntries s.cur g = [] → g.cur = none → g.windows = [] → g.path &&& ~~~actOf g (.exitJ f) ≠ 0 → g.path &&& ~~~g.occ = 0 →
      lanesOf (actOf g (.exitJ f)) = [l] → (g.lane l).join = some va → s.checkAddr (s.partOf g) va 8 .rmw = .ok a →
      s.busy g va 8 true = false → s.isBad a 8 = false →
      (readNat s.mem a 8 ≠ 0 → ∃ t h, exec (.exitJ f) s = .next t ∧ t.group? s.cur = some h ∧ readNat t.mem a 8 = readNat s.mem a 8 - 1 ∧
        (∀ k, k < a ∨ a + 8 ≤ k → readByte t.mem k = readByte s.mem k) ∧ h.path = g.path &&& ~~~actOf g (.exitJ f) ∧ h.pc = g.advance.pc ∧
        h.occ = g.occ &&& ~~~actOf g (.exitJ f)) ∧
      (readNat s.mem a 8 = 0 → goodVector (s.hvec g) = true → ∃ t h, exec (.exitJ f) s = .next t ∧ t.group? s.cur = some h ∧ t.mem = s.mem ∧
        h.supervisor = true ∧ h.pc = s.hvec g ∧ h.ecause = 0x183 ∧ h.eaddr = va ∧ h.epc = g.advance.pc ∧ h.occ = g.occ ∧
        ∀ k, k < 32 → h.emaskf.getLsbD k = decide (k = l))) ∧
  (∀ (s : State) (g : Group) (f : FMg) (i : Instr) (n a : Nat), (i = .jinit f ∧ n = 8 ∨ i = .gcond f ∧ n = 4) → Issues s g i →
      s.isSolstice g.blk = false → s.checkGroup (s.partOf g) (g.areg f.ar.toNat) (groupAddr g f) n .store = .ok a →
      s.busy g (groupAddr g f) n true = false → s.isBadPart a n = false →
      Stores s g i {} [a] n (fun t _ => readNat t.mem a n = (g.sreg f.r.toNat).toNat)) ∧
  (∀ (s : State) (g : Group) (f : FMg) (v : Nat), Issues s g (.jwait f) → s.isSolstice g.blk = false →
      s.readCounter g.landAll (g.landAll.areg f.ar.toNat) (groupAddr g.landAll f) = .value v →
      (v = 0 → Completes s g (.jwait f) {} (fun h => h.windows = [] ∧ h.st = g.st)) ∧
      (v ≠ 0 → ∃ t h, exec (.jwait f) s = .next t ∧ t.group? s.cur = some h ∧ t.mem = s.mem ∧ h.pc = g.pc ∧ h.path = g.path ∧
        h.st = .waiting (.jwait (groupAddr g.landAll f) f.ar.toNat) ∧
        (fetchesLanded g.landAll = true → h.sapwood = false ∧ h.resBlocks = 0 ∧ h.resSlot = false ∧ ∀ l, (h.lane l).resv = none)))

/-! ## Barriers and budgets -/

/-- R190: BARA arrives and goes on; BAR arrives and waits, and the arrival that reaches the count completes the phase at once outside
Solstice mode; BARW waits for the group's phase. -/
def Obligations.BarriersComplete : Prop :=
  ∀ (s : State) (g : Group) (b : Block) (f : FC) (n : Nat) (nb : NamedBar) (v : BarView), n = f.ra.toNat → s.block? g.blk = some b →
    nb = b.bar n → v = g.barView n → g.converged = true → s.isSolstice g.blk = false →
    (Issues s g (.bara f) → v.arrived ≠ some nb.phase → countConflict nb f.off.toNat = false →
      ∃ t h c, exec (.bara f) s = .next t ∧ t.group? s.cur = some h ∧ t.block? g.blk = some c ∧ t.mem = s.mem ∧ Advanced g h ∧
        h.barView n = { v with phase := nb.phase, arrived := some nb.phase } ∧
        c.bar n = (if phaseCount s g nb f.off.toNat ≤ nb.arrivals + 1 then { phase := nb.phase + 1, arrivals := 0, count := none }
          else { phase := nb.phase, arrivals := nb.arrivals + 1, count := some (nb.count.getD f.off.toNat) }) ∧
        Same (({} : Touches).retire (.bara f) g) g { h with bars := g.bars }) ∧
    (Issues s g (.bar f) → v.arrived ≠ some nb.phase → v.standing = false → countConflict nb f.off.toNat = false → g.windows = [] →
      (phaseCount s g nb f.off.toNat ≤ nb.arrivals + 1 →
        ∃ t h c, exec (.bar f) s = .next t ∧ t.group? s.cur = some h ∧ t.block? g.blk = some c ∧ t.mem = s.mem ∧ Advanced g h ∧ h.st = g.st ∧
          (h.barView n).phase = nb.phase + 1 ∧ (h.barView n).standing = false ∧
          c.bar n = { phase := nb.phase + 1, arrivals := 0, count := none }) ∧
      (nb.arrivals + 1 < phaseCount s g nb f.off.toNat →
        ∃ t h c, exec (.bar f) s = .next t ∧ t.group? s.cur = some h ∧ t.block? g.blk = some c ∧ t.mem = s.mem ∧ h.pc = g.pc ∧
          h.st = .waiting (.named n true) ∧ (h.barView n).phase = nb.phase ∧ (c.bar n).arrivals = nb.arrivals + 1)) ∧
    (Issues s g (.barw f) → v.phase < nb.phase → g.windows = [] →
      ∃ t h, exec (.barw f) s = .next t ∧ t.group? s.cur = some h ∧ t.mem = s.mem ∧ Advanced g h ∧ h.st = g.st ∧
        h.barView n = { v with phase := v.phase + 1 } ∧ Same (({} : Touches).retire (.barw f) g) g { h with bars := g.bars }) ∧
    (Issues s g (.barw f) → nb.phase ≤ v.phase → g.windows = [] →
      ∃ t h, exec (.barw f) s = .next t ∧ t.group? s.cur = some h ∧ h.pc = g.pc ∧ h.st = .waiting (.named n false))

/-- R191, R192, R28: RBTAKE of blocks that the pool holds, behind no other claim, takes them, and their registers read as 0, RAW.
A context in the Sapwood stays there where it has room for them (R315); else it leaves with what it held of the reserve, its hold latch and
its reservations (log entry 87), and where an estate fetch of it is in flight the claim waits for that (R319; log entry 106).
RBGIVE gives blocks back, and their registers lose their contents. A budget never leaves 4 to 32 blocks by them. -/
def Obligations.RegisterBudgets : Prop :=
  ∀ (s : State) (g : Group) (b : Block) (f : FI) (n : Nat), n = f.imm.toNat → s.block? g.blk = some b → s.isSolstice g.blk = false →
    g.windows = [] → b.claims = [] →
    (Issues s g (.rbtake f) → g.budget + n ≤ 32 → n ≤ b.pool → g.st = .active →
      (g.inReserve = true ∨ s.outgrows g n = false ∨ fetchesLanded g = true) →
      ∃ t h c, exec (.rbtake f) s = .next t ∧ t.group? s.cur = some h ∧ t.block? g.blk = some c ∧ t.mem = s.mem ∧ Advanced g h ∧
        h.budget = g.budget + n ∧ c.pool = b.pool - n ∧ c.claims = [] ∧ h.st = (if h.sapwood then .active else .parked) ∧
        (g.sapwood = true → g.inReserve = false → s.ordinaryUsed (s.coreOf g) + n ≤ Config.sapwoodBlocks → h.st = .active) ∧
        (g.sapwood = true → g.inReserve = true ∨ Config.sapwoodBlocks < s.ordinaryUsed (s.coreOf g) + n →
          h.sapwood = false ∧ h.resBlocks = 0 ∧ h.resSlot = false ∧ h.latch = [] ∧ ∀ l, (h.lane l).resv = none) ∧
        (∀ l r, l < 32 → 8 * g.budget ≤ r → r < 8 * (g.budget + n) → (h.lane l).reg r = Reg.zero) ∧
        (∀ l r, l < 32 → r < 8 * g.budget ∨ 8 * (g.budget + n) ≤ r → (h.lane l).reg r = (g.lane l).reg r)) ∧
    (Issues s g (.rbtake f) → g.budget + n ≤ 32 → g.st = .active → g.inReserve = false →
      (b.pool < n ∨ s.outgrows g n = true ∧ fetchesLanded g = false) →
      ∃ t h c, exec (.rbtake f) s = .next t ∧ t.group? s.cur = some h ∧ t.block? g.blk = some c ∧ t.mem = s.mem ∧ h.pc = g.pc ∧
        h.st = .waiting (.rbtake n) ∧ h.budget = g.budget ∧ c.pool = b.pool ∧ c.claims = [s.cur]) ∧
    (Issues s g (.rbtake f) → 32 < g.budget + n → Takes s g (.rbtake f) { code := 0x00A, einfo := none }) ∧
    (Issues s g (.rbgive f) → n + 4 ≤ g.budget →
      ∃ t h c, exec (.rbgive f) s = .next t ∧ t.group? s.cur = some h ∧ t.block? g.blk = some c ∧ t.mem = s.mem ∧ Advanced g h ∧
        h.budget = g.budget - n ∧ c.pool = b.pool + n ∧
        (∀ l r, l < 32 → 8 * (g.budget - n) ≤ r → r < 8 * g.budget → (h.lane l).reg r = Reg.zero) ∧
        (∀ l r, l < 32 → r < 8 * (g.budget - n) → (h.lane l).reg r = (g.lane l).reg r)) ∧
    (Issues s g (.rbgive f) → g.budget < n + 4 → Takes s g (.rbgive f) { code := 0x00A, einfo := none })

/-- R177 to R181: BRA.C of a block's only participant, with its guard true in every lane, packs the work-items into the lowest lanes
and goes to the target; RJOIN puts each work-item back where it was. s8 to s23 are free in between (log entry 10). -/
def Obligations.CompactionPacksAndRejoins : Prop :=
  ∀ (s : State) (g : Group) (b : Block) (f : FC) (n : Nat), s.block? g.blk = some b → s.isSolstice g.blk = false → g.supervisor = false →
    g.converged = true → g.em = g.occ → g.occ ≠ 0 → g.windows = [] → (∀ l, l < 32 → (g.lane l).pend = []) → g.lanes.length ≤ 32 → g.sapwood = true →
    g.inReserve = false → g.st ≠ .retired → (s.liveGroups g.blk).filter (fun x => x.2.role == g.role) = [(s.cur, g)] → n = (lanesOf g.occ).length →
    (Issues s g (.braC f) → b.compact = none → b.entries + 2 ≤ 32 → actOf g (.braC f) = g.occ →
      ∃ t h c k, exec (.braC f) s = .next t ∧ t.group? s.cur = some h ∧ t.block? g.blk = some c ∧ c.compact = some k ∧ t.mem = s.mem ∧
        k.done = true ∧ h.pc = target g f.off ∧ h.occ = BitVec.ofNat 32 (2^n - 1) ∧ h.path = h.occ ∧ h.em = h.occ ∧ h.st = .active ∧
        (∀ (i l : Nat), (lanesOf g.occ)[i]? = some l → (h.lane i).wid = (g.lane l).wid ∧ ∀ r, (h.lane i).reg r = (g.lane l).reg r) ∧
        (∀ r, r < 8 → h.sreg r = g.sreg r) ∧ h.budget = g.budget) ∧
    (∀ (f : FC) (c : Compact) (sn : PartSnap), Issues s g (.rjoin f) → b.compact = some c → c.done = true → c.join = g.pc →
      c.snaps = [sn] → sn.gid = s.cur → c.joined = [] →
      (∀ x ∈ c.places, x.1.1 = s.cur ∧ x.2.1 = s.cur ∧ x.2.2 < 32 ∧ g.occ.getLsbD x.1.2) → (c.places.map (·.2.2)).Nodup → c.places ≠ [] →
      ∃ t h d, exec (.rjoin f) s = .next t ∧ t.group? s.cur = some h ∧ t.block? g.blk = some d ∧ d.compact = none ∧ t.mem = s.mem ∧
        h.pc = g.pc + 8 ∧ h.occ = maskOf (fun l => c.places.any (fun x => x.2.2 == l)) ∧ h.path = h.occ ∧ h.st = .active ∧
        (∀ x ∈ c.places, (h.lane x.2.2).wid = (g.lane x.1.2).wid ∧ ∀ r, (h.lane x.2.2).reg r = (g.lane x.1.2).reg r))

/-- R190: an arrival by a group that is not converged, a second arrival in a phase and a count that conflicts are misuses, with EINFO 1, 2
and 3. R243, R244, R362: TALLOC of a bad shape, of a bound handle and of more granules than are free, and TFREE of an unbound handle, take
their causes with their EINFO. -/
def Obligations.MisusesTrap : Prop :=
  (∀ (s : State) (g : Group) (b : Block) (f : FC), s.block? g.blk = some b →
      (g.converged = false → (∀ i, (i = .bar f ∨ i = .bara f ∨ i = .barw f) → Issues s g i → Takes s g i { code := 0x140, einfo := some 1 })) ∧
      (g.converged = true → (g.barView f.ra.toNat).arrived = some (b.bar f.ra.toNat).phase → Issues s g (.bara f) →
        Takes s g (.bara f) { code := 0x140, einfo := some 2 }) ∧
      (g.converged = true → (g.barView f.ra.toNat).arrived ≠ some (b.bar f.ra.toNat).phase → ∀ c, (b.bar f.ra.toNat).count = some c →
        f.off.toNat ≠ 0 → f.off.toNat ≠ c → Issues s g (.bara f) → Takes s g (.bara f) { code := 0x140, einfo := some 3 })) ∧
  (∀ (s : State) (g : Group) (f : FI) (x : Nat) (fromS : Bool), x = (if fromS then g.sreg f.a.toNat else f.imm).toNat →
      (Issues s g (.talloc f fromS) → badShape x = true → Takes s g (.talloc f fromS) { code := 0x048, einfo := some 2 }) ∧
      (Issues s g (.talloc f fromS) → badShape x = false → (s.tile? g.blk f.d.toNat).isSome = true →
        Takes s g (.talloc f fromS) { code := 0x049, einfo := some 2 }) ∧
      (∀ t n, t = shapeTile x → n = granulesOf t.rows t.rowBytes → Issues s g (.talloc f fromS) → badShape x = false →
        s.tile? g.blk f.d.toNat = none → (if t.quad then s.freeQuad (s.quadOf g) else s.freeCore (s.coreOf g)) < n →
        Takes s g (.talloc f fromS) { code := 0x04A, einfo := some (BitVec.ofNat 64 n) }) ∧
      (Issues s g (.tfree f) → s.tile? g.blk f.d.toNat = none → Takes s g (.tfree f) { code := 0x049, einfo := some 3 }))

/-! ## Memory -/

/-- R43, R230, R231, R355, R356: an access goes on only when every active lane's address is canonical, aligned to its size and translated
with the permission it needs: below its address register's limit by the frame, which keeps the permissions of the page that it was bound
in, otherwise by the page that the TLBs give; a cached translation serves as it stood until a shootdown, and no invalid walk is cached
(log entry 103); the address is base plus sign-extended offset plus sign-extended displacement, modulo 2^64. R231: of several lanes that
fail the earliest check decides the cause, EMASKF holds the lanes that reached it, EADDR the lowest one's address, lanes being taken in
ascending order. -/
def Obligations.AddressesAreChecked : Prop :=
  (∀ (s : State) (g : Group) (act : Lanes) (f : FMg) (n : Nat) (need : Need) (xs : List (Nat × W64 × Nat)), s.access g act f n need = .ok xs →
      xs.map (fun x => (x.1, x.2.1)) = (lanesOf act).map (fun l => (l, laneAddr g f l)) ∧ (lanesOf act).Pairwise (· < ·) ∧
      (∀ x ∈ xs, ∀ r, r = g.areg f.ar.toNat → canonical x.2.1 = true ∧ x.2.1.toNat % n = 0 ∧
        (∀ a, r.fast s.dev (s.partOf g) x.2.1 n = some a → x.2.2 = a ∧ need.allows r.canR r.canW = true) ∧
        (r.fast s.dev (s.partOf g) x.2.1 n = none →
          ∃ pg, s.walk (s.partOf g) x.2.1 = .page pg ∧ need.ok pg = true ∧ x.2.2 = pg.at x.2.1)) ∧
      (∀ l, laneAddr g f l = (g.areg f.ar.toNat).base +
        (if f.vo = 0 then 0 else ((g.lane l).reg f.vo.toNat).val.signExtend 64) + f.disp.signExtend 64)) ∧
  (∀ (r : AddrReg) (d : Device) (p : Nat) (va : W64) (n : Nat), (r.limit.toNat < (va - r.base).toNat + n → r.fast d p va n = none) ∧
      (∀ b, (va - r.base).toNat + n ≤ r.limit.toNat → r.base.toNat % r.page + (va - r.base).toNat + n ≤ r.page →
        sysAddr d p (r.frame.toNat + (va - r.base).toNat) = some b → r.fast d p va n = some b)) ∧
  (∀ (s : State) (p : Nat) (va : W64) (pg : Page), (Table.get? s.parts p).isSome = true → canonical va = true →
      s.cachedPage p va = none → s.tableWalk p va = .page pg →
      s.walk p va = .page pg ∧ (s.cache p va).cachedPage p va = some pg ∧ ∀ m, ({ s.cache p va with mem := m } : State).walk p va = .page pg) ∧
  (∀ (s : State) (p : Nat) (va : W64) (l : Nat) (mal : Bool), s.cachedPage p va = none → s.tableWalk p va = .stop l mal →
      s.walk p va = .stop l mal ∧ s.cache p va = s) ∧
  (∀ (s : State) (p : Nat) (r : AddrReg) (xs : List (Nat × W64)) (align : Nat) (need : Need) (t : Trap), s.checkLanes p r xs align need = .error t →
      ∃ (k : Nat) (m : Lanes) (y : Nat × W64) (e : AddrFail), y ∈ xs ∧ s.checkVia p r y.2 align need = .error e ∧ e.rank = k ∧
        t = { code := e.code, mask := some m, eaddr := y.2, einfo := some (addrInfo e.level e.mal need.acc) } ∧
        (∀ l, l < 32 → (m.getLsbD l = true ↔ ∃ z ∈ xs, z.1 = l ∧ ∃ d, s.checkVia p r z.2 align need = .error d ∧ d.rank = k)) ∧
        (∀ z ∈ xs, ∀ d, s.checkVia p r z.2 align need = .error d → k ≤ d.rank) ∧
        (xs.Pairwise (fun u v => u.1 < v.1) → ∀ z ∈ xs, ∀ d, s.checkVia p r z.2 align need = .error d → d.rank = k → y.1 ≤ z.1) ∧
        (e.code = 0x044 ∨ e.code = 0x041 ∨ e.code = 0x040 ∨ e.code = 0x042))

/-- R234, R236, R237, R240, R195: LD, LD.p and LL land the bytes at each active lane's address, SLD those at the group's, behind their
window; a load to v0 or p0 is a prefetch and does nothing; LL reserves the granule of each lane's address. Memory stays. -/
def Obligations.LoadsComplete : Prop :=
  ∀ (s : State) (g : Group) (f : FMg) (xs : List (Nat × W64 × Nat)) (ls : List Landing),
    (∀ k, Issues s g (.ld f k) → isPrefetch f = true → Completes s g (.ld f k) {} (fun _ => True)) ∧
    (∀ k, Issues s g (.ld f k) → isPrefetch f = false → s.access g (actOf g (.ld f k)) f (szBytes f.sz) .load = .ok xs →
      s.anyBusy g xs (szBytes f.sz) false = false → s.badLanes xs (szBytes f.sz) = none →
      ls = xs.flatMap (fun x => loadLands (s.view g) f k x.1 x.2.2) →
      Completes s g (.ld f k) (landTouch g (.ld f k) ls) (fun h => Lands g h (.ld f k) ls)) ∧
    (∀ tag, Issues s g (.ll f tag) → s.access g (actOf g (.ll f tag)) f (szBytes f.sz) .rmw = .ok xs →
      s.anyBusy g xs (szBytes f.sz) false = false → s.badLanes xs (szBytes f.sz) = none →
      ls = xs.flatMap (fun x => loadLands (s.view g) f (.reg false tag) x.1 x.2.2) →
      Completes s g (.ll f tag) { landTouch g (.ll f tag) ls with resv := fun l => (actOf g (.ll f tag)).getLsbD l } (fun h =>
        Lands g h (.ll f tag) ls ∧ ∀ x ∈ xs, (h.lane x.1).resv = some (granule x.2.2))) ∧
    (∀ sg a, Issues s g (.sld f sg) → s.checkGroup (s.partOf g) (g.areg f.ar.toNat) (groupAddr g f) (szBytes f.sz) .load = .ok a →
      s.busy g (groupAddr g f) (szBytes f.sz) false = false → s.isBad a (szBytes f.sz) = false →
      ls = [.scalar f.r.toNat (extendTo (szBytes f.sz) sg (readNat (s.view g) a (szBytes f.sz)))] →
      Completes s g (.sld f sg) (landTouch g (.sld f sg) ls) (fun h => Lands g h (.sld f sg) ls))

/-- R235, R236, R146: ST writes the low bytes of its registers at each active lane's address, ST.p one byte for its predicate; where lanes
meet the highest wins; no other byte changes. R381, R146: in Solstice mode a store is staged: memory stays, and the group's view shows the
bytes and is otherwise as it was (R385). -/
def Obligations.StoresComplete : Prop :=
  (∀ (s : State) (g : Group) (f : FMg) (k : StKind) (xs : List (Nat × W64 × Nat)), Issues s g (.st f k) →
      s.access g (actOf g (.st f k)) f (szBytes f.sz) .store = .ok xs → s.isSolstice g.blk = false →
      s.anyBusy g xs (szBytes f.sz) true = false → s.badTrap xs (szBytes f.sz) true = none →
      Stores s g (.st f k) {} (xs.map (·.2.2)) (szBytes f.sz) (fun t _ =>
        ∀ x ∈ xs, (∀ y ∈ xs, x.1 < y.1 → y.2.2 + szBytes f.sz ≤ x.2.2 ∨ x.2.2 + szBytes f.sz ≤ y.2.2) →
          readBytes t.mem x.2.2 (szBytes f.sz) = storeBytes f k (g.lane x.1))) ∧
  (∀ (s : State) (g : Group) (b : Block) (f : FMg) (k : StKind) (xs : List (Nat × W64 × Nat)), Issues s g (.st f k) →
      s.access g (actOf g (.st f k)) f (szBytes f.sz) .store = .ok xs → s.isSolstice g.blk = true →
      s.anyBusy g xs (szBytes f.sz) true = false → s.badTrap xs (szBytes f.sz) true = none → s.block? g.blk = some b → b.base.isSome = true →
      ∃ t h, exec (.st f k) s = .next t ∧ t.group? s.cur = some h ∧ Advanced g h ∧ Rest s t ∧ Others s t ∧
        Same (({ resv := fun _ => True } : Touches).retire (.st f k) g) g h ∧ Released g (.st f k) h ∧
        h.staged = g.staged ++ (if xs = [] then [] else [.write (xs.flatMap (fun x => cellsOf x.2.2 (storeBytes f k (g.lane x.1))))]) ∧
        (∀ x ∈ xs, (∀ y ∈ xs, x.1 < y.1 → y.2.2 + szBytes f.sz ≤ x.2.2 ∨ x.2.2 + szBytes f.sz ≤ y.2.2) →
          readBytes (t.view h) x.2.2 (szBytes f.sz) = storeBytes f k (g.lane x.1)) ∧
        (∀ a, (∀ x ∈ xs, a < x.2.2 ∨ x.2.2 + szBytes f.sz ≤ a) → readByte (t.view h) a = readByte (s.view g) a))

/-- R238, R239, R146: ATOM and CAS act lane after lane, in ascending order, each on what the one before left; the lanes' old values
land behind the window; no other byte changes. ATOM adds modulo the width, takes the signed or under .u the unsigned minimum and
maximum, works bit by bit, or exchanges; CAS writes its new value where memory holds the compare value and nothing elsewhere. -/
def Obligations.AtomicsComplete : Prop :=
  (∀ (n : Nat) (x y : BitVec (8 * n)) (u : Bool), 0 < n →
    atomApply .add u n x.toNat y.toNat = (x + y).toNat ∧
    atomApply .min u n x.toNat y.toNat = (if (if u then x.ule y else x.sle y) then x else y).toNat ∧
    atomApply .max u n x.toNat y.toNat = (if (if u then x.ule y else x.sle y) then y else x).toNat ∧
    atomApply .and u n x.toNat y.toNat = (x &&& y).toNat ∧ atomApply .or u n x.toNat y.toNat = (x ||| y).toNat ∧
    atomApply .xor u n x.toNat y.toNat = (x ^^^ y).toNat ∧ atomApply .exch u n x.toNat y.toNat = y.toNat) ∧
  (∀ (m : List Host.Cell) (n l a v c : Nat) (op : AtomOp) (u : Bool), v < 2^(8 * n) →
    readNat (rmwOn op u n m (l, a, v)) a n = atomApply op u n (readNat m a n) v ∧
    readNat (casOn n m (l, a, c, v)) a n = (if readNat m a n = c then v else readNat m a n) ∧
    (∀ k, k < a ∨ a + n ≤ k → readByte (rmwOn op u n m (l, a, v)) k = readByte m k ∧ readByte (casOn n m (l, a, c, v)) k = readByte m k)) ∧
  ∀ (s : State) (g : Group) (f : FMg) (xs : List (Nat × W64 × Nat)) (n : Nat), n = szBytes f.sz → s.isSolstice g.blk = false →
    s.anyBusy g xs n true = false → (∀ x ∈ xs, s.isBad x.2.2 n = false) →
    (∀ op u nr (run : List (Nat × W64 × Nat) → List Host.Cell) (ls : List Landing), Issues s g (.atom f op u nr) →
      s.access g (actOf g (.atom f op u nr)) f n .rmw = .ok xs →
      (∀ ys, run ys = ys.foldl (fun m y => rmwOn op u n m (y.1, y.2.2, regNat (g.lane y.1) f.r.toNat n)) s.mem) →
      ls = (if nr then [] else xs.zipIdx.flatMap (fun x => oldLands (atomTag op u n) f n x.1.1 (readNat (run (xs.take x.2)) x.1.2.2 n))) →
      Stores s g (.atom f op u nr) (landTouch g (.atom f op u nr) ls) (xs.map (·.2.2)) n (fun t h => t.mem = run xs ∧
        (nr = false → Lands g h (.atom f op u nr) ls))) ∧
    (∀ (run : List (Nat × W64 × Nat) → List Host.Cell) (ls : List Landing), Issues s g (.cas f) →
      s.access g (actOf g (.cas f)) f n .rmw = .ok xs →
      (∀ ys, run ys = ys.foldl (fun m y =>
        casOn n m (y.1, y.2.2, regNat (g.lane y.1) f.r.toNat n, regNat (g.lane y.1) (f.r.toNat + n / 4) n)) s.mem) →
      ls = xs.zipIdx.flatMap (fun x => oldLands tagRAW f n x.1.1 (readNat (run (xs.take x.2)) x.1.2.2 n)) →
      Stores s g (.cas f) (landTouch g (.cas f) ls) (xs.map (·.2.2)) n (fun t h => t.mem = run xs ∧ Lands g h (.cas f) ls))

/-- R163, R241: SC writes in the lanes that hold a reservation on the granule of their address, of several on one granule in the
highest alone (log entry 26); its predicate lands true there and false in the other active lanes, and every active lane's
reservation is gone. -/
def Obligations.StoreConditionalCompletes : Prop :=
  ∀ (s : State) (g : Group) (f : FMg) (pd : BitVec 3) (xs win : List (Nat × W64 × Nat)) (n : Nat) (ls : List Landing),
    Issues s g (.sc f pd) → n = szBytes f.sz → s.access g (actOf g (.sc f pd)) f n .rmw = .ok xs → s.isSolstice g.blk = false →
    s.anyBusy g xs n true = false →
    win = xs.filter (fun x => decide ((g.lane x.1).resv = some (granule x.2.2)) &&
      xs.all (fun y => decide (y.1 ≤ x.1) || decide ((g.lane y.1).resv ≠ some (granule x.2.2)))) →
    s.badTrap win n true = none → ls = xs.map (fun x => .pred x.1 pd.toNat (win.any (fun y => y.1 == x.1))) →
    Stores s g (.sc f pd) (landTouch g (.sc f pd) ls) (win.map (·.2.2)) n (fun t h => Lands g h (.sc f pd) ls ∧
      (∀ x ∈ win, (∀ y ∈ win, x.1 < y.1 → y.2.2 + n ≤ x.2.2 ∨ x.2.2 + n ≤ y.2.2) →
        readBytes t.mem x.2.2 n = regBytes (g.lane x.1) f.r.toNat (szRegs f.sz)) ∧
      (∀ l, l < 32 → (actOf g (.sc f pd)).getLsbD l → (h.lane l).resv = none))

/-- Memory reads back what was written, and keeps every other byte (R147, R148). R4, R234: the bytes at an address land low first: one or
two bytes extended by zeros or sign, 4, 8 and 16 bytes in 1, 2 and 4 registers, all with the tag of the form. R162: a store of bytes
clears each reservation whose granule it touches, but that of the lane that stores. -/
def Obligations.MemoryReadsWhatWasWritten : Prop :=
  (∀ (s : State) (a n v k : Nat) (own : Option (Nat × Nat)), v < 2^(8 * n) →
      readNat (s.store a (bytesOfNat n v) own).mem a n = v ∧
      ((k < a ∨ a + n ≤ k) → readByte (s.store a (bytesOfNat n v) own).mem k = readByte s.mem k) ∧
      (Memory.wf s.mem = true → Memory.wf (s.store a (bytesOfNat n v) own).mem = true)) ∧
  (∀ (m : List Host.Cell) (f : FMg) (tag : BitVec 4) (l a : Nat) (b : Nat → Nat), (∀ k, b k = (readByte m (a + k)).toNat) →
      (f.sz = 0 → loadLands m f (.reg false tag) l a = [.vec l f.r.toNat ⟨BitVec.ofNat 32 (b 0), tag⟩] ∧
        loadLands m f (.reg true tag) l a = [.vec l f.r.toNat ⟨(readByte m a).signExtend 32, tag⟩]) ∧
      (f.sz = 1 → loadLands m f (.reg false tag) l a = [.vec l f.r.toNat ⟨BitVec.ofNat 32 (b 0 + 256 * b 1), tag⟩] ∧
        loadLands m f (.reg true tag) l a = [.vec l f.r.toNat ⟨(BitVec.ofNat 16 (b 0 + 256 * b 1)).signExtend 32, tag⟩]) ∧
      (∀ (x : Bool) (w : Nat → W32), (∀ k, w k = BitVec.ofNat 32 (b (4 * k) + 2^8 * b (4 * k + 1) + 2^16 * b (4 * k + 2) + 2^24 * b (4 * k + 3))) →
        (f.sz = 2 → loadLands m f (.reg x tag) l a = [.vec l f.r.toNat ⟨w 0, tag⟩]) ∧
        (f.sz = 3 → loadLands m f (.reg x tag) l a = [.vec l f.r.toNat ⟨w 0, tag⟩, .vec l (f.r.toNat + 1) ⟨w 1, tag⟩]) ∧
        (f.sz = 4 → loadLands m f (.reg x tag) l a = (List.range 4).map (fun k => .vec l (f.r.toNat + k) ⟨w k, tag⟩)))) ∧
  (∀ (s : State) (a : Nat) (bs : List Byte) (own : Option (Nat × Nat)) (k l r : Nat) (g h : Group), bs ≠ [] → l < g.lanes.length →
      s.isSolstice g.blk = false →
      s.group? k = some g → (s.store a bs own).group? k = some h → (g.lane l).resv = some r →
      (h.lane l).resv = if own ≠ some (k, l) ∧ a < 16 * r + 16 ∧ 16 * r < a + bs.length then none else some r)

/-! ## Tiles and cards -/

/-- R243, R244, R44: TALLOC of a shape that fits binds the handle to a tile of zeros with the rows, bytes, level and tag of the shape;
TFREE unbinds it when no job uses it. Groups and memory stay. R246, R90: TLD loads each active lane's element, TST stores it, the highest
lane last, when every one lies in the tile, its row is free of jobs and its codewords are whole; no other byte of the tile changes. -/
def Obligations.TilesComplete : Prop :=
  (∀ (s : State) (g : Group) (b : Block) (f : FI), s.block? g.blk = some b →
      (∀ fromS x t, Issues s g (.talloc f fromS) → x = (if fromS then g.sreg f.a.toNat else f.imm).toNat → badShape x = false →
        s.tile? g.blk f.d.toNat = none → t = shapeTile x →
        granulesOf t.rows t.rowBytes ≤ (if t.quad then s.freeQuad (s.quadOf g) else s.freeCore (s.coreOf g)) →
        ∃ u h, exec (.talloc f fromS) s = .next u ∧ u.group? s.cur = some h ∧ Rest s u ∧ Advanced g h ∧
          Same (({} : Touches).retire (.talloc f fromS) g) g h ∧ u.tile? g.blk f.d.toNat = some t ∧
          (∀ k, k ≠ f.d.toNat → u.tile? g.blk k = s.tile? g.blk k) ∧ (∀ k, t.byte k = 0) ∧ t.rows = x % 1024 + 1 ∧
          t.rowBytes = 64 * (x / 1024 % 64 + 1) ∧ t.quad = x.testBit 16 ∧ t.tag = BitVec.ofNat 4 (x / 2^17) ∧ t.e2m1 = x.testBit 21) ∧
      (Issues s g (.tfree f) → (s.tile? g.blk f.d.toNat).isSome = true →
        (∀ j ∈ s.jobs, j.2.st ≠ .staged → ∀ r ∈ j.2.reads ++ j.2.writes, r.ofTile g.blk f.d.toNat = false) →
        ∃ u h, exec (.tfree f) s = .next u ∧ u.group? s.cur = some h ∧ Rest s u ∧ Advanced g h ∧ u.tile? g.blk f.d.toNat = none ∧
          (∀ k, k ≠ f.d.toNat → u.tile? g.blk k = s.tile? g.blk k) ∧ Same (({} : Touches).retire (.tfree f) g) g h)) ∧
  (∀ (s : State) (g : Group) (b : Block) (f : FMt) (sz : BitVec 3) (t : Tile), s.block? g.blk = some b → s.tile? g.blk f.th.toNat = some t →
      t.bad = [] →
      (∀ signed m, Issues s g (.tld f sz signed) → actOf g (.tld f sz signed) ≠ 0 → m = tileView t f.th.toNat g →
        (∀ p ∈ tilePlaces f sz t g (actOf g (.tld f sz signed)), p.2.2.2 = true ∧ s.busyRow g f.th.toNat p.2.1 false = false) →
        ComputesPure s g (.tld f sz signed) f.r.toNat (fun l _ => tileRegs sz signed t m (tileOffset f sz t g l).2)) ∧
      (∀ act, Issues s g (.tst f sz) → act = actOf g (.tst f sz) → act ≠ 0 → s.isSolstice g.blk = false →
        (t.tag = tagRAW ∨ szBytes sz < 4 ∨ tagFails g act [{ reg := f.r.toNat, n := szBytes sz / 4, tags := only t.tag }] = 0) →
        (∀ p ∈ tilePlaces f sz t g act, p.2.2.2 = true ∧ s.busyRow g f.th.toNat p.2.1 true = false) →
        ∃ u h v, exec (.tst f sz) s = .next u ∧ u.group? s.cur = some h ∧ Rest s u ∧ Advanced g h ∧ Same (({} : Touches).retire (.tst f sz) g) g h ∧
          u.tile? g.blk f.th.toNat = some v ∧ v.rows = t.rows ∧ v.rowBytes = t.rowBytes ∧ v.tag = t.tag ∧ v.quad = t.quad ∧
          (∀ k, (∀ l ∈ lanesOf act, k < (tileOffset f sz t g l).2 ∨ (tileOffset f sz t g l).2 + szBytes sz ≤ k) → v.byte k = t.byte k) ∧
          (∀ l ∈ lanesOf act, (∀ j ∈ lanesOf act, l < j → (tileOffset f sz t g j).2 + szBytes sz ≤ (tileOffset f sz t g l).2 ∨
              (tileOffset f sz t g l).2 + szBytes sz ≤ (tileOffset f sz t g j).2) →
            v.bytes (tileOffset f sz t g l).2 (szBytes sz) = (regBytes (g.lane l) f.r.toNat (szRegs sz)).take (szBytes sz))))

/-- R248 to R251, R256, R301, R304: the copies with their follow-on command, COLL, the checkpoint cards and GLAUNCH issue their job once
their words, tiles and addresses have passed; a gather or scatter with no active lane only advances (R66; log entry 36). That GLAUNCH
looks at no bit of s(K+1), which R304 says must be 0, is the model's choice (log entry 35). R261 to R263, R266 to R268, R275 to R280: each
Lathe card issues its job once its words and tiles have passed. -/
def Obligations.CardsIssue : Prop :=
  (∀ (s : State) (g : Group) (f : FJ) (c : Card) (k : Option Card),
      (∀ mode nb, cpyCard s g f mode = .ok c → s.followCard g f f.th.toNat = .ok k → Posts s g (.cpy f mode nb) c (cardBar f nb) k) ∧
      (∀ e nb i, (i = .cpyg f e nb ∨ i = .cpys f e nb) → Issues s g i → actOf g i = 0 → Completes s g i {} (fun _ => True)) ∧
      (∀ e nb, actOf g (.cpyg f e nb) ≠ 0 → gatherCard s g (actOf g (.cpyg f e nb)) f false (gatherBytes e) = .ok c → s.followCard g f f.th.toNat = .ok k →
        Posts s g (.cpyg f e nb) c (cardBar f nb) k) ∧
      (∀ e nb, actOf g (.cpys f e nb) ≠ 0 → gatherCard s g (actOf g (.cpys f e nb)) f true (gatherBytes e) = .ok c → s.followCard g f f.th.toNat = .ok k →
        Posts s g (.cpys f e nb) c (cardBar f nb) k) ∧
      (∀ kind op, collCard s g f kind op = .ok c → Posts s g (.coll f kind op) c (some f.cb.toNat) none) ∧
      (∀ nb, ckmarkCard g f = .ok c → Posts s g (.ckmark f nb) c (cardBar f nb) none) ∧
      (∀ nb, ckCard s g f .cksnap true = .ok c → Posts s g (.cksnap f nb) c (cardBar f nb) none) ∧
      (∀ nb, ckCard s g f .ckroll false = .ok c → Posts s g (.ckroll f nb) c (cardBar f nb) none) ∧
      (∀ nb all unmark, ckCard s g f (fun slot snap => .ckdrop slot snap all unmark) false = .ok c →
        Posts s g (.ckdrop f nb all unmark) c (cardBar f nb) none) ∧
      (∀ nb va, va = (g.areg f.ar.toNat).base + (g.sreg f.sc.toNat).signExtend 64 → canonical va = true → va.toNat % 256 = 0 →
        c = (.glaunch va.toNat, [], []) → Posts s g (.glaunch f nb) c (cardBar f nb) none)) ∧
  (∀ (s : State) (g : Group) (f : FJ) (c : Card) (w0 w1 w2 : Nat), w0 = cardWord g f 0 → w1 = cardWord g f 1 → w2 = cardWord g f 2 →
      (mloadbCard s g.blk f.th.toNat w0 w1 false = .ok c → Posts s g (.mloadb f) c none none) ∧
      (mswapCard w0 false = .ok c → Posts s g (.mswap f) c none none) ∧
      (∀ pri nb, mmaCard s g.blk f.th.toNat w0 w1 w2 pri.toNat false = .ok c → Posts s g (.mma f pri nb) c (cardBar f nb) none) ∧
      (cfgCard ((g.areg f.ar.toNat).base + (g.sreg f.sc.toNat).signExtend 64) = .ok c → Posts s g (.autoCfg f) c none none) ∧
      (c = (.autoSeed (g.spair f.sc.toNat) (g.sreg (f.sc.toNat + 2)), [], [.lathe .stream]) → Posts s g (.autoSeed f) c none none) ∧
      (ldxCard s g.blk f.th.toNat w0 = .ok c → Posts s g (.autoLdx f) c none none) ∧
      (∀ train nb, infCard s g.blk f.th.toNat w0 w1 train = .ok c → Posts s g (.autoInf f train nb) c (cardBar f nb) none) ∧
      (fbCard w0 w1 false = .ok c → Posts s g (.autoFb1 f) c none none) ∧
      (fbCard w0 w1 true = .ok c → Posts s g (.autoFb2 f) c none none) ∧
      (∀ nb, rdwrCard s g.blk f.th.toNat w0 w1 false = .ok c → Posts s g (.autoRd f nb) c (cardBar f nb) none) ∧
      (rdwrCard s g.blk f.th.toNat w0 w1 true = .ok c → Posts s g (.autoWr f) c none none))

/-- R248, R249, R263, R266, R268: what a card is: CPY.g2t declares the global bytes that it reads, as virtual addresses (log entry 21),
and the tile rows that it writes; MSWAP writes both panels; MLOADB refuses panel identifier 0 with LATHE_ARG of word 0; MMA with .acc
reads its C rows too. -/
def Obligations.CardsDeclareTheirRegions : Prop :=
  (∀ (s : State) (blk h w1 pitch : Nat) (va : W64) (c : Card), cpyGlobal s blk h w1 pitch va .g2t = .ok c →
    ∃ t, s.tile? blk h = some t ∧ w1 % 1024 + (w1 / 1024 % 1024 + 1) ≤ t.rows ∧
      c.2.1 = memRegion va ((w1 / 1024 % 1024 + 1 - 1) * (if pitch = 0 then t.rowBytes else pitch) + t.rowBytes) ∧
      c.2.2 = [.tile blk h (w1 % 1024) (w1 % 1024 + (w1 / 1024 % 1024 + 1))]) ∧
  (∀ w0 c, mswapCard w0 false = .ok c → .lathe .active ∈ c.2.2 ∧ .lathe .shadow ∈ c.2.2) ∧
  (∀ (s : State) (blk h w0 w1 : Nat), w0 / 65536 % 65536 = 0 → mloadbCard s blk h w0 w1 false = .error { code := 0x1C0, einfo := some 0 }) ∧
  (∀ (s : State) (blk ha w0 w1 w2 pri : Nat) (c : Card), mmaCard s blk ha w0 w1 w2 pri false = .ok c → w0.testBit 9 = true →
    ∀ r ∈ c.2.2, r ∈ c.2.1)

/-- R254, R255, R253, R282: CBINIT starts the next phase of a copy barrier that no job credits; CBARR credits bytes; CBTEST writes
whether the phase is complete; CBWAIT and AUTO.FENCE go on when what they wait for is over, and wait otherwise. -/
def Obligations.CopyBarriers : Prop :=
  ∀ (s : State) (g : Group) (b : Block) (f : FJ) (n : Nat) (c : CopyBar), n = f.cb.toNat → s.block? g.blk = some b → c = b.copyBar n →
    s.isSolstice g.blk = false → g.windows = [] →
    (Issues s g (.cbinit f) → (∀ j ∈ s.jobs, j.2.blk = g.blk → ∀ p, j.2.credit ≠ some (n, p)) →
      (∀ x ∈ s.groups, x.2.blk = g.blk → x.2.st ≠ .waiting (.copy n)) →
      ∃ t h d, exec (.cbinit f) s = .next t ∧ t.group? s.cur = some h ∧ t.block? g.blk = some d ∧ Rest s t ∧ Advanced g h ∧
        Same (({} : Touches).retire (.cbinit f) g) g h ∧
        d.copyBar n = { init := true, phase := c.phase + 1, expect := cardWord g f 0, landed := 0 } ∧ (∀ k, k ≠ n → d.copyBar k = b.copyBar k)) ∧
    (Issues s g (.cbarr f) → c.init = true →
      ∃ t h d, exec (.cbarr f) s = .next t ∧ t.group? s.cur = some h ∧ t.block? g.blk = some d ∧ Rest s t ∧ Advanced g h ∧
        Same (({} : Touches).retire (.cbarr f) g) g h ∧
        d.copyBar n = { c with landed := min (c.landed + cardWord g f 0) (2^32 - 1) } ∧ (∀ k, k ≠ n → d.copyBar k = b.copyBar k)) ∧
    (c.init = true → ComputesPred s g (.cbtest f) f.vo.toNat (fun _ _ => decide (c.expect ≤ c.landed))) ∧
    (Issues s g (.cbwait f) → c.init = true → c.expect ≤ c.landed → Completes s g (.cbwait f) {} (fun h => h.st = g.st)) ∧
    (Issues s g (.cbwait f) → c.init = true → c.landed < c.expect → ∃ t h, exec (.cbwait f) s = .next t ∧ t.group? s.cur = some h ∧
      h.pc = g.pc ∧ h.st = .waiting (.copy n)) ∧
    (Issues s g (.autoFence f) → (∀ j ∈ s.jobs, j.2.gid = s.cur → j.2.kind.lathe = false) →
      Completes s g (.autoFence f) {} (fun h => h.st = g.st)) ∧
    (Issues s g (.autoFence f) → (∃ j ∈ s.jobs, j.2.gid = s.cur ∧ j.2.kind.lathe = true) →
      ∃ t h, exec (.autoFence f) s = .next t ∧ t.group? s.cur = some h ∧ h.pc = g.pc ∧ h.st = .waiting .autoFence) ∧
    (∀ i, (i = .cbarr f ∨ i = .cbwait f) → Issues s g i → c.init = false → Takes s g i { code := 0x140, einfo := some 9 })

/-! ## The system -/

/-- R196, R311, R312, R313, R358, R359, R366, R127: ABIND binds base, frame and limit within the page; MTSR writes EPC by halves, EMASKF
within its mask at entry, the writable bits of FPSTAT, BWDOG, and nothing that is read-only; PMAP writes its status, and a status other
than 0 leaves the machine as it was, while after 0 no cached translation of the page is left; TLBINV removes the cached translations that
it names, drops the limits of the address registers that it names in every group of the partition and in no other, and waits while a
staged access of the partition is left: of any page (the model's choice: log entry 55). -/
def Obligations.SystemFormsComplete : Prop :=
  ∀ (s : State) (g : Group) (b : Block) (f : FS) (hi : Bool) (v : W32), s.block? g.blk = some b → v = g.sreg f.ra.toNat →
    (∀ (f : FA) (base : W64), base = g.spair f.a.toNat → Issues s g (.abind f) → canonical base = true →
      Completes s g (.abind f) { addr := fun r => r = f.d.toNat } (fun h => (h.areg f.d.toNat).base = base ∧
        (∀ pg, s.walk (s.partOf g) base = .page pg → (pg.r || pg.w) = true →
          (h.areg f.d.toNat).limit.toNat = min (g.sreg f.b.toNat).toNat (pg.bytes - base.toNat % pg.bytes) ∧
          (h.areg f.d.toNat).frame = BitVec.ofNat 64 (pg.pp + base.toNat % pg.bytes) ∧ (h.areg f.d.toNat).page = pg.bytes ∧
          (h.areg f.d.toNat).canR = pg.r ∧ (h.areg f.d.toNat).canW = pg.w) ∧
        ((∀ pg, s.walk (s.partOf g) base = .page pg → (pg.r || pg.w) = false) → (h.areg f.d.toNat).limit = 0))) ∧
    (Issues s g (.mtsr f hi) → sysAccess g.supervisor f.num.toNat ≠ .rw → Completes s g (.mtsr f hi) {} (fun _ => True)) ∧
    (Issues s g (.mtsr f hi) → sysAccess g.supervisor f.num.toNat = .rw →
      ∃ t h, exec (.mtsr f hi) s = .next t ∧ t.group? s.cur = some h ∧ Rest s t ∧ Advanced g h ∧
        Same (({} : Touches).retire (.mtsr f hi) g) g { h with epc := g.epc, emaskf := g.emaskf, fpstat := g.fpstat } ∧
        h.epc = (if f.num = 0x000 then (if hi then v ++ g.epc.setWidth 32 else (g.epc >>> 32).setWidth 32 ++ v) else g.epc) ∧
        h.emaskf = (if f.num = 0x003 then v &&& g.emaskIn else g.emaskf) ∧
        h.fpstat = (if f.num = 0x010 then v &&& 0xDFFF else g.fpstat) ∧
        (∃ c, t.block? g.blk = some c ∧ c.bwdog = (if f.num = 0x040 then v else b.bwdog))) ∧
    (∀ p va u st, p = s.partOf g → va = (g.spair f.ra.toNat).toNat → (u, st) = s.pmap p va (f.num.toNat % 4) f.num.toNat →
      Issues s g (.pmap f) →
      ∃ t h, exec (.pmap f) s = .next t ∧ t.group? s.cur = some h ∧ Advanced g h ∧ t.mem = u.mem ∧
        (¬ landsS g f.rd.toNat → h.sreg f.rd.toNat = BitVec.ofNat 32 st) ∧ (t.part p).poolnext = (u.part p).poolnext ∧
        (st ≠ 0 → Completes s g (.pmap f) { scal := fun r => r = f.rd.toNat } (fun _ => True)) ∧
        (st = 0 → ∀ x : W64, va ≤ x.toNat → x.toNat < va + 2^levelShift (f.num.toNat % 4) → t.cachedPage p x = none) ∧
        ((va < (s.part p).ftwbase.toNat ∨ va % 2^levelShift (f.num.toNat % 4) ≠ 0) → st = 3) ∧
        (st = 0 → (t.part p).poolnext.toNat ≤ (s.part p).poolsize.toNat ∧
          (t.part p).poolnext.toNat % 2^levelShift (f.num.toNat % 4) = 0)) ∧
    (∀ k, Issues s g (.tlbinv f k) → s.stagedIn (s.partOf g) = false →
      ∃ t h, exec (.tlbinv f k) s = .next t ∧ t.group? s.cur = some h ∧ Advanced g h ∧ Rest s { t with parts := s.parts } ∧
        (∀ q, t.part q = { s.part q with tlb := if q = s.partOf g then (s.part q).tlb.filter (fun c => !s.invTlb g f k c) else (s.part q).tlb }) ∧
        (∀ va : W64, k = .page → va = g.spair f.ra.toNat → t.cachedPage (s.partOf g) va = none) ∧
        (k = .all → (t.part (s.partOf g)).tlb = []) ∧
        Same ({ ({} : Touches) with addr := fun r => s.invHit g f k (g.areg r) = true }.retire (.tlbinv f k) g) g h ∧
        (∀ r, (h.areg r).base = (g.areg r).base ∧
          (r < 8 → s.invHit g f k (g.areg r) = true → (h.areg r).limit = 0)) ∧
        (∀ j x, j ≠ s.cur → s.group? j = some x → ∃ y, t.group? j = some y ∧
          { y with yielded := false, a := x.a } = { x with yielded := false } ∧ (∀ r, (y.areg r).base = (x.areg r).base) ∧
          (∀ c r, r < 8 → s.block? x.blk = some c → c.part = s.partOf g → s.invHit g f k (x.areg r) = true → (y.areg r).limit = 0) ∧
          (∀ r, (8 ≤ r ∨ s.invHit g f k (x.areg r) = false ∨ ∀ c, s.block? x.blk = some c → c.part ≠ s.partOf g) →
            y.areg r = x.areg r)) ∧
        (∀ j, s.group? j = none → t.group? j = none) ∧
        (∀ j, (t.block? j).map (fun x => { x with retiredCount := 0, compact := none }) =
          (s.block? j).map (fun x => { x with retiredCount := 0, compact := none }))) ∧
    (∀ k, Issues s g (.tlbinv f k) → s.stagedIn (s.partOf g) = true →
      ∃ t h, exec (.tlbinv f k) s = .next t ∧ t.group? s.cur = some h ∧ h.pc = g.pc ∧
        ∀ r, r < 8 → s.invHit g f k (g.areg r) = true → (h.areg r).limit = 0) ∧
    (∀ k (x : AddrReg), x.base.toNat / 2^16 = (g.spair f.ra.toNat).toNat / 2^16 → s.invHit g f k x = true)

/-- R309, R310, R366: TRAP takes its software cause at the next instruction with the active lanes; with none it only advances. ERET with
EMASKF = 0 goes to EPC, 8-byte aligned (R13; log entry 84), with the path, EM and stack entry that entry saved; with lanes unresolved it
terminates the block (R367). -/
def Obligations.TrapsAndReturns : Prop :=
  ∀ (s : State) (g : Group) (f : FS) (act : Lanes), act = actOf g (.trap f) → g.windows = [] →
    (Issues s g (.trap f) → act = 0 → Completes s g (.trap f) {} (fun _ => True)) ∧
    (Issues s g (.trap f) → act ≠ 0 → g.supervisor = false → goodVector (s.hvec g) = true →
      ∃ t h, exec (.trap f) s = .next t ∧ t.group? s.cur = some h ∧ t.mem = s.mem ∧ h.pc = s.hvec g ∧ h.supervisor = true ∧
        h.epc = g.advance.pc ∧ h.ecause.toNat = 0x300 + f.num.toNat ∧ h.emaskf = act ∧ h.path = act ∧ h.em = act ∧ h.hset = act ∧
        (∃ x, h.saved = some x ∧ x.path = g.path ∧ x.em = g.em ∧ x.cur = g.cur ∧ x.pc = g.advance.pc) ∧
        (∀ l r, l < 32 → (h.lane l).reg r = (g.lane l).reg r) ∧ (∀ r, h.sreg r = g.sreg r)) ∧
    (∀ x, Issues s g (.eret f) → g.hseg = [] → g.emaskf = 0 → g.saved = some x → g.serving = none →
      (∀ j ∈ s.jobs, j.2.st ≠ .parked none) →
      ∃ t h, exec (.eret f) s = .next t ∧ t.group? s.cur = some h ∧ Rest s t ∧ h.pc = g.epc &&& ~~~7 ∧ h.path = x.path ∧ h.em = x.em ∧
        h.cur = x.cur ∧ h.supervisor = false ∧ h.saved = none ∧ h.hset = 0 ∧
        (∀ l r, l < 32 → (h.lane l).reg r = (g.lane l).reg r) ∧ (∀ r, h.sreg r = g.sreg r) ∧ h.fpstat = g.fpstat) ∧
    (Issues s g (.eret f) → g.hseg = [] → g.emaskf ≠ 0 → (s.block? g.blk).isSome = true →
      ∃ t, exec (.eret f) s = .next t ∧ ∀ k x, t.group? k = some x → x.blk ≠ g.blk)

/-- R361, R365, R367, R368: a cause taken at user level with a handler saves the path, its PC and the cause's registers, lands every
result, clears the reservations and runs the handler on the cause's lanes at supervisor level; at supervisor level the group halts at the
second fault, its results land and it leaves the Sapwood once no estate fetch is in flight (log entry 108); without a handler its block
ends. -/
def Obligations.CausesAreTaken : Prop :=
  ∀ (s : State) (gid : Nat) (g : Group) (t : Trap) (epc info : W64), s.group? gid = some g →
    (g.supervisor = false → goodVector (s.hvec g) = true →
      ∃ h, s.take gid t epc info = s.setGroup gid h ∧ h.supervisor = true ∧ h.pc = s.hvec g ∧ h.epc = epc ∧
        h.ecause = BitVec.ofNat 32 t.code ∧ h.eaddr = t.eaddr ∧ h.einfo = info ∧ h.elpc = t.elpc ∧ h.windows = [] ∧ h.hseg = [] ∧ h.cur = none ∧
        (∀ m, m = (match t.mask with | some m => m | none => g.path) → h.emaskf = m ∧ h.hset = m ∧ h.path = m ∧ h.em = m) ∧
        h.saved = some { path := g.path, em := g.em, pc := g.pc, cur := g.cur, fair := g.fair } ∧
        (∀ l, (h.lane l).resv = none) ∧ h.occ = g.occ ∧ h.lc = g.lc ∧ h.nest = g.nest ∧
        (∀ l r, l < 32 → ¬ landsV g l r → (h.lane l).reg r = (g.lane l).reg r) ∧ (∀ r, ¬ landsS g r → h.sreg r = g.sreg r) ∧ h.fpstat = g.fpstat) ∧
    (g.supervisor = true → s.dev.attested = true →
      ∃ h, (s.take gid t epc info).group? gid = some h ∧ h.st = .halted ∧ h.pc = epc ∧ h.supervisor = true ∧ h.epc = g.epc ∧ h.ecause = g.ecause ∧
        h.windows = [] ∧ h.latch = [] ∧ (fetchesLanded h = true → h.sapwood = false)) ∧
    (g.supervisor = false → goodVector (s.hvec g) = false → (s.block? g.blk).isSome = true →
      ∀ k x, (s.take gid t epc info).group? k = some x → x.blk ≠ g.blk)

/-- R108, R109, R83, R308: a word that names no instruction takes ILLEGAL_OP, one with a bad field ILLEGAL_FIELD, an ill-paired dual word
ILLEGAL_PAIR, each with the word in EINFO; a fetch takes NONCANON at an address that is not canonical, XLATE_MISS at one without a page,
PROT at a page that may not be executed and MCE_UNCORRECTABLE at a word in error; a supervisor's form at user level takes PRIV. -/
def Obligations.WordsThatDoNotRunTrap : Prop :=
  ∀ (s : State) (g : Group) (w : W64), s.group? s.cur = some g →
    exec (.unassignedEncoding w) s = .next (s.take s.cur { code := 0x001 } g.pc w) ∧
    (assigned w.toNat = false → decode w = .ok (.unassignedEncoding w)) ∧
    (∀ u, u = s.cache (s.partOf g) g.pc →
      (s.fetch g = .ok w → decode w = .error .illegalField → s.fetchReady s.cur g = .over (u.take s.cur { code := 0x002 } g.pc w)) ∧
      (s.fetch g = .ok w → decode w = .error .illegalPair → s.fetchReady s.cur g = .over (u.take s.cur { code := 0x003 } g.pc w)) ∧
      (∀ (code : Nat) (x : W64),
        (canonical g.pc = false ∧ code = 0x044 ∧ x = addrInfo 7 false 3 ∨
          (∃ l mal, canonical g.pc = true ∧ s.walk (s.partOf g) g.pc = .stop l mal ∧ code = 0x040 ∧ x = addrInfo l mal 3) ∨
          (∃ pg, canonical g.pc = true ∧ s.walk (s.partOf g) g.pc = .page pg ∧
            (pg.x = false ∧ code = 0x042 ∧ x = addrInfo 7 false 3 ∨
              pg.x = true ∧ s.isBad (pg.at g.pc) 8 = true ∧ code = 0x280 ∧ x = 8))) →
        s.fetchReady s.cur g = .over (u.take s.cur { code := code, eaddr := g.pc, einfo := some x } g.pc x))) ∧
    (∀ (f : FS) (i : Instr), (i = .eret f ∨ i = .pmap f ∨ (∃ k, i = .tlbinv f k) ∨ (∃ hi, i = .mfsr f hi ∧ f.num = 0x000) ∨
        (∃ hi, i = .mtsr f hi ∧ f.num = 0x040)) →
      g.supervisor = false → (landsAt (s.isSolstice g.blk) i = true → firstLanded (reachOf s g i).due = none) →
      exec i s = .next (((s.clearYields s.cur g).setGroup s.cur ((reachOf s g i).countIssue (s.isSolstice g.blk))).take s.cur
        { code := 0x008, einfo := none } g.pc (encode i)))

/-! ## Nodes, wills, the step -/

/-- R37, R285, R287, R289 to R292, R344: NODEMK of a good descriptor makes a live node at an index that no node had and gives its handle,
or 0 when the partition's limit or the table is full; NODEDEL leaves the handle stale; SPAWN without .b writes whether each lane's record
was accepted, in Solstice mode it stages its records and waits, and every SPAWN takes the cause of its checks; a bin with room takes a
record, numbered in order of acceptance, and a node that has been swapped out takes a slot for it. -/
def Obligations.NodesAndSpawn : Prop :=
  ∀ (s : State) (g : Group) (p : Nat), p = s.partOf g →
    (∀ (f : FMg) (a : Nat) (va : W64) (bs : List Byte), Issues s g (.nodemk f) → va = groupAddr g f →
      s.checkGroup p (g.areg f.ar.toNat) va 64 .load = .ok a → s.busy g va 64 false = false → s.isBad a 64 = false → bs = readBytes (s.view g) a 64 →
      (descFails bs va = none →
        ∃ t h, exec (.nodemk f) s = .next t ∧ t.group? s.cur = some h ∧ Advanced g h ∧ t.mem = s.mem ∧
          Same (({ scal := fun r => r = f.r.toNat } : Touches).retire (.nodemk f) g) g h ∧
          ((s.part p).nodemax ≤ (s.nodes.filter (fun n => n.2.part == p)).length → t.nodes = s.nodes ∧ (¬ landsS g f.r.toNat → h.sreg f.r.toNat = 0)) ∧
          (Config.nodeIndices ≤ s.nodes.length → t.nodes = s.nodes ∧ (¬ landsS g f.r.toNat → h.sreg f.r.toNat = 0)) ∧
          ((s.nodes.filter (fun n => n.2.part == p)).length < (s.part p).nodemax → s.nodes.length < Config.nodeIndices →
            ∃ k n, k < 2^20 ∧ s.node? k = none ∧ t.node? k = some n ∧ n.live = true ∧ n.part = p ∧ 1 ≤ n.gen ∧ n.gen ≤ 4095 ∧ n.bin = [] ∧
              n.accepted = 0 ∧ n.entry = va + BitVec.ofNat 64 (descField bs 0 8) ∧ n.budget = descField bs 8 1 ∧ n.count = descField bs 9 1 ∧
              (¬ landsS g f.r.toNat → h.sreg f.r.toNat = BitVec.ofNat 32 (4096 * k + n.gen)) ∧
              t.liveNode p (BitVec.ofNat 32 (4096 * k + n.gen)) = some n)) ∧
      (∀ o, descFails bs va = some o → Takes s g (.nodemk f) { code := 0x184, einfo := some (BitVec.ofNat 64 o) })) ∧
    (∀ (f : FS) (h : W32), Issues s g (.nodedel f) → h = g.sreg f.ra.toNat →
      (s.liveNode p h = none → Takes s g (.nodedel f) { code := 0x181, einfo := some (h.setWidth 64) }) ∧
      (∀ n, s.liveNode p h = some n → n.remote = [] →
        ∃ t x, exec (.nodedel f) s = .next t ∧ t.group? s.cur = some x ∧ Advanced g x ∧ Same (({} : Touches).retire (.nodedel f) g) g x ∧
          t.mem = s.mem ∧ t.liveNode p h = none ∧ (∀ k, k ≠ nodeIndex h → t.node? k = s.node? k) ∧
          (n.bin ≠ [] → t.node? (nodeIndex h) = some { n with live := false, remote := [] }))) ∧
    (∀ (f : FA) (b o away : Bool) (aj : BitVec 3) (j : Bool) (k : Group) (act : Lanes), Issues s g (.spawn f b o away aj j) →
      k = reachOf s g (.spawn f b o away aj j) → act = k.active (useOf (.spawn f b o away aj j)).guard →
      (act = 0 → Completes s g (.spawn f b o away aj j) {} (fun _ => True)) ∧
      (∀ c, act ≠ 0 → s.spawnChecks k act f o away aj j = .error c → Takes s g (.spawn f b o away aj j) c) ∧
      (∀ rs, act ≠ 0 → s.spawnChecks k act f o away aj j = .ok rs → s.isSolstice g.blk = true →
        ∃ t h, exec (.spawn f b o away aj j) s = .next t ∧ t.group? s.cur = some h ∧ Rest s t ∧ h.pc = g.pc ∧ h.path = g.path ∧ h.windows = [] ∧
          h.st = .waiting (.spawn (released (useOf (.spawn f b o away aj j)))) ∧ h.quantumDone = true ∧
          h.staged = g.staged ++ [.spawn (if b then none else some (f.d.toNat % 8)) away rs]) ∧
      (∀ rs, act ≠ 0 → s.spawnChecks g act f o away aj j = .ok rs → s.isSolstice g.blk = false → b = false → away = true →
        Completes s g (.spawn f b o away aj j) { pred := fun l q => act.getLsbD l ∧ q = f.d.toNat % 8 } (fun _ => True)) ∧
      (∀ rs, act ≠ 0 → s.spawnChecks g act f o away aj j = .ok rs → s.isSolstice g.blk = false → b = false → away = false → s.cur < s.ticks →
        ∃ t h, exec (.spawn f b o away aj j) s = .next t ∧ t.group? s.cur = some h ∧ Advanced g h ∧
          Same (({ pred := fun l q => act.getLsbD l ∧ q = f.d.toNat % 8, resv := fun _ => True } : Touches).retire (.spawn f b o away aj j) g) g h ∧
          (∀ l, l < 32 → act.getLsbD l → f.d.toNat % 8 ≠ 0 → ¬ landsP g l (f.d.toNat % 8) →
            (h.lane l).pred (f.d.toNat % 8) = !((s.setGroup s.cur g).offerAll ((s.setGroup s.cur g).offers rs (fun _ => none))).2.getLsbD l))) ∧
    (∀ (k : Nat) (n : Node) (r : Held), s.node? k = some n → n.inSlot = true →
      (n.swapped = false → s.nodeAway n = false → s.binRoom n = true → ∃ t, s.offer k r false = some t ∧ t.mem = s.mem ∧
        t.node? k = some { n with bin := n.bin ++ [{ r with serial := n.accepted }], accepted := n.accepted + 1, lastUse := s.ticks, timerOn := true }) ∧
      (n.swapped = true ∨ s.nodeAway n = true ∨ s.binRoom n = false → n.hasOvf = false → s.offer k r false = none)) ∧
    (∀ (k : Nat) (n : Node) (r : Held), s.node? k = some n → n.inSlot = false → n.swapped = true → n.swaps = [] → r.batch = none →
      s.nodeAway n = false → s.binRoom n = true →
      ((s.slotted n.homeQuad).length < Config.nodeSlots ∨ ∃ x ∈ s.slotted n.homeQuad, x.2.bin = []) →
      ∃ t, s.offer k r false = some t ∧ t.mem = s.mem ∧ t.node? k = some { n with
        inSlot := true, swapped := false, bin := n.bin ++ [{ r with serial := n.accepted }], accepted := n.accepted + 1, lastUse := s.ticks
        timerOn := true })

/-- R31, R36, R297, R298: ESTW declares the will of every active lane when the kernel's table names its tag, and takes 0x185 otherwise;
ESTF takes wills away; EXIT of a lane whose will has a tag and key that its launch has given before takes 0x182 and gives nothing. R31,
R32, R192, R327: EXIT of a lane with another will captures its registers within the budget in a slot of its core; of none, nothing. R36,
R48, R328: a block that retires makes its captured will an estate, entered in the directory; an unclaimed estate of another launch with
its tag and key goes. R35, R300, R336: an estate that its lifetime's last launch leaves is written to the giver's spill region with REASON
1, or discarded, and counted by that launch. R33, R34, R299, R332: a work-item inherits the estate that has its key and an heir's tag of
its stream within the lifetime: in place on the estate's core, behind fetches elsewhere; a claimed one is lost to it; its ESTQ word says
which. A block born on the core of the one estate it finds consumes it. (That a launch whose lifetime's end has finished makes its estate
expire at once is log entry 97, and is shut out here.) -/
def Obligations.WillsAreDeclared : Prop :=
  (∀ (s : State) (g : Group) (f : FC) (b : Block) (la : Launch) (lid l : Nat) (w : Will) (act : Lanes), Issues s g (.exit f) →
    act = actOf g (.exit f) → lanesOf act = [l] → s.block? g.blk = some b → b.launch = some lid → s.launch? lid = some la → b.solstice = false →
    g.supervisor = false → g.windows = [] → s.ownEntries s.cur g = [] → g.cur = none → act &&& ~~~g.occ = 0 → g.path &&& ~~~g.occ = 0 →
    g.path &&& ~~~act ≠ 0 → (g.lane l).will = some w → (g.lane l).pend = [] → (g.lane l).badRegs = [] →
    (∀ k, (k, w.tag, (g.lane l).wid) ∉ la.willed) →
    ((s.estatesOn b.core).length % 8 ≠ 0 ∨
      s.reservedBlocks b.core + (s.estatesOn b.core).length / 8 < Config.heartwoodBlocks - Config.nodeReserve) →
    ∃ t h, exec (.exit f) s = .next t ∧ t.group? s.cur = some h ∧ t.mem = s.mem ∧ h.occ = g.occ &&& ~~~act ∧
      (8 * g.budget ≤ w.first ∨ w.count = 0 → t.estates = s.estates) ∧
      (w.first < 8 * g.budget → 0 < w.count → ∃ e, t.estates = s.estates ++ [e] ∧ e.captured = true ∧ e.claimed = false ∧ e.tag = w.tag ∧
        e.wid = (g.lane l).wid ∧ e.life = w.life ∧ e.part = b.part ∧ e.core = b.core ∧ e.launch = lid ∧ e.blk = g.blk ∧ e.vf = la.vf ∧
        e.stream = la.stream ∧ e.estgen = la.seq ∧ e.order = s.nextWill ∧ t.nextWill = s.nextWill + 1 ∧
        ∀ r x, (r, x) ∈ e.regs ↔ w.first ≤ r ∧ r < w.first + w.count ∧ r < 8 * g.budget ∧ x = (g.lane l).reg r)) ∧
  (∀ (s : State) (bid lid : Nat) (r : Block) (la : Launch) (e : Estate) (older : List Estate), s.block? bid = some r → r.gone = false →
    r.launch = some lid → e.launch = lid → s.launch? lid = some la → la.unplaced ≠ [] → s.liveGroups bid = [] →
    (∀ x ∈ s.groups, x.2.blk = bid → x.2.staged = []) → (∀ j ∈ s.jobs, j.2.blk ≠ bid) → r.later = [] →
    s.estates.filter (fun x => x.captured && x.blk == bid) = [e] → (∀ x ∈ s.estates, x.order = e.order → x = e) →
    older = s.estates.filter (fun x => (!x.captured || x.claimed) && decide (x.part = e.part ∧ x.tag = e.tag ∧ x.wid = e.wid)) →
    (∀ x ∈ s.launches, x.2.finished = false) → (s.sliceEntries e).length < Config.directoryEntries →
    (older = [] → ∃ y, (s.retireBlock bid).launch? lid = some y ∧ y.made = la.made + 1 ∧ y.live = la.live - 1 ∧
      (s.retireBlock bid).mem = s.mem ∧ (∀ x ∈ (s.retireBlock bid).groups, x.2.blk ≠ bid) ∧ (s.retireBlock bid).estates =
        s.estates.map (fun x => if x.order = e.order then { x with captured := false, waits := false } else x)) ∧
    (∀ o, older = [o] → o.claimed = false → o.launch ≠ lid → (∀ x ∈ s.estates, x.order = o.order → x = o) → s.launch? o.launch = none →
      (s.retireBlock bid).mem = s.mem ∧ (s.retireBlock bid).estates = (s.estates.filter (fun x => x.order != o.order)).map
        (fun x => if x.order = e.order then { x with captured := false, waits := false } else x))) ∧
  (∀ (s : State) (l : Nat) (r gl : Launch) (e : Estate) (va : W64) (pg : Page), s.launch? l = some r → e.launch ≠ l → s.launch? e.launch = some gl →
    s.estates.filter (fun x => !x.captured && !x.claimed && decide (x.part = r.part ∧ x.vf = r.vf ∧ x.stream = r.stream ∧ x.launch < l ∧
      r.seq = x.estgen + BitVec.ofNat 32 x.life)) = [e] → va = gl.spillBase + BitVec.ofNat 64 gl.spillNext →
    (s.expire l r).estates = s.estates.filter (fun x => x.order != e.order) ∧
    (gl.spillSize < gl.spillNext + 128 → (s.expire l r).mem = s.mem ∧
      (s.expire l r).launch? l = some { r with discarded := r.discarded + 1 }) ∧
    (gl.spillNext + 128 ≤ gl.spillSize → canonical va = true → s.walk gl.part va = .page pg → pg.w = true → va.toNat % pg.bytes + 128 ≤ pg.bytes →
      s.isBadPart (pg.at va) 128 = false → (s.expire l r).launch? l = some { r with spilled := r.spilled + 1 } ∧
      (s.expire l r).launch? e.launch = some { gl with spillNext := gl.spillNext + 128 } ∧
      (∀ k, k < pg.at va ∨ pg.at va + 128 ≤ k → readByte (s.expire l r).mem k = readByte s.mem k) ∧
      readNat (s.expire l r).mem (pg.at va) 8 = e.wid.toNat ∧ readNat (s.expire l r).mem (pg.at va + 8) 2 = e.tag.toNat ∧
      readNat (s.expire l r).mem (pg.at va + 11) 1 = 1 ∧ readNat (s.expire l r).mem (pg.at va + 12) 4 = e.estgen.toNat ∧
      (e.regs.length ≤ 16 → readNat (s.expire l r).mem (pg.at va + 10) 1 = e.regs.length ∧
        ∀ k n x, e.regs[k]? = some (n, x) → n < 256 → readNat (s.expire l r).mem (pg.at va + 16 + k) 1 = n ∧
          readNat (s.expire l r).mem (pg.at va + 32 + k) 1 = x.tag.toNat ∧
          readNat (s.expire l r).mem (pg.at va + 48 + 4 * k) 4 = x.val.toNat))) ∧
  (∀ (s : State) (l i c top k n : Nat) (r : Launch) (tag : BitVec 16) (key : W64) (es : List Estate) (x : Lane) (t : State),
    s.launch? l = some r → n < 8 → tag = r.heirs.getD n 0 → tag ≠ 0 → (∀ m, m < 8 → m ≠ n → r.heirs.getD m 0 = 0) → key = r.key i k →
    (tag, key) ∉ r.took → r.solstice = false →
    es = s.estates.filter (fun e => !e.captured && !e.waits && e.slice.isNone && decide (e.part = r.part ∧ e.vf = r.vf ∧ e.stream = r.stream ∧
      e.tag = tag ∧ e.wid = key ∧ 1 ≤ (r.seq - e.estgen).toNat ∧ (r.seq - e.estgen).toNat ≤ e.life)) →
    (t, x) = s.bearItem l i c top k →
    x.wid = key ∧ x.key = r.seed ^^^ key ∧
    (es = [] → t = s ∧ x.pend = [] ∧ (∀ q, x.reg q = Reg.zero) ∧ Sparse.get 0 x.estq n = BitVec.ofNat 32 (65536 * tag.toNat)) ∧
    (∀ e, e ∈ es → e.claimed = true → t = s ∧ x.pend = [] ∧ (∀ q, x.reg q = Reg.zero) ∧
      Sparse.get 0 x.estq n = BitVec.ofNat 32 (65536 * tag.toNat + 4)) ∧
    (∀ e got, es = [e] → e.claimed = false → (e.regs.map (·.1)).Nodup → got = (e.regs.filter (fun y => decide (y.1 < top))).length → got ≤ 16 →
      Sparse.get 0 x.estq n = BitVec.ofNat 32 (65536 * tag.toNat + 256 * got + if got = e.regs.length then 1 else 2) ∧
      (t.launch? l).map (·.inherited) = some (r.inherited + 1) ∧ t.mem = s.mem ∧
      (e.core = c → t.estates = s.estates.filter (fun y => y.order != e.order) ∧ x.pend = [] ∧
        ∀ q, x.reg q = if 0 < q ∧ q < top then Sparse.get Reg.zero e.regs q else Reg.zero) ∧
      (e.core ≠ c → t.estates = s.estates.map (fun y => if y.order = e.order then { y with claimed := true } else y) ∧
        (∀ q, x.reg q = Reg.zero) ∧ ∀ q v, (q, v) ∈ e.regs → q < top → { reg := q, val := v } ∈ x.pend))) ∧
  (∀ (s : State) (l c k : Nat) (r : Launch) (ro : Role) (e : Estate), s.launch? l = some r → r.started = true → r.finished = false →
    s.partActive r.part = true → (partCores s.dev r.part).contains c = true → r.held = [] → r.nextBlk < r.hi → r.affinity ≠ 0 →
    r.groups = [(k, ro)] → s.estates = [e] → e.core = c → s.blockEstates r r.nextBlk = [e] →
    s.eligible r.part c 1 r.need [e.order] = true → r.need ≤ s.heartRoom c 1 → s.onChip r.part = true → r.wsize ≤ 32 → r.heirs.length ≤ 8 →
    ∃ t g, exec (.blockPlacement l c) s = .next t ∧ t.estates = [] ∧ t.mem = s.mem ∧ t.group? (s.ticks + 1) = some g ∧
      (t.launch? l).map (·.inherited) = some (r.inherited + 1) ∧
      ∀ i q v, i < r.wsize → r.key r.nextBlk i = e.wid → (∀ j, j < r.wsize → r.key r.nextBlk j = e.wid → j = i) →
        (e.regs.map (·.1)).Nodup → (q, v) ∈ e.regs → 0 < q → q < 8 * ro.budget → (g.lane i).reg q = v) ∧
  ∀ (s : State) (g : Group),
    (∀ (f : FS) (hi : BitVec 4) (act : Lanes), Issues s g (.estw f hi) → act = actOf g (.estw f hi) →
      (act = 0 ∨ (s.blockOf g).willTags.contains (hi ++ f.num) = true →
        Completes s g (.estw f hi) { will := fun l => act.getLsbD l } (fun h => ∀ l, l < 32 → act.getLsbD l →
          (h.lane l).will = some { tag := hi ++ f.num, life := f.rd.toNat / 16, first := f.ra.toNat, count := f.rd.toNat % 16 + 1 })) ∧
      (act ≠ 0 → (s.blockOf g).willTags.contains (hi ++ f.num) = false →
        Takes s g (.estw f hi) { code := 0x185, einfo := some ((hi ++ f.num).setWidth 64) })) ∧
    (∀ (f : FS), Issues s g (.estf f) → Completes s g (.estf f) { will := fun l => (actOf g (.estf f)).getLsbD l } (fun h =>
      ∀ l, l < 32 → (actOf g (.estf f)).getLsbD l → (h.lane l).will = none)) ∧
    (∀ (f : FS), Instr.wf (.estf f) = true → opcOf (encode (.estf f)).toNat = 0xF1 ∧ f.rd = 0 ∧ f.ra = 0 ∧ f.num = 0) ∧
    (∀ (f : FC) (b : Block) (la : Launch) (lid l : Nat) (w : Will), Issues s g (.exit f) → s.block? g.blk = some b →
      b.launch = some lid → s.launch? lid = some la → b.solstice = false → g.windows = [] →
      lanesOf (actOf g (.exit f)) = [l] → (g.lane l).will = some w → (g.lane l).pend = [] → (g.lane l).badRegs = [] →
      (∃ k, (k, w.tag, (g.lane l).wid) ∈ la.willed) →
      Takes s g (.exit f) { code := 0x182, mask := some (maskOf (fun k => k == l)), einfo := some (BitVec.ofNat 64 w.tag.toNat) })

/-- R45, R108, R186, R364: a step of a group that may issue, with nothing due, runs the word at its PC: `exec` of the instruction that it
decodes to, once the TLBs have cached the pages of the word and of its accesses (R356; log entry 103). What the agenda lists acts first
(the model's choice: log entry 2). -/
def Obligations.StepRunsDecoded : Prop :=
  (∀ (s u : State) (g h : Group) (pg : Page) (i : Instr), s.agenda = [] → s.group? s.cur = some g → g.st = .active → s.partRuns g = true →
    g.yielded = false → s.quantumUsed g = false → u = s.settleGroup s.cur → u.group? s.cur = some h → h.st = .active → h.due = [] →
    (h.fair < Config.fairness ∨ h.windows ≠ [] ∧ u.deferredPaths u.cur h ≠ []) → canonical h.pc = true → u.walk (u.partOf h) h.pc = .page pg → pg.x = true →
    u.isBad (pg.at h.pc) 8 = false → decode (BitVec.ofNat 64 (readNat u.mem (pg.at h.pc) 8)) = .ok i →
    ∃ v, step s = exec i v ∧ v = (u.cache (u.partOf h) h.pc).translate h i ∧ v = { u with parts := v.parts } ∧
      ∀ p, { v.part p with tlb := [] } = { u.part p with tlb := [] }) ∧
  (∀ (s : State) (g : Nat) (i : Instr) (r : List Turn),
    (s.agenda = .event i :: r → step s = exec i { s with agenda := r }) ∧
    (s.agenda = .group g :: r → step s = turn { s with agenda := r } g) ∧ (s.agenda = [] → step s = turn s s.cur) ∧
    (∀ x, s.agenda = .upset x :: r → step s = .next (({ s with agenda := r }).strike x)) ∧
    (∀ x, s.agenda = .lost x :: r → step s = .next (({ s with agenda := r }).lose x)) ∧
    (∀ x, s.agenda = .order x :: r → step s = .next (({ s with agenda := r }).obey x)))

/-- R82, R84 to R90, R92, R93: words of each format decode to their instruction (the words of the spec's worked examples), and the
decoder refuses a bad opcode, a bad field and a bad pair by name. -/
def Obligations.WordsDecode : Prop :=
  decode 0x2180202830000000 = .ok (.iadd (.a ⟨⟨0, false⟩, 4, 5, 6, 0, 0, 0, 0, false, false, false⟩) .s32 false) ∧
  decode 0x21B8202830000200 = .ok (.iadd (.a ⟨⟨3, true⟩, 4, 5, 6, 0, 0, 0, 0, false, true, false⟩) .s32 false) ∧
  decode 0x4180404850584800 = .ok (.ffma ⟨⟨0, false⟩, 8, 9, 10, 11, 0, 2, 1, false, false, false⟩ { ftz := false, rm := .rn, ty := .f32 }) ∧
  decode 0x2200202FFFFFFFE8 = .ok (.iadd (.i ⟨⟨0, false⟩, 4, 5, 0xFFFFFFFD, false⟩) .s32 false) ∧
  decode 0x0087FFFFFFE80000 = .ok (.bra ⟨⟨0, false⟩, 0xFFFFFFFD, 0, 0⟩) ∧
  decode 0xC10204000C101C00 = .ok (.dualWord true (.r .iadd .m0 1 2 0) (.r .and .m0 4 7 0)) ∧
  decode 0x5800420300813443 = .ok (.ld { g := ⟨0, false⟩, r := 8, ar := 2, vo := 3, disp := 16, la := 2, scope := 3, ord := 1, lrv := false
                                         lro := false, sz := 2 } (.reg false 3)) ∧
  decode 0x5E00888002081000 = .ok (.cpy { g := ⟨0, false⟩, cb := 1, th := 4, ar := 2, vo := 0, sc := 8, scope := 1, stg := 0, stgv := false
                                          follow := 2 } .g2t false) ∧
  decode 0x758010204060005A = .ok (.spawn ⟨⟨0, false⟩, 2, 4, 8, 12, 0, 0, 0, false, false, false⟩ false true false 3 true) ∧
  decode 0x7781982018800000 = .ok (.estw { g := ⟨0, false⟩, rd := 0x33, ra := 4, num := 0x31 } 0) ∧
  decode 0xFF80000000000000 = .ok (.unassignedEncoding 0xFF80000000000000) ∧
  decode 0x2180202830001800 = .error .illegalField ∧ decode 0x8102040002101800 = .error .illegalPair

/-- R84 to R93, R102: decoding the words of a well-formed instruction gives it back, with every operand at every value: no bit of an
encoding is dropped. An instruction without a word (an event) and a word that names no instruction stand apart. -/
def Obligations.DecodeEncode : Prop :=
  ∀ i : Instr, Instr.wf i = true → Instr.isEvent i = false → Instr.pairs i = true →
    (∀ w, i = .unassignedEncoding w → assigned w.toNat = false) → decode (encode i) = .ok i

/-- R334, R357, R398, R402, R408, R414, R415: after a device reset the life cycle is COLD, every store is wiped and nothing is resident; the
per-partition, translation, layout and stream registers hold their reset values, the journal is DONE with SEQ and ERR 0, no quad and no
memory block has an owner. That wiped memory reads as 0 (log entry 12) and that every interface is unlocked (log entry 7) is the model's
choice. -/
def Obligations.ResetState : Prop :=
  State.reset.dev.life = .cold ∧ State.reset.dev.go = false ∧ State.reset.dev.journal = .done ∧ State.reset.dev.jseq = 0 ∧
    State.reset.dev.jerr = 0 ∧ State.reset.dev.lviol = 0 ∧ State.reset.dev.capto = 1000 ∧
    (∀ a, readByte State.reset.mem a = 0) ∧ State.reset.badCw = [] ∧ State.reset.groups = [] ∧ State.reset.blocks = [] ∧
    State.reset.jobs = [] ∧ State.reset.launches = [] ∧ State.reset.walkers = [] ∧ State.reset.nodes = [] ∧ State.reset.estates = [] ∧
    Memory.wf State.reset.mem = true ∧ (∀ v, (State.reset.vf v).tdisp = .unlocked) ∧
    (∀ d k, d = State.reset.dev → Sparse.get 0 d.cm k = 0 ∧ Sparse.get 0 d.scm k = 0 ∧ ownerOf d k = 0xFF ∧ Sparse.get 0xFF d.spown k = 0xFF ∧
      bmapEntry d k = 0xFF ∧ Sparse.get 0xFF d.sbmap k = 0xFF) ∧
    (∀ v n r, r = State.reset.stream v n → r.base = 0 ∧ r.size = 0 ∧ r.tail = 0 ∧ r.head = 0) ∧
    (∀ p r, r = State.reset.part p → r.savebase = 0 ∧ r.drbase = 0 ∧ r.drsize = 0 ∧ r.drnext = 0 ∧ r.drlost = 0 ∧ r.hostmem = true ∧
      r.rank = 0 ∧ r.bmin = 0 ∧ r.qmin = 2 ∧ r.hvec = 0 ∧ r.wdogdef = 0 ∧ r.nodemax = 16384 ∧ r.troot = 0 ∧ r.ftwbase = 0 ∧ r.ftwsize = 0 ∧
      r.poolbase = 0 ∧ r.poolsize = 0 ∧ r.poolnext = 0 ∧ r.tlbsd = false)

/-- Every step keeps memory in its canonical form: addresses strictly rising, no byte listed that reads as an unlisted one (the
model's own form: log entry 12). -/
def Obligations.StepKeepsMemoryCanonical : Prop :=
  ∀ s t : State, Memory.wf s.mem = true → step s = .next t → Memory.wf t.mem = true

/-! ## What happens between instructions -/

/-- R54, R95, R97, R172, R361, R364 to R366, R368: results whose window has closed land, and nothing else; the first due cause by rank is
taken at the boundary, and what else is due then counts as due since the handler's entry (log entry 85), in a handler only the error of a
landed result, a double fault; the watchdog's cause falls due in every group of a block outside Solstice mode that is active, parked or
waiting (in Solstice mode it counts instructions at quantum ends: log entry 57); the fairness timer exchanges the running path with the
deferred one. -/
def Obligations.TimersAndLandings : Prop :=
  ∀ (s : State) (gid : Nat) (g : Group), s.group? gid = some g →
    (∃ h, exec (.resultLands gid) s = .next (s.setGroup gid h) ∧ h.windows = g.windows.filter (fun w => w.left != 0) ∧ h.pc = g.pc ∧
      h.st = g.st ∧ h.path = g.path ∧ h.occ = g.occ ∧
      (∀ l r, l < 32 → (∀ w ∈ g.windows, w.left = 0 → ∀ x, Landing.vec l r x ∉ w.lands) → (h.lane l).reg r = (g.lane l).reg r) ∧
      (∀ r, (∀ w ∈ g.windows, w.left = 0 → ∀ x, Landing.scalar r x ∉ w.lands) → h.sreg r = g.sreg r) ∧
      (∀ w, g.windows.filter (fun w => w.left == 0) = [w] → w.bad = none →
        (∀ l r x, l < 32 → r ≠ 0 → Landing.vec l r x ∈ w.lands → (∀ y, Landing.vec l r y ∈ w.lands → y = x) → (h.lane l).reg r = x) ∧
        (∀ l p b, l < 32 → p ≠ 0 → p < 8 → Landing.pred l p b ∈ w.lands → (∀ c, Landing.pred l p c ∈ w.lands → c = b) →
          (h.lane l).pred p = b))) ∧
    (∀ d rest, s.partRuns g = true → g.supervisor = false → g.canTake = true → g.st = .active → firstDue g.due = some (d, rest) → goodVector (s.hvec g) = true →
      (∀ e ∈ g.due, d.kind.rank ≤ e.kind.rank) ∧
      ∃ t h, exec (.causeDelivery gid) s = .next t ∧ t.group? gid = some h ∧ t.mem = s.mem ∧ (∀ k, k ≠ gid → t.group? k = s.group? k) ∧
        h.supervisor = true ∧ h.pc = s.hvec g ∧ h.epc = g.pc ∧ h.ecause = BitVec.ofNat 32 d.code ∧ h.eaddr = d.eaddr ∧ h.einfo = d.einfo ∧
        h.elpc = d.elpc ∧ h.emaskf = d.mask.getD g.path ∧ h.path = d.mask.getD g.path ∧ h.serving = d.job ∧
        (g.windows = [] → h.due = rest.map Due.entering ∧ ∀ l r, l < 32 → (h.lane l).reg r = (g.lane l).reg r)) ∧
    (g.canTake = false → exec (.causeDelivery gid) s = .next s) ∧
    (g.supervisor = true → (∀ d ∈ g.due, d.kind ≠ .landed) → g.canTake = false) ∧
    (∀ d rest, s.partRuns g = true → g.supervisor = true → g.st = .active → firstLanded g.due = some (d, rest) → s.dev.attested = true →
      d.kind = .landed ∧ ∃ t h, exec (.causeDelivery gid) s = .next t ∧ t.group? gid = some h ∧ h.st = .halted ∧ h.pc = g.pc ∧
        h.supervisor = true ∧ h.epc = g.epc ∧ h.ecause = g.ecause ∧ (g.windows = [] → h.due = rest)) ∧
    (∀ b, s.block? g.blk = some b → b.bwdog ≠ 0 → b.solstice = false → b.gone = false → b.detached = none → s.dev.life ≠ .cold → (s.part b.part).st = .running →
      ∃ t, exec (.blockWatchdogExpiry g.blk) s = .next t ∧ Rest s t ∧ (∀ k, t.block? k = s.block? k) ∧
        (∀ k x, s.group? k = some x →
          (x.blk = g.blk → (x.st = .active ∨ x.st = .parked ∨ ∃ w, x.st = .waiting w) →
            t.group? k = some { x with due := x.due ++ [{ kind := .watchdog, code := 0x141 }] }) ∧
          (x.blk ≠ g.blk ∨ x.st = .halted ∨ x.st = .retired ∨ (∃ w, x.st = .saved w) → t.group? k = some x))) ∧
    (∀ b, s.block? g.blk = some b → b.bwdog = 0 ∨ b.solstice = true → exec (.blockWatchdogExpiry g.blk) s = .next s) ∧
    (∀ e, g.st = .active → s.partRuns g = true → Config.fairness ≤ g.fair → g.windows = [] → g.supervisor = false →
      s.ownEntries gid g = [e] → g.cur = some e.id → e.defl ≠ 0 → e.defl &&& ~~~e.full = 0 → e.dpc ≠ e.rpc → g.path ≠ 0 →
      ∃ t h x, exec (.fairnessTimerExpiry gid) s = .next t ∧ t.group? gid = some h ∧ Rest s t ∧ h.path = e.defl ∧ h.em = e.den ∧ h.pc = e.dpc ∧
        h.fair = 0 ∧ h.switches = g.switches + 1 ∧ t.ownEntries gid h = [x] ∧ x.defl = g.path ∧ x.den = g.em ∧ x.dpc = g.pc ∧
        x.wait = e.wait ∧ x.rpc = e.rpc ∧ (∀ l, h.lane l = g.lane l) ∧ (∀ r, h.sreg r = g.sreg r)) ∧
    (g.fair < Config.fairness → exec (.fairnessTimerExpiry gid) s = .next s)

/-- R30, R45, R46, R295, R315, R319, R321 to R323, R332, R350: a context that is needed enters the Sapwood in its turn when it has room,
and takes of the reserve only what the ordinary room lacks; another that is not reserve-eligible makes room for it (which one: log entry
87); a move that an open window holds up falls due; a context that is reserve-eligible stays. A register whose fetch lands holds the
estate's value, or is in error; a JWAIT that reads 0 ends its wait, and a group in JWAIT or HALTED leaves the Sapwood with its last fetch
(log entry 108). That a context of Solstice mode moves only where no window is open, so that no move of one falls due, is the model's
choice (log entry 89). -/
def Obligations.ContextsMove : Prop :=
  ∀ (s : State) (gid : Nat) (g : Group), s.group? gid = some g →
    (s.partRuns g = false → exec (.contextMove gid) s = .next s) ∧
    (s.partRuns g = true → g.wantsIn = true → g.movable = true →
      (∀ x ∈ s.onCore (s.coreOf g), s.goesFirst gid g x = false) →
      (∀ seat, s.seatFor (s.coreOf g) g.budget (decide (s.rankOf gid g < 4)) = some seat →
        exec (.contextMove gid) s = .next (s.seatIn gid seat) ∧ (s.seatIn gid seat).group? gid =
          some { g with st := (if g.st = .parked then .active else g.st), sapwood := true, resBlocks := seat.1, resSlot := seat.2, since := s.ticks }) ∧
      (∀ k v, s.seatFor (s.coreOf g) g.budget (decide (s.rankOf gid g < 4)) = none →
        s.victim (s.coreOf g) gid (s.rankOf gid g) = some (k, v) →
        (v.movable = false → s.isSolstice v.blk = false → exec (.contextMove gid) s = .next (s.setGroup k { v with moveDue := true })) ∧
        (∀ seat, v.movable = true → (s.moveOut k v).seatFor ((s.moveOut k v).coreOf g) g.budget (decide (s.rankOf gid g < 4)) = some seat →
          exec (.contextMove gid) s = .next ((s.moveOut k v).seatIn gid seat))) ∧
      (s.seatFor (s.coreOf g) g.budget (decide (s.rankOf gid g < 4)) = none → s.victim (s.coreOf g) gid (s.rankOf gid g) = none →
        exec (.contextMove gid) s = .next s)) ∧
    (g.wantsIn = true → (g.movable = false ∨ ∃ x ∈ s.onCore (s.coreOf g), s.goesFirst gid g x = true) →
      exec (.contextMove gid) s = .next s) ∧
    (s.partRuns g = true → g.wantsIn = false → g.inSapwood = true →
      (s.rankOf gid g < 4 → exec (.contextMove gid) s = .next s) ∧
      (s.rankOf gid g = 4 → g.movable = true → s.isSolstice g.blk = false →
        ∃ t h, exec (.contextMove gid) s = .next t ∧ t.group? gid = some h ∧ Rest s t ∧ (∀ k, k ≠ gid → t.group? k = s.group? k) ∧
          h.st = (if g.st = .active then .parked else g.st) ∧ h.sapwood = false ∧ h.resBlocks = 0 ∧ h.resSlot = false ∧ h.pc = g.pc ∧
          h.path = g.path ∧ h.em = g.em ∧ h.budget = g.budget ∧ h.latch = [] ∧ (∀ l, (h.lane l).resv = none) ∧
          (∀ l r, (h.lane l).reg r = (g.lane l).reg r) ∧ (∀ r, h.sreg r = g.sreg r) ∧ h.fpstat = g.fpstat) ∧
      (s.rankOf gid g = 4 → g.movable = false → exec (.contextMove gid) s =
        .next (if s.isSolstice g.blk then s else s.setGroup gid { g with moveDue := true }))) ∧
    (∀ c n el r x, s.seatFor c n el = some (r, x) →
      (s.ordinaryUsed c ≤ 248 → s.ordinaryUsed c + (n - r) ≤ 248) ∧
      (0 < r → el = true ∧ ((s.seated c).map (fun y => y.2.resBlocks)).sum + r ≤ 8) ∧
      (if x then el = true ∧ ∀ y ∈ s.seated c, y.2.resSlot = false else ((s.seated c).filter (fun y => !y.2.resSlot)).length < 15)) ∧
    (∀ c rank k v, s.victim c gid rank = some (k, v) → (k, v) ∈ s.seated c ∧ k ≠ gid ∧
      (4 ≤ rank → s.rankOf k v = 4 ∧ (∀ x ∈ s.seated c, x.1 ≠ gid → s.rankOf x.1 x.2 = 4 →
        (v.isWaiting = false → x.2.isWaiting = false) ∧ (x.2.isWaiting = v.isWaiting → v.since ≤ x.2.since))) ∧
      (rank < 4 → (s.rankOf k v = 4 ∧ v.inReserve = false ∧ (∀ x ∈ s.seated c, x.1 ≠ gid → s.rankOf x.1 x.2 = 4 → x.2.inReserve = false →
          (v.isWaiting = true → x.2.isWaiting = true) ∧ (x.2.isWaiting = v.isWaiting → x.2.age ≤ v.age))) ∨
        (rank = 1 ∧ s.rankOf k v = 3 ∧ v.inReserve = true))) ∧
    (∀ (l r : Nat) (p : Pending) (b : Block), l < 32 → r ≠ 0 → s.block? g.blk = some b → b.compact = none → b.claims = [] →
      (g.lane l).pend.find? (fun p => p.reg == r) = some p → (∀ e ∈ s.estates, e.waits = false) →
      ∃ t h, exec (.estateFetchLands gid l r false) s = .next t ∧ t.group? gid = some h ∧ t.mem = s.mem ∧ (h.lane l).reg r = p.val ∧
        (∀ q ∈ (h.lane l).pend, q.reg ≠ r) ∧ (∀ k, k ≠ r → (h.lane l).reg k = (g.lane l).reg k) ∧ h.pc = g.pc ∧ h.st = g.st ∧
        ((∀ va ar, g.st ≠ .waiting (.jwait va ar)) → g.st ≠ .halted → ∀ j, j < 32 → j ≠ l → h.lane j = g.lane j) ∧
        (((∃ va ar, g.st = .waiting (.jwait va ar)) ∨ g.st = .halted) → fetchesLanded h = true → h.sapwood = false)) ∧
    (∀ (l r : Nat) (p : Pending) (b : Block), l < 32 → s.block? g.blk = some b → b.compact = none → b.claims = [] →
      (g.lane l).pend.find? (fun p => p.reg == r) = some p → (∀ e ∈ s.estates, e.waits = false) →
      ∃ t h, exec (.estateFetchLands gid l r true) s = .next t ∧ t.group? gid = some h ∧ t.mem = s.mem ∧ (r, 6) ∈ (h.lane l).badRegs ∧
        (∀ q ∈ (h.lane l).pend, q.reg ≠ r) ∧ (∀ k, (h.lane l).reg k = (g.lane l).reg k)) ∧
    (∀ va ar n u, s.partRuns g = true → s.isSolstice g.blk = false → g.st = .waiting (.jwait va ar) →
      u = (if ((g.areg ar).fast s.dev (s.partOf g) va 8).isNone then s.cache (s.partOf g) va else s) → u.readCounter g (g.areg ar) va = .value n →
      (n = 0 → ∃ t h, exec (.jwaitCounterRead gid) s = .next t ∧ t.group? gid = some h ∧ t.mem = s.mem ∧ h.pc = g.advance.pc ∧
        h.st = (if g.sapwood then .active else .parked) ∧ (∀ l r, (h.lane l).reg r = (g.lane l).reg r)) ∧
      (n ≠ 0 → exec (.jwaitCounterRead gid) s = .next u))

/-- R39, R286, R288, R290, R291, R344 to R346, R408, R415: when a bin's timer ends its records become one group, a record a lane; the
oldest overflow segment returns whole to a bin that has room, and the open one closes; a node is swapped in; a remote record is held by
its node, waits there up to its timeout, or goes with its cause to the dead-record area, which is partition-physical (log entry 41), and
counts at its node (log entry 94); only FULL takes one; a SPAWN.b that has waited too long traps with the lanes that lack room. -/
def Obligations.NodeEvents : Prop :=
  ∀ (s : State) (i : Nat) (n : Node),
    (∀ hs c, s.node? i = some n → s.nodeRuns n = true → n.timerOn = true → n.remote = [] → (∀ h ∈ n.bin, h.batch = none) → hs = n.chosen →
      hs ≠ [] → (∀ h ∈ n.bin, h ∈ hs) → s.nodeCore n = some c → s.estates = [] →
      ∃ t g b, exec (.binTimerExpiry i) s = .next t ∧ t.group? (s.ticks + 1) = some g ∧ t.block? g.blk = some b ∧ t.mem = s.mem ∧
        g.pc = n.entry ∧ g.budget = n.budget ∧ g.occ = maskOf (fun l => decide (l < hs.length)) ∧ g.path = g.occ ∧ g.em = g.occ ∧
        g.sreg 0 = n.handle i ∧ g.sreg 1 = BitVec.ofNat 32 hs.length ∧ (∀ l h, l < 32 → hs[l]? = some h → g.lane l = n.lane i h) ∧
        b.node = some i ∧ b.core = c ∧ b.part = n.part ∧ b.launchId = n.launchId ∧ b.seed = n.seed) ∧
    (∀ c hs rest, s.node? i = some n → s.nodeRuns n = true → n.segments = (c, hs) :: rest → n.inSlot = true → n.bin.length < 128 →
      s.chuckHeld n.homeQuad + hs.length ≤ Config.chuckRecords → (∀ h ∈ n.bin, h.batch = none) → (∀ h ∈ hs, h.batch = none ∧ h.place = none) →
      hs ≠ [] → n.timer ≠ 0 → n.owed = false → n.bin.length + hs.length < n.count → n.remote = [] →
      ∃ t m, exec (.spillSegmentDrain i) s = .next t ∧ t.node? i = some m ∧ m.segments = rest.map (fun x => (true, x.2)) ∧ m.bin.length = n.bin.length + hs.length ∧
        (∀ h, h ∈ m.bin ↔ h ∈ n.bin ∨ h ∈ hs) ∧ m.accepted = n.accepted ∧ t.mem = s.mem ∧ t.groups = s.groups) ∧
    (s.node? i = some n → s.nodeRuns n = true → n.swapped = true → n.remote = [] → (s.slotted n.homeQuad).length < Config.nodeSlots →
      exec (.nodeSwapIn i) s = .next (s.setNode i { n with swapped := false, inSlot := true, swaps := [] })) ∧
    (∀ p r, s.dev.life ≠ .full → exec (.remoteRecordArrival p r) s = .next s) ∧
    (∀ p r c, s.dev.life = .full → s.remoteFails p r = some c →
      (∀ t m, exec (.remoteRecordArrival p r) s = .next t → s.node? (nodeIndex r.handle) = some m → m.part = p →
        t.node? (nodeIndex r.handle) = some { m with dead := m.dead + 1 }) ∧
      (∀ a, (s.part p).drnext.toNat + 64 ≤ (s.part p).drsize.toNat →
        sysAddr s.dev p (((s.part p).drbase + (s.part p).drnext).toNat % 2^52) = some a →
        ∃ t, exec (.remoteRecordArrival p r) s = .next t ∧ readBytes t.mem a 64 = deadBytes r c ∧
          (∀ k, k < a ∨ a + 64 ≤ k → readByte t.mem k = readByte s.mem k) ∧ (t.part p).drnext = (s.part p).drnext + 64 ∧
          (t.part p).drlost = (s.part p).drlost) ∧
      ((s.part p).drsize.toNat < (s.part p).drnext.toNat + 64 → ∃ t, exec (.remoteRecordArrival p r) s = .next t ∧ t.mem = s.mem ∧
        (t.part p).drnext = (s.part p).drnext ∧ (t.part p).drlost = (s.part p).drlost + 1)) ∧
    (∀ p r r', s.dev.life = .full → i = nodeIndex r.handle → s.node? i = some n → s.remoteFails p r = none →
      r' = { r with fab := true, payload := r.payload.take n.npay } → n.inSlot = true → s.binRoom n = false → n.hasOvf = false →
      (n.timeout = 0 → exec (.remoteRecordArrival p r) s = .next (s.deadRecord p r' 0x180)) ∧
      (n.timeout ≠ 0 → ∃ t, exec (.remoteRecordArrival p r) s = .next t ∧ t.mem = s.mem ∧ t.parts = s.parts ∧
        t.node? i = some { n with remote := n.remote ++ [r'] })) ∧
    (∀ p r, s.dev.life = .full → i = nodeIndex r.handle → s.node? i = some n → s.remoteFails p r = none → (s.part p).st = .running →
      s.nodeAway n = false → n.inSlot = true → n.swapped = false → s.binRoom n = true → n.timer ≠ 0 → n.owed = false → (∀ h ∈ n.bin, h.batch = none) →
      n.bin.length + 1 < n.count →
      ∃ t m, exec (.remoteRecordArrival p r) s = .next t ∧ t.node? i = some m ∧ t.mem = s.mem ∧ m.accepted = n.accepted + 1 ∧
        m.bin = n.bin ++ [{ r := { r with fab := true, payload := r.payload.take n.npay }, serial := n.accepted }]) ∧
    (∀ r rest m, s.node? i = some n → n.remote = r :: rest → (s.admitAll i).node? i = some m → n.remote.length ≤ m.remote.length →
      ∃ t x, exec (.remoteRecordTimeout i) s = .next t ∧ t = (s.setNode i { n with remote := rest }).deadRecord n.part r 0x180 ∧
        t.node? i = some x ∧ x.remote = rest ∧ x.bin = n.bin) ∧
    (∀ (gid : Nat) (g : Group) (ms : List Nat) (lack : Lanes), s.group? gid = some g → g.st = .waiting (.spawn ms) → s.isSolstice g.blk = false →
      lack = (s.lacking (s.spawnAt g)).1 → lack ≠ 0 → s.partRuns g = true → g.sapwood = true → g.supervisor = false →
      goodVector (s.hvec g) = true →
      ∃ t h, exec (.spawnBlockingTimeout gid) s = .next t ∧ t.group? gid = some h ∧ t.mem = s.mem ∧ t.nodes = s.nodes ∧ h.supervisor = true ∧
        h.pc = s.hvec g ∧ h.ecause = 0x180 ∧ h.emaskf = lack ∧ h.epc = g.pc ∧ h.st = .active)

/-- R159, R251, R252, R257, R262, R264, R270, R271, R276, R301, R348, R369: a ready card starts, or ends with the reason for which it
cannot; data lands unit by unit in ascending order (log entry 92), the offset counting them, and a copy out of a tile changes its 8 bytes
of memory only; a fault parks the job with a replay entry and tells its group, at once or, in Solstice mode, at the quantum end that shows
the block the job (R382; log entry 118); a pass of an MMA, which the arbiter grants to any job that none ahead of it outranks (log entry
38), writes the window's elements of its C rows, from A in another tile, and no other byte of a tile; the exchange of a collective's
parameters, whose order and arguments are the model's (log entry 52); the end of a job, which hands its follow-on over. -/
def Obligations.JobEvents : Prop :=
  ∀ (s : State) (id : Nat) (j : Job), s.job? id = some j → s.jobsRun j = true →
    (s.ready j = false → exec (.jobDispatch id) s = .next s) ∧
    (s.ready j = true → s.oldestReady j = true → s.startReason j = none → j.kind.engine ≠ 4 →
      ∃ t, exec (.jobDispatch id) s = .next t ∧ t.job? id = some { j with st := .running, total := j.kind.units (s.rollCount j) } ∧ t.mem = s.mem ∧
        t.groups = s.groups ∧ t.blocks = s.blocks ∧ (j.kind.mma? = true → id ∈ (t.quad j.quad).table) ∧ (j.kind.mma? = false → t.quads = s.quads)) ∧
    (∀ u, s.ready j = true → s.oldestReady j = true → s.startReason j = none → j.kind.mma? = false → s.ckStart j = .ok u →
      exec (.jobDispatch id) s = .next (u.updJob id (fun r => { r with st := .running, total := r.kind.units (u.rollCount r) }))) ∧
    (∀ r, s.ready j = true → s.oldestReady j = true → s.startReason j = some r → JobFails s (.jobDispatch id) id j
      { kind := .job, code := 0x1C1, eaddr := j.pc, einfo := BitVec.ofNat 64 (r + if j.after.isSome then 256 else 0) }) ∧
    (∀ r, s.ready j = true → s.oldestReady j = true → s.startReason j = none → s.ckStart j = .error r → JobFails s (.jobDispatch id) id j
      { kind := .job, code := 0x059, eaddr := j.pc, einfo := BitVec.ofNat 64 r }) ∧
    (∀ v, j.st = .running → j.kind.mma? = false → j.off < j.total → v = s.cacheUnit j →
      (∀ u k, landUnit v id j = .ok u k →
        exec (.jobDataLands id 1) s = .next ((u.creditJob j k).updJob id (fun r => { r with off := r.off + 1 }))) ∧
      (∀ k, landUnit v id j = .bad k → JobFails s (.jobDataLands id 1) id j
        { kind := .mce, code := 0x280, eaddr := j.pc, einfo := BitVec.ofNat 64 k }) ∧
      (∀ r, landUnit v id j = .reason r → JobFails s (.jobDataLands id 1) id j
        { kind := .job, code := 0x1C1, eaddr := j.pc, einfo := BitVec.ofNat 64 (r + if j.after.isSome then 256 else 0) }) ∧
      (∀ va perm g, landUnit s id j = .fault va perm → (s.quad j.quad).freeEntries ≠ [] → s.group? j.gid = some g → g.blk = j.blk →
        g.st ≠ .retired →
        ∃ t r e, exec (.jobTranslationFault id) s = .next t ∧ t.job? id = some r ∧ r.st = .parked (some e) ∧ e < 64 ∧
          r.fault = some (va, perm) ∧ r.off = j.off ∧ t.mem = s.mem ∧
          ∀ d : Due, d = { kind := .job, code := 0x050, eaddr := BitVec.ofNat 64 va, einfo := engineInfo j e perm, job := some id } →
            if s.isSolstice j.blk then t.group? j.gid = some g ∧
              (t.block? j.blk).map (·.later) = (s.block? j.blk).map (fun b => b.later ++ [{ job := id, gid := j.gid, due := some d }])
            else t.group? j.gid = some { g with due := g.due ++ [d] }) ∧
      (∀ h hs row0 rows srow0 addr pitch rb a tl, j.kind = .cpy .t2g h hs row0 rows srow0 addr pitch rb → s.isSolstice j.blk = false →
        s.tile? j.blk h = some tl → tl.isBad ((row0 + 8 * j.off / rb) * rb + 8 * j.off % rb) 8 = false → s.badCw = [] →
        v.jobAddr j (addr + 8 * j.off / rb * pitch + 8 * j.off % rb) .store = .ok a →
        ∃ t r, exec (.jobDataLands id 1) s = .next t ∧ t.job? id = some r ∧ r.off = j.off + 1 ∧
          readBytes t.mem a 8 = tl.bytes ((row0 + 8 * j.off / rb) * rb + 8 * j.off % rb) 8 ∧
          ∀ k, k < a ∨ a + 8 ≤ k → readByte t.mem k = readByte s.mem k)) ∧
    (∀ g, j.finished = true → s.group? j.gid = some g → g.blk = j.blk → g.st ≠ .retired → (∀ k ∈ s.jobs, k.2.st ≠ .parked none) →
      ∃ t, exec (.jobComplete id) s = .next t ∧ t.job? id = none ∧ t.mem = s.mem ∧
      (t.quad j.quad).lathe.fbc = (s.quad j.quad).lathe.fbc + (if j.feeds then 1 else 0) ∧
      ∀ f r, s.followOf id = some f → f ≠ id → s.job? f = some r → ∃ x, t.job? f = some x ∧ x.st = .queued ∧ x.kind = r.kind) ∧
    (s.outranked j.quad id j.kind.pri = true → exec (.mmaPassGrant j.quad id) s = .next s) ∧
    (j.st = .running → j.kind.mma? = true → j.off < j.total → (s.quad j.quad).table.contains id = true →
      s.outranked j.quad id j.kind.pri = false →
      (∀ ha hc pid lm kind afmt kp bop sca acc rows arow0 wn wj crow0 pri n ta tc,
        j.kind = .mma ha hc pid lm kind afmt kp bop sca acc rows arow0 wn wj crow0 pri → s.latheBad j j.off = none →
        s.tile? j.blk hc = some tc → 256 * (wn + 1) ≤ tc.rowBytes → ta = s.jobTile j ha → n = min 64 (rows - 64 * j.off) →
        ∃ t v, exec (.mmaPassGrant j.quad id) s = .next t ∧ t.mem = s.mem ∧ t.job? id = some { j with off := j.off + 1 } ∧
          t.groups = s.groups ∧ t.quads = s.quads ∧ t.tile? j.blk hc = some v ∧ v.rows = tc.rows ∧ v.rowBytes = tc.rowBytes ∧ v.tag = tc.tag ∧
          (ha ≠ hc → ∀ i k, i < n → k < 64 * (wn + 1) → v.bytes ((crow0 + (64 * j.off + i)) * tc.rowBytes + 4 * k) 4 =
            bytesOfNat 4 (mmaElement (s.quad j.quad).lathe.active kind afmt kp sca bop (ta.row (arow0 + (64 * j.off + i))) (64 * wj + k)
              (if acc then natOfBytes (tc.bytes ((crow0 + (64 * j.off + i)) * tc.rowBytes + 4 * k) 4) else 0))) ∧
          (∀ k, (∀ i, i < n → k < (crow0 + (64 * j.off + i)) * tc.rowBytes ∨ (crow0 + (64 * j.off + i)) * tc.rowBytes + 256 * (wn + 1) ≤ k) →
            v.byte k = tc.byte k) ∧
          (∀ h, h ≠ hc → t.tile? j.blk h = s.tile? j.blk h) ∧
          (∀ b c ph x, s.block? j.blk = some b → j.credit = some (c, ph) → Table.get? b.cbs c = some x →
            ∃ d, t.block? j.blk = some d ∧ Table.get? d.cbs c = some (x.credit ph (256 * (wn + 1) * n)))) ∧
      (∀ k, s.latheBad j j.off = some k → JobFails s (.mmaPassGrant j.quad id) id j
        { kind := .mce, code := 0x280, eaddr := j.pc, einfo := BitVec.ofNat 64 k })) ∧
    (∀ kind op c n src dst p r params (xs : List (List W32)), j.kind = .coll kind op c n src dst → j.st = .running → j.result = none →
      (s.group? j.gid).bind (fun g => s.communicator g c) = some (p, r) →
      (params.length ≠ p ∨ s.collAhead j c = true ∨ (1 < p ∧ s.dev.life ≠ .full) → exec (.collParamExchange id params xs) s = .next s) ∧
      (params.length = p → s.collAhead j c = false → (p ≤ 1 ∨ s.dev.life = .full) →
        ((∃ q x, q ≠ r ∧ params[q]? = some x ∧ x ≠ (kind, op, n)) → JobFails s (.collParamExchange id params xs) id j
          { kind := .job, code := 0x142, eaddr := j.pc, einfo := BitVec.ofNat 64 c }) ∧
        (∀ own cs, (∀ q x, q ≠ r → params[q]? = some x → x = (kind, op, n)) → s.jobWords j src (collExtents kind n p r).1 = .ok own →
          cs = (List.range p).map (fun i => if i = r then own else xs.getD i []) →
          ∃ t, exec (.collParamExchange id params xs) s = .next t ∧ t.mem = s.mem ∧ t.groups = s.groups ∧
            t.job? id = some { j with result := some (collResult kind op n r cs), total := (collResult kind op n r cs).length })))

/-- R334 to R337, R351, R412: a doorbell moves the tail, or, of a locked interface, moves it to ERROR; the packet at the head is refused
with its record, starts a launch with the stream's next sequence number, starts a graph, or waits for its predecessor; a marker writes its
record when every earlier launch has completed, by an event of its own (log entry 58); a start barrier starts its launch or its graph with
the last arrival, and a refusal or its timeout ends it (for a graph as log entry 98 has it). -/
def Obligations.StreamsRunPackets : Prop :=
  ∀ (s : State) (v n : Nat),
    (∀ tail, v < 192 → n < 16 → s.dev.life ≠ .cold →
      ((s.vf v).tdisp = .unlocked → exec (.sqtailWrite v n tail) s = .next (s.updStream v n (fun r => { r with tail := tail.toNat % 65536 }))) ∧
      ((s.vf v).tdisp ≠ .unlocked → ∃ t, exec (.sqtailWrite v n tail) s = .next t ∧ (t.vf v).tdisp = .error)) ∧
    (∀ p bs st o, s.headPacket v n = some (p, bs) → s.checkPacket p v n bs = .refuse st o →
      (pktKind bs = 1 → pktOverlap bs = true ∨ s.predecessorDone v n = true) →
      ∃ t, exec (.launchPacket v n) s = .next t ∧ (t.stream v n).head = ((s.stream v n).head + 1) % max 1 (s.stream v n).size ∧
        (t.stream v n).seq = (s.stream v n).seq ∧ t.launches = s.launches ∧
        RecordAt s t p (pktCompl bs) (recordBytes st (s.stream v n).seq 0 0 0 0 0 o)) ∧
    (∀ p bs, s.headPacket v n = some (p, bs) → pktKind bs = 1 → pktOverlap bs = false → s.predecessorDone v n = false →
      exec (.launchPacket v n) s = .next s) ∧
    (∀ p bs m, s.headPacket v n = some (p, bs) → pktKind bs = 1 → pktOverlap bs = true ∨ s.predecessorDone v n = true →
      s.checkPacket p v n bs = .pass → pktRepl bs = false → pktShard bs = false → m = descField bs 0x10 4 * descField bs 0x14 2 * descField bs 0x16 2 →
      0 < m →
      ∃ t r, exec (.launchPacket v n) s = .next t ∧ t.launch? s.ticks = some r ∧ t.mem = s.mem ∧ r.started = true ∧ r.finished = false ∧
        r.seq = (s.stream v n).seq ∧ r.gen = (s.stream v n).seq ∧ r.launchId = s.launchName p ∧ r.part = p ∧ r.vf = v ∧ r.stream = n ∧
        r.nextBlk = 0 ∧ r.hi = m ∧ r.solstice = pktSolstice bs ∧ r.seed = pktAddr bs 0x28 ∧
        (t.stream v n).seq = (s.stream v n).seq + 1 ∧ (t.stream v n).last = some s.ticks ∧
        (t.stream v n).head = ((s.stream v n).head + 1) % max 1 (s.stream v n).size) ∧
    (∀ p bs, s.headPacket v n = some (p, bs) → pktKind bs = 2 → s.checkPacket p v n bs = .pass →
      ∃ t w, exec (.launchPacket v n) s = .next t ∧ t.walker? s.ticks = some w ∧ t.mem = s.mem ∧ w.desc = pktDesc bs ∧ w.part = p ∧
        w.record = some (pktCompl bs) ∧ (∀ x, s.graphBytes s.mem p (pktDesc bs) 64 = .bytes x → w.node = descField x 8 2) ∧
        (w.started = true ↔ pktRepl bs = false) ∧ (pktRepl bs = true → w.gen = BitVec.ofNat 32 (descField bs 0x48 4) ∧
          w.nmod = descField bs 0x4C 2) ∧
        (t.stream v n).walker = some s.ticks ∧ (t.stream v n).head = ((s.stream v n).head + 1) % max 1 (s.stream v n).size) ∧
    (∀ p bs, s.headPacket v n = some (p, bs) → pktKind bs = 3 → s.checkPacket p v n bs = .pass →
      exec (.launchPacket v n) s = .next s ∧
      ((∀ l ∈ s.launches, l.2.vf = v → l.2.stream = n → l.2.finished = true) →
        ∃ t, exec (.markerComplete v n) s = .next t ∧ (t.stream v n).head = ((s.stream v n).head + 1) % max 1 (s.stream v n).size ∧
          RecordAt s t p (pktCompl bs) (recordBytes 0 (s.stream v n).seq 0 0 0 0 0 0))) ∧
    (∀ l r rank gen, s.launch? l = some r → r.started = false → r.finished = false → s.partActive r.part = true → s.dev.life = .full →
      (∃ t x, exec (.startBarrierArrival l rank gen true) s = .next t ∧ t.launch? l = some x ∧ x.finished = true ∧ x.started = false ∧
        RecordAt s t r.part r.compl (recordBytes 6 (s.stream r.vf r.stream).seq 0 0 0 0 0 0)) ∧
      (gen ≠ r.gen → exec (.startBarrierArrival l rank gen false) s = .next s) ∧
      (gen = r.gen → rank < r.nmod → r.nextBlk < r.hi → ∃ t x, exec (.startBarrierArrival l rank gen false) s = .next t ∧ t.launch? l = some x ∧
        t.mem = s.mem ∧ rank ∈ x.arrivals ∧ (x.started = true ↔ ∀ k, k < r.nmod → k ∈ r.arrivals ∨ k = rank) ∧
        (x.started = true → x.seq = (s.stream r.vf r.stream).seq ∧ x.gen = r.gen)) ∧
      ((∃ k, k < r.nmod ∧ k ∉ r.arrivals) → ∃ t x, exec (.startBarrierTimeout l) s = .next t ∧ t.launch? l = some x ∧ x.finished = true ∧
        x.started = false ∧ RecordAt s t r.part r.compl (recordBytes 6 (s.stream r.vf r.stream).seq 0 0 0 0 0 0))) ∧
    (∀ l r rank, s.launch? l = none → s.walker? l = some r → r.started = false → s.partActive r.part = true → s.dev.life = .full →
      (rank < r.nmod → ∃ t x, exec (.startBarrierArrival l rank r.gen false) s = .next t ∧ t.walker? l = some x ∧ t.mem = s.mem ∧
        rank ∈ x.arrivals ∧ (x.started = true ↔ ∀ k, k < r.nmod → k ∈ r.arrivals ∨ k = rank)) ∧
      ((∃ k, k < r.nmod ∧ k ∉ r.arrivals) → ∃ t, exec (.startBarrierTimeout l) s = .next t ∧ t.walker? l = none ∧
        (t.stream r.vf r.stream).walker = none ∧ ∀ compl, r.record = some compl →
          RecordAt s t r.part compl (recordBytes 6 (s.stream r.vf r.stream).seq 0 0 0 0 0 0)))

/-- R8, R18, R331, R341: with no estate to follow, the next block of a launch is born whole on the core that R341 chooses, its work-items
with their keys; an affinity window ends with the block held longest. R304, R338 to R340: a graph is accepted on a free stream of the die,
its walker waits for the commit that carried the card, starts a kernel and moves on, follows a condition, counts a loop, and ends with its
completion word. -/
def Obligations.PlacementAndGraphs : Prop :=
  ∀ s : State,
    (∀ l c r, s.launch? l = some r → r.started = true → r.finished = false → s.partActive r.part = true →
      (partCores s.dev r.part).contains c = true → s.estates = [] → r.held = [] → r.nextBlk < r.hi → s.chosenCore r [] = some c →
      ∃ t b x, exec (.blockPlacement l c) s = .next t ∧ t.block? s.ticks = some b ∧ t.launch? l = some x ∧ t.mem = s.mem ∧ b.core = c ∧
        b.part = r.part ∧ b.launch = some l ∧ b.index = r.nextBlk ∧ (b.x, b.y, b.z) = r.coords r.nextBlk ∧ b.seed = r.seed ∧
        b.reserved = r.need ∧ x.nextBlk = r.nextBlk + 1 ∧ x.live = r.live + 1 ∧
        (∀ k ro, r.groups = [(k, ro)] → ∃ g, t.group? (s.ticks + 1) = some g ∧ g.blk = s.ticks ∧ g.pc = ro.entry ∧ g.budget = ro.budget ∧
          g.occ = maskOf (fun i => decide (i < r.wsize)) ∧ g.path = g.occ ∧ g.em = g.occ ∧
          ∀ i, i < 32 → i < r.wsize → (g.lane i).wid = r.key r.nextBlk i ∧ (g.lane i).key = r.seed ^^^ r.key r.nextBlk i)) ∧
    (∀ l r, s.launch? l = some r → ∃ t x, exec (.affinityWindowExpiry l) s = .next t ∧ t.launch? l = some x ∧ t.mem = s.mem ∧
      x.held.map (·.1) = r.held.map (·.1) ∧ ∀ h rest, r.held = h :: rest → h.2.2 = false → x.held = (h.1, h.2.1, true) :: rest) ∧
    (∀ id j addr, s.job? id = some j → j.kind = .glaunch addr → j.st = .running → s.jobsRun j = true →
      (∀ m k g, s.checkGraph (s.jobView j) j.part (BitVec.ofNat 64 addr) = .good m → s.graphAhead j = false → s.freeGraphStream (dieOf j.quad) = some k →
        s.group? j.gid = some g → g.blk = j.blk → g.st ≠ .retired → (∀ k ∈ s.jobs, k.2.st ≠ .parked none) →
        ∃ t w, exec (.spindleAcceptGraph id) s = .next t ∧ t.job? id = none ∧ t.walker? s.ticks = some w ∧ t.mem = s.mem ∧
          w.desc = BitVec.ofNat 64 addr ∧ w.part = j.part ∧ w.vf = graphVf (dieOf j.quad) ∧ w.stream = k ∧ w.record = none ∧
          w.started = true ∧ w.after = j.quantum.map (fun q => (j.blk, q)) ∧
          (t.stream (graphVf (dieOf j.quad)) k).walker = some s.ticks) ∧
      (∀ o, s.checkGraph (s.jobView j) j.part (BitVec.ofNat 64 addr) = .invalid o → JobFails s (.spindleAcceptGraph id) id j
        { kind := .job, code := 0x186, eaddr := j.pc, einfo := BitVec.ofNat 64 o })) ∧
    (∀ w r, s.walker? w = some r → (r.started = false ∨ s.graphWaits r = true) →
      ∀ i ∈ [Instr.spindleKernelNode w, .spindleConditionalNode w, .spindleWhileNode w, .spindleEndNode w], exec i s = .next s) ∧
    (∀ w r nd bs m, s.walkerAt w 1 = some (r, nd) → (descField nd 1 1).testBit 0 = true ∨ s.predecessorDone r.vf r.stream = true →
      s.virtBytes r.part 2 (pktAddr nd 0x10) 128 = some bs →
      (s.checkNodePacket r bs = .pass → pktShard bs = false → m = descField bs 0x10 4 * descField bs 0x14 2 * descField bs 0x16 2 → 0 < m →
        ∃ t x y, exec (.spindleKernelNode w) s = .next t ∧ t.walker? w = some x ∧ t.launch? s.ticks = some y ∧ t.mem = s.mem ∧
          x.kernels = r.kernels + 1 ∧ x.launches = r.launches ++ [s.ticks] ∧ x.node = descField nd 4 4 ∧ y.walker = some w ∧
          y.started = true ∧ y.vf = r.vf ∧ y.stream = r.stream ∧ y.hi = m) ∧
      (∀ st o, s.checkNodePacket r bs = .refuse st o → ∃ t, exec (.spindleKernelNode w) s = .next t ∧ t.walker? w = none ∧
        (t.stream r.vf r.stream).walker = none ∧ t.launches = s.launches)) ∧
    (∀ w r nd v, s.walkerAt w 2 = some (r, nd) → s.graphIdle r = true → s.condition r nd = some v →
      ∃ t, exec (.spindleConditionalNode w) s = .next t ∧ t.mem = s.mem ∧
        t.walker? w = some { r with node := if v = 0 then descField nd 8 4 else descField nd 4 4 }) ∧
    (∀ w r nd v, s.walkerAt w 3 = some (r, nd) → s.graphIdle r = true → s.condition r nd = some v →
      (v = 0 → ∃ t, exec (.spindleWhileNode w) s = .next t ∧ t.mem = s.mem ∧ t.walker? w = some { r with node := descField nd 8 4 }) ∧
      (v ≠ 0 → Sparse.get 0 r.counts r.node + 1 ≠ descField nd 0xC 4 → ∃ t x, exec (.spindleWhileNode w) s = .next t ∧ t.mem = s.mem ∧
        t.walker? w = some x ∧ x.node = descField nd 4 4 ∧ Sparse.get 0 x.counts r.node = Sparse.get 0 r.counts r.node + 1) ∧
      (v ≠ 0 → Sparse.get 0 r.counts r.node + 1 = descField nd 0xC 4 → ∃ t, exec (.spindleWhileNode w) s = .next t ∧ t.walker? w = none)) ∧
    (∀ w r nd, s.walkerAt w 4 = some (r, nd) →
      (s.graphIdle r = false → exec (.spindleEndNode w) s = .next s) ∧
      (s.graphIdle r = true → ∃ t, exec (.spindleEndNode w) s = .next t ∧ t.walker? w = none ∧ (t.stream r.vf r.stream).walker = none ∧
        ∀ hd va pg, s.graphBytes s.mem r.part r.desc 64 = .bytes hd → va = pktAddr hd 0x10 → canonical va = true → s.walk r.part va = .page pg →
          pg.w = true → va.toNat % pg.bytes + 8 ≤ pg.bytes → s.isBadPart (pg.at va) 8 = false → r.record = none →
          readBytes t.mem (pg.at va) 8 = bytesOfNat 4 0 ++ bytesOfNat 4 r.kernels))

/-- R2, R342, R409: hot cores and droopy quads are marked and unmarked, a core at a threshold that the supervisor sets from 70 to 105
degrees and once its sensor has read 6 degrees less (that another threshold is ignored, and how sensors and thresholds come to change, is
the model's: log entry 104); a marked core takes no block, unless every core of the partition is marked; clocks are only ever lowered, and
the port trains to its rates and widths. -/
def Obligations.MarksAndClocks : Prop :=
  ∀ s : State,
    (∀ c t, (s.core c).threshold ≤ t → ∃ u, exec (.coreHotMark c t) s = .next u ∧ (u.core c).hot = true ∧ (∀ k, k ≠ c → u.core k = s.core k) ∧
      (u.core c).temp = max (s.core c).temp t ∧ (u.core c).threshold = (s.core c).threshold ∧ u.groups = s.groups ∧ u.mem = s.mem) ∧
    (∀ c t, t < (s.core c).threshold → exec (.coreHotMark c t) s = .next s) ∧
    (∀ c, (s.core c).temp + 6 ≤ (s.core c).threshold → ∃ u, exec (.coreHotClear c) s = .next u ∧ (u.core c).hot = false ∧
      (∀ k, k ≠ c → u.core k = s.core k) ∧ u.groups = s.groups ∧ u.mem = s.mem) ∧
    (∀ c, (s.core c).threshold < (s.core c).temp + 6 → exec (.coreHotClear c) s = .next s) ∧
    (∀ c t r, s.agenda = .order (.threshold c t) :: r → ∃ u, step s = .next u ∧ u.agenda = r ∧
      (u.core c).threshold = (if 70 ≤ t ∧ t ≤ 105 then t else (s.core c).threshold)) ∧
    (∀ c t r, s.agenda = .order (.sensor c t) :: r → ∃ u, step s = .next u ∧ u.agenda = r ∧ (u.core c).temp = t ∧
      (u.core c).hot = (s.core c).hot) ∧
    (∀ q, (∃ u, exec (.droopDetect q) s = .next u ∧ u.quad q = { s.quad q with droopy := true } ∧ ∀ k, k ≠ q → u.quad k = s.quad k) ∧
      ∃ u, exec (.droopMarkExpiry q) s = .next u ∧ u.quad q = { s.quad q with droopy := false } ∧ ∀ k, k ≠ q → u.quad k = s.quad k) ∧
    (∀ p, (Table.get? s.parts p).isSome = true → partCores s.dev p ≠ [] →
      (∀ c ∈ partCores s.dev p, (s.core c).hot = true ∨ (s.quad (quadOf c)).droopy = true) →
      ∃ u, exec (.thermalMarkOverride p) s = .next u ∧ (u.part p).override = true ∧ u.groups = s.groups ∧ ∀ c, u.marked p c = false) ∧
    (∀ p c, c ∈ partCores s.dev p → (s.core c).hot = false → (s.quad (quadOf c)).droopy = false → exec (.thermalMarkOverride p) s = .next s) ∧
    (∀ r own c, s.chosenCore r own = some c → s.marked r.part c = false ∧ c ∈ partCores s.dev r.part) ∧
    (∀ p c, (s.part p).override = false → ((s.core c).hot = true ∨ (s.quad (quadOf c)).droopy = true) → s.marked p c = true) ∧
    (∀ i mhz, i < 160 → mhz < Sparse.get 1500 s.dev.clocks i → ∃ u, exec (.clockLowering i mhz) s = .next u ∧
      Sparse.get 1500 u.dev.clocks i = mhz ∧ (∀ k, k ≠ i → Sparse.get 1500 u.dev.clocks k = Sparse.get 1500 s.dev.clocks k) ∧ u.groups = s.groups) ∧
    (∀ i mhz, Sparse.get 1500 s.dev.clocks i ≤ mhz → exec (.clockLowering i mhz) s = .next s) ∧
    (∀ rate width, (rate = 128 ∨ rate = 64 ∨ rate = 32) → (width = 16 ∨ width = 8 ∨ width = 4) →
      exec (.linkTraining rate width) s = .next { s with dev := { s.dev with linkRate := rate, linkWidth := width } })

/-- R368, R374 to R376, R403, R404, R407: the end of a slice stops a partition and lands its results; the save keeps every group of it,
and the base die its digest; a command resumes a halted group at its second fault's PC, terminates a block, pre-empts a partition, resumes
it when the digest matches, discards slices, and says in PCMDSTAT whether it was done (what it says of a digest that does not match is the
model's, log entry 73, and that a write with a nonzero reserved field is refused is log entry 83's); a loan lists its quads, which give up
their state and keep the lender's work, and its recall detaches the borrower's blocks and brings the lender's back. When a loan is made at
all is the model's choice (log entry 74). -/
def Obligations.PreemptionSavesAndResumes : Prop :=
  ∀ s : State,
    (∀ p, s.partActive p = true → (Table.get? s.parts p).isSome = true → ∃ t, exec (.sliceEnd p) s = .next t ∧ (t.part p).st = .quiescing ∧
      t.mem = s.mem ∧ ∀ k g, s.group? k = some g → (s.partOf g = p → t.group? k = some g.landAll) ∧ (s.partOf g ≠ p → t.group? k = some g)) ∧
    (∀ p, (s.part p).st = .quiescing → s.noFetches (fun g => s.ofPart p g.blk) = true → (∀ j ∈ s.jobs, s.ofPart p j.2.blk = false) →
      ∃ t, exec (.preemptSave p) s = .next t ∧ (t.part p).st = .saved ∧ (t.part p).savedQuads = s.quadStates (partQuads s.dev p) ∧
        (t.part p).digest = some (t.areaDigest p) ∧
        ∀ k g, s.group? k = some g → s.ofPart p g.blk = true → ∃ h, t.group? k = some h ∧ h.pc = g.pc ∧ h.path = g.path ∧ h.em = g.em ∧
          h.occ = g.occ ∧ h.budget = g.budget ∧ (∀ l r, (h.lane l).reg r = (g.lane l).reg r) ∧ (∀ r, h.sreg r = g.sreg r) ∧
          ((g.st = .active ∨ g.st = .parked) → h.st = .saved none) ∧ (∀ w, g.st = .waiting w → h.st = .saved (some w))) ∧
    (∀ v gid g, pcmdOp v = 1 → s.dev.life ≠ .cold → s.pcmdGroup v = some (gid, g) → pcmdClean v = true → g.st = .halted →
      ∃ t h, exec (.pcmdResumeGroup v) s = .next t ∧ t.group? gid = some h ∧ (h.st = .active ∨ h.st = .parked) ∧ h.pc = g.pc ∧
        h.supervisor = g.supervisor ∧ h.path = g.path ∧ t.dev.pcmdstat = 0) ∧
    (∀ v, pcmdOp v = 1 → s.dev.life ≠ .cold → s.pcmdGroup v = none → exec (.pcmdResumeGroup v) s = .next { s with dev := { s.dev with pcmdstat := 1 } }) ∧
    (∀ v gid g, pcmdOp v = 2 → s.dev.life ≠ .cold → s.pcmdGroup v = some (gid, g) → pcmdClean v = true → (s.block? g.blk).isSome = true →
      ∃ t, exec (.pcmdTerminateBlock v) s = .next t ∧ t.dev.pcmdstat = 0 ∧ ∀ k x, t.group? k = some x → x.blk ≠ g.blk) ∧
    (∀ v, pcmdOp v = 3 → s.dev.life ≠ .cold →
      (pcmdBare v = true → s.partActive (pcmdPart v) = true → (Table.get? s.parts (pcmdPart v)).isSome = true →
        ∃ t, exec (.pcmdPreemptPartition v) s = .next t ∧ (t.part (pcmdPart v)).st = .quiescing ∧ t.dev.pcmdstat = 0) ∧
      (pcmdBare v = false ∨ s.partActive (pcmdPart v) = false →
        exec (.pcmdPreemptPartition v) s = .next { s with dev := { s.dev with pcmdstat := 1 } })) ∧
    (∀ v, pcmdOp v = 4 → s.dev.life ≠ .cold →
      (pcmdBare v = true → ((s.part (pcmdPart v)).st = .saved ∨ (s.part (pcmdPart v)).st = .suspended) →
        (s.part (pcmdPart v)).savedQuads.length = (partQuads s.dev (pcmdPart v)).length → ∀ refused,
        ((s.part (pcmdPart v)).digest = some (s.areaDigest (pcmdPart v)) → ∃ t, exec (.pcmdResumePartition v refused) s = .next t ∧
          (t.part (pcmdPart v)).st = .running ∧ t.dev.pcmdstat = 0 ∧ t.mem = s.mem) ∧
        ((s.part (pcmdPart v)).digest ≠ some (s.areaDigest (pcmdPart v)) → ∃ t, exec (.pcmdResumePartition v refused) s = .next t ∧
          (t.part (pcmdPart v)).st = (s.part (pcmdPart v)).st ∧ ∀ k, (t.group? k).map Group.sansResv = (s.group? k).map Group.sansResv)) ∧
      ((s.part (pcmdPart v)).st = .running →
        ∀ refused, exec (.pcmdResumePartition v refused) s = .next { s with dev := { s.dev with pcmdstat := 1 } })) ∧
    (∀ v, pcmdOp v = 5 → s.dev.life ≠ .cold → pcmdClean v = true → pcmdCore v = 0 → pcmdSlot v = 0 →
      (∃ x ∈ s.blocks, x.2.part = pcmdPart v ∧ (∃ sl ∈ (s.part (pcmdPart v)).slices, x.2.detached = some sl.id) ∧ x.2.gone = false ∧
        (pcmdLaunch v = 0 ∨ x.2.launchId = pcmdLaunch v)) →
      ∃ t, exec (.pcmdDiscardSlice v) s = .next t ∧ t.dev.pcmdstat = 0 ∧
        ∀ k g b, t.group? k = some g → s.block? g.blk = some b → b.part = pcmdPart v →
          (∃ sl ∈ (s.part (pcmdPart v)).slices, b.detached = some sl.id) → b.gone = false → pcmdLaunch v ≠ 0 ∧ b.launchId ≠ pcmdLaunch v) ∧
    (∀ v, pcmdOp v = 5 → s.dev.life ≠ .cold → pcmdBare v = true → (Table.get? s.parts (pcmdPart v)).isSome = true →
      (s.part (pcmdPart v)).slices ≠ [] → (∀ x ∈ s.blocks, x.2.detached = none) →
      ∃ t, exec (.pcmdDiscardSlice v) s = .next t ∧ t.dev.pcmdstat = 0 ∧ (t.part (pcmdPart v)).slices = [] ∧
        ∀ sl ∈ (s.part (pcmdPart v)).slices, ∀ e ∈ t.estates, e.slice ≠ some sl.id) ∧
    (∀ (v : W64) (n lender borrower count deadline : Nat), n = v.toNat → lender = n % 256 → borrower = n / 2^8 % 256 → count = n / 2^16 % 256 →
      deadline = n / 2^24 % 65536 → s.dev.life = .full → (Table.get? s.parts lender).isSome = true → (Table.get? s.parts borrower).isSome = true →
      lender ≠ borrower → count ≠ 0 → 100 ≤ deadline → count ≤ (lendable s.dev lender).length → s.partActive lender = true →
      s.onChip borrower = true → count + 2 ≤ (partQuads s.dev lender).length → (∀ x ∈ s.blocks, x.2.part = lender ∨ s.onQuads (lendable s.dev lender) x.1 = false) →
      ∃ t l, exec (.lend v) s = .next t ∧ t.dev.loans = s.dev.loans ++ [l] ∧ l.lender = lender ∧ l.borrower = borrower ∧ l.deadline = deadline ∧
        (∀ q ∈ l.quads, q ∈ lendable s.dev lender) ∧ l.quads.Nodup ∧ ((lendable s.dev lender).Nodup → l.quads.length = count) ∧
        ((∀ j ∈ s.jobs, s.onQuads (lendable s.dev lender) j.2.blk = false) → (s.part borrower).slices = [] → l.kept = s.quadStates l.quads ∧
          (∀ q ∈ l.quads, (t.quad q).lathe = {} ∧ (t.quad q).replay = [] ∧ (t.quad q).served = some borrower) ∧
          ∀ k b, s.block? k = some b → (s.onQuads l.quads k = true → ∃ c, t.block? k = some c ∧ c.detached = some l.slice ∧ c.core = b.core) ∧
            (s.onQuads l.quads k = false → t.block? k = some b))) ∧
    (∀ p l, s.dev.loans.find? (fun l => l.lender == p) = some l → s.noFetches (fun g => s.onQuads l.quads g.blk) = true → l.slice ≠ s.ticks →
      (∀ j ∈ s.jobs, s.onQuads l.quads j.2.blk = false) → s.onChip l.lender = true →
      ∃ t, exec (.lendRecall p) s = .next t ∧ l ∉ t.dev.loans ∧ ∀ k b, s.block? k = some b →
        (s.onQuads l.quads k = true → ∃ c, t.block? k = some c ∧ c.detached = some s.ticks ∧ c.core = b.core) ∧
        (b.part = l.lender → b.detached = some l.slice → ∃ c, t.block? k = some c ∧ c.detached = none ∧
          c.core = coreFor (l.kept.map (·.1)) l.quads b.core))

/-- R379, R380, R382, R384 to R386: a group that has used up its quantum waits with its results landed; at the quantum end of its block
the staged writes and atomics join the block's view and its commit, which reaches memory at once when every commit before it has been
released, and the groups go on with a new quantum, and take what the block's jobs had to tell; a block at rest holds no further quantum
end until a release or a job owes it one; a returning atomic at .dev waits for every commit before it; the ticket unit releases a commit
once every one before it has been released and every job that those carried has completed (the model's choice: log entry 56), and its own
jobs write to memory after it. -/
def Obligations.QuantumEnds : Prop :=
  ∀ s : State,
    (∀ gid g, s.group? gid = some g →
      (s.partRuns g = true → s.quantumUsed g = true → (g.st = .active ∨ g.st = .parked) →
        ∃ h, exec (.quantumExpiry gid) s = .next (s.setGroup gid h) ∧ h.st = .waiting .quantum ∧ h.windows = [] ∧ h.pc = g.pc ∧
          h.path = g.path ∧ h.staged = g.staged ∧ ∀ l r, l < 32 → ¬ landsV g l r → (h.lane l).reg r = (g.lane l).reg r) ∧
      (s.quantumUsed g = false → exec (.quantumExpiry gid) s = .next s)) ∧
    (∀ b r, s.block? b = some r → r.solstice = true → r.gone = false → r.detached = none → s.dev.life ≠ .cold → (s.part r.part).st = .running →
      s.quantumReady b r = true → s.seesFaults b r = false → s.nodes = [] → r.compact = none → r.claims = [] →
      (∀ x ∈ s.groups, x.2.blk = b → x.2.staged = []) → s.liveGroups b ≠ [] →
      ∃ t c, exec (.blockQuantumEnd b) s = .next t ∧ t.block? b = some c ∧ c.ends = r.ends + 1 ∧ c.pool = r.pool ∧ c.poolSeen = r.pool ∧
        c.later = [] ∧
        ∀ k g, s.group? k = some g → g.blk = b → g.st = .waiting .quantum → ∃ h, t.group? k = some h ∧
          h.st = (if g.sapwood then .active else .parked) ∧ h.qcount = 0 ∧ h.quantumDone = false ∧ h.past = false ∧ h.pc = g.pc ∧
          (∀ n d, r.bwdog = 0 → r.later = [{ job := n, gid := k, due := some d }] → h.due = g.due ++ [d]) ∧
          ∀ l x, (h.lane l).reg x = (g.lane l).reg x) ∧
    (∀ b r n k d g, s.block? b = some r → r.solstice = true → r.gone = false → r.detached = none → s.dev.life ≠ .cold →
      (s.part r.part).st = .running → s.seesFaults b r = true → r.later = [{ job := n, gid := k, due := some d }] → s.group? k = some g → g.blk = b →
      g.st ≠ .retired → exec (.blockQuantumEnd b) s = .next ((s.setBlock b { r with later := [] }).updGroup k (fun g => { g with due := g.due ++ [d] }))) ∧
    (∀ b r gid g first, s.block? b = some r → r.solstice = true → r.gone = false → r.detached = none → s.dev.life ≠ .cold →
      (s.part r.part).st = .running → s.quantumReady b r = true → r.later = [] → s.nodes = [] → r.compact = none → r.claims = [] → r.ancestors = [] →
      (∀ x ∈ s.blocks, x.2.commits = []) → (∀ l x, r.root = some l → s.launch? l = some x → x.live ≠ 0) →
      s.groupsOf b = [(gid, g)] → s.group? gid = some g → g.st = .waiting .quantum →
      (∀ o ∈ g.staged, (∃ cs, o = .write cs) ∨ (∃ op u n scope vr ls, o = .rmw op u true n scope vr ls) ∨ ∃ ls, o = .dec ls) →
      first = s.allBefore r.root (r.commitKey (r.ends + 1)) →
      ∃ t c h, exec (.blockQuantumEnd b) s = .next t ∧ t.block? b = some c ∧ t.group? gid = some h ∧ h.staged = [] ∧ h.qcount = 0 ∧ h.pc = g.pc ∧
        c.base = r.base.map (fun m => g.staged.foldl Staged.onView m) ∧
        c.commits = [{ quantum := r.ends + 1, ops := g.staged.map (fun o => (gid, o)), released := first }] ∧
        (first = false → t.mem = s.mem) ∧ (first = true → t.mem = (g.staged.foldl State.releaseOp s).mem)) ∧
    (∀ b r, s.block? b = some r → r.later = [] → s.liveGroups b ≠ [] → (∀ x ∈ s.liveGroups b, x.2.quantumDone = false) → r.retiredCount = r.endCount →
      r.again = 0 → exec (.blockQuantumEnd b) s = .next s) ∧
    (∀ b r, s.block? b = some r → r.later = [] → (∃ x ∈ s.groups, x.2.blk = b ∧ ∃ o ∈ x.2.staged, o.returning = true) →
      s.allBefore r.root (r.commitKey (r.ends + 1)) = false → exec (.blockQuantumEnd b) s = .next s) ∧
    (∀ l, s.nextRelease (some l) = none → exec (.ticketRelease l) s = .next s) ∧
    (∀ l b k, s.nextRelease (some l) = some (b, k) →
      (∃ x ∈ s.blocks, x.1 = b ∧ x.2.root = some l ∧ s.allBefore (some l) (x.2.commitKey k) = true ∧
        (∃ c ∈ x.2.commits, c.quantum = k ∧ c.released = false) ∧
        ∀ y ∈ s.blocks, y.2.root = some l → y.2.solstice = true → ∀ c ∈ y.2.commits,
          ticketLt (y.2.commitKey c.quantum) (x.2.commitKey k) = true → c.released = true ∧ s.jobsDone y.1 c.quantum = true) ∧
      exec (.ticketRelease l) s = .next ((s.release b k).releaseAll (some l) s.commitCount)) ∧
    (∀ l b k r c gid cs, s.block? b = some r → r.root = some l → r.commits.find? (fun c => c.quantum == k) = some c → c.ops = [(gid, .write cs)] →
      (∀ x, s.launch? l = some x → x.live ≠ 0) → (s.release b k).mem = (s.storeCells cs none).mem)

/-- R357, R358, R371, R396 to R398, R406, R408, R412, R415: a write reaches its register, is ignored in COLD and while groups are resident
where the rule says so, and moves a locked interface to ERROR; a read clears the registers that it clears; a shootdown removes the
partition's cached translations and drops the limits of its address registers (it is over when no staged access of the partition is left:
log entry 55); a host request stores its bytes, or, where the matrix row of its port or HOSTMEM forbids it, is counted; a failed bank is
marked, and reported with STRUCT of its array (R372); a scrub changes nothing that a program can see. -/
def Obligations.RegistersOfTheDevice : Prop :=
  ∀ s : State,
    (∀ r x, s.dev.life = .cold → exec (.registerWrite r x) s = .next s) ∧
    (∀ r x, s.dev.life ≠ .cold → s.lockers r x = [] → exec (.registerWrite r x) s = .next (s.writeReg r x)) ∧
    (∀ r x v, s.dev.life ≠ .cold → s.lockers r x = [v] → (s.vf v).tdisp ≠ .unlocked →
      ∃ t, exec (.registerWrite r x) s = .next t ∧ (t.vf v).tdisp = .error) ∧
    (∀ p x, p < 40 → s.dev.life ≠ .cold → (Table.get? s.parts p).isSome = true → s.lockedVfs p = [] →
      exec (.registerWrite (.pf (0x50030 + 0x100 * p)) x) s = .next (s.updPart p (fun r => { r with hvec := x }))) ∧
    (∀ v p x, v < 192 → s.dev.life ≠ .cold → s.vfPart v = some p → s.lockedVfs p = [] →
      (s.anyResident p = false → exec (.registerWrite (.vf v 0x0800) x) s =
        .next (s.updPart p (fun r => { r with troot := BitVec.ofNat 64 (x.toNat % 2^52 / 4096 * 4096) }))) ∧
      (s.anyResident p = true → exec (.registerWrite (.vf v 0x0800) x) s = .next s)) ∧
    exec .lviolRead s = .next { s with dev := { s.dev with lviol := 0 } } ∧
    exec .evlostRead s = .next { s with dev := { s.dev with evlost := 0 } } ∧
    (∀ p, (Table.get? s.parts p).isSome = true → exec (.drlostRead p) s = .next (s.updPart p (fun r => { r with drlost := 0 }))) ∧
    (∀ v p, s.dev.life ≠ .cold → s.vfPart v = some p → s.lockedVfs p = [] → ∃ t, exec (.tlbsdGo v) s = .next t ∧ t.mem = s.mem ∧
      (t.part p).tlbsd = s.stagedIn p ∧ (t.part p).tlb = [] ∧ ∀ k g b, s.group? k = some g → s.block? g.blk = some b → b.part = p → ∃ h, t.group? k = some h ∧ h.pc = g.pc ∧
        ∀ r, r < 8 → (h.areg r).limit = 0 ∧ (h.areg r).base = (g.areg r).base) ∧
    (∀ x n p k, s.dev.life = .full → k = x.off / Config.blockBytes → k < Config.blocks → p = bmapEntry s.dev k % 256 → p ≠ 0xFF →
      (∀ bs : List Byte, x.off % Config.blockBytes + bs.length ≤ Config.blockBytes →
        ((s.part p).hostmem = true → rowAllows s.dev (92 + x.port % 2) k = true → ∃ t, exec (.hostMemRequest x n (some bs)) s = .next t ∧
          readBytes t.mem x.off bs.length = bs ∧ (∀ a, a < x.off ∨ x.off + bs.length ≤ a → readByte t.mem a = readByte s.mem a) ∧ t.dev = s.dev) ∧
        ((s.part p).hostmem = false ∨ rowAllows s.dev (92 + x.port % 2) k = false → ∃ t, exec (.hostMemRequest x n (some bs)) s = .next t ∧
          t.dev.lviol = s.dev.lviol + 1)) ∧
      (x.off % Config.blockBytes + n ≤ Config.blockBytes → (s.part p).hostmem = true → rowAllows s.dev (92 + x.port % 2) k = true →
        exec (.hostMemRequest x n none) s = .next s)) ∧
    (∀ x n w, bmapEntry s.dev (x.off / Config.blockBytes) % 256 = 0xFF → exec (.hostMemRequest x n w) s = .next s) ∧
    (∀ a b, (a, b) ∉ s.dev.failed → ∃ t, exec (.bankFailedMark a b) s = .next t ∧ t.dev.failed = s.dev.failed ++ [(a, b)] ∧
      t.dev.repairs = s.dev.repairs ++ [.bank a b]) ∧
    (∀ a b d q, (a, b) ∉ s.dev.failed → sramStruct a = some d → sramQuad a = some q →
      ∀ u : State, u = { s with dev := { s.dev with failed := s.dev.failed ++ [(a, b)], repairs := s.dev.repairs ++ [.bank a b] } } →
        exec (.bankFailedMark a b) s = .next (u.event { code := 0x282, part := holderOf s.dev q, detail := d })) ∧
    (∀ n, sramStruct (.l2 n) = some 2 ∧ sramStruct (.coreTiles n) = some 3 ∧ sramStruct (.quadTiles n) = some 4 ∧
      sramStruct (.sapwood n) = some 5 ∧ sramStruct (.heartwood n) = some 6 ∧ sramStruct (.lathe n) = some 7 ∧
      sramQuad (.sapwood n) = some (n / 4) ∧ sramQuad (.lathe n) = some n) ∧
    exec .scrubPass s = .next s

/-- R399 to R402, R405: PREPARE passes its checks (ERR then stays as it was: log entry 75) or gives the code of the first that fails; FLIP
exchanges the layouts; an abort gives the shadow up and a confirmation counts; the watchdog's reset does the one or the other; a capacity
move asks, moves the donor's highest blocks zeroed when any interface of the donor acknowledges (log entry 76), or gives its reason; a
quad's retirement is recorded with the spare that takes its place, gives up a prepared layout, or waits while a layout is flipped. -/
def Obligations.LayoutJournal : Prop :=
  ∀ s : State,
    (s.dev.life ≠ .cold → s.dev.journal = .done →
      (∀ c, s.prepareFails = some c → exec .lcmdPrepare s = .next { s with dev := { s.dev with jerr := c } }) ∧
      (s.prepareFails = none → exec .lcmdPrepare s = .next { s with dev := { s.dev with journal := .prepared } })) ∧
    (s.dev.journal ≠ .done → exec .lcmdPrepare s = .next s) ∧
    (s.dev.life ≠ .cold → s.dev.journal = .prepared → ∃ t, exec .lcmdFlip s = .next t ∧ t.dev.journal = .flipped ∧ t.dev.pown = s.dev.spown ∧
      t.dev.cm = s.dev.scm ∧ t.dev.bmap = s.dev.sbmap ∧ t.dev.spown = s.dev.pown ∧ t.dev.scm = s.dev.cm ∧ t.dev.sbmap = s.dev.bmap ∧
      t.dev.jseq = s.dev.jseq ∧ t.dev.attested = false) ∧
    (∀ i, (i = .lcmdAbort ∧ s.dev.life ≠ .cold ∨ i = .mpWatchdogReset) → s.dev.journal = .prepared → s.dev.retiring = [] → s.dev.capmove = none →
      exec i s = .next { s with dev := { s.dev with journal := .done, scm := s.dev.cm, spown := s.dev.pown, sbmap := s.dev.bmap } }) ∧
    (∀ i, (i = .layoutConfirm ∨ i = .mpWatchdogReset) → s.dev.journal = .flipped → s.dev.retiring = [] → s.dev.capmove = none →
      exec i s = .next { s with dev := { s.dev with journal := .done, jseq := s.dev.jseq + 1, scm := s.dev.cm, spown := s.dev.pown, sbmap := s.dev.bmap } }) ∧
    (s.dev.journal = .done → exec .mpWatchdogReset s = .next s) ∧
    (∀ (v : W64) (m : CapMove), m = { donor := v.toNat % 256, receiver := v.toNat / 2^8 % 256, n := v.toNat / 2^16 % 512 } → s.dev.life = .full →
      v.toNat / 2^25 = 0 → (Table.get? s.parts m.donor).isSome = true → (Table.get? s.parts m.receiver).isSome = true → m.donor ≠ m.receiver →
      m.n ≠ 0 → s.dev.capmove = none →
      (s.capFails m = none → ∃ t, exec (.capmove v) s = .next t ∧ t.dev.capmove = some m ∧ t.dev.bmap = s.dev.bmap ∧ t.mem = s.mem ∧
        ∀ k, k ∈ s.vfsOf m.donor → (t.vf k).capreq = capreqWord 1 m.n ∧ (t.vf k).capack = false) ∧
      (∀ c, s.capFails m = some c → ∃ t, exec (.capmove v) s = .next t ∧ t.dev.capmove = none ∧ t.dev.capstat = c ∧ t.dev.bmap = s.dev.bmap)) ∧
    (∀ m, s.dev.capmove = some m →
      (∀ v, (s.vf v).bind = m.donor → s.dev.journal = .done → s.capFails m = none → ∃ t, exec (.capack v) s = .next t ∧ t.dev.capstat = 0 ∧
        t.dev.capmove = none ∧ t.dev.jseq = s.dev.jseq + 2 ∧
        (∀ b ∈ topBlocks s.dev m.donor m.n, ∀ a, b.2 * Config.blockBytes ≤ a → a < (b.2 + 1) * Config.blockBytes → readByte t.mem a = 0) ∧
        (∀ i k, topBlocks s.dev m.donor m.n = [(i, k)] →
          bmapEntry t.dev k = 256 * (partBlocks s.dev m.receiver).length + m.receiver)) ∧
      (∀ v c, (s.vf v).bind = m.donor → s.dev.journal = .done → s.capFails m = some c → ∃ t, exec (.capack v) s = .next t ∧ t.dev.capstat = c ∧
        t.dev.capmove = none ∧ t.dev.bmap = s.dev.bmap ∧ t.mem = s.mem) ∧
      ((∀ v ∈ s.vfsOf m.donor, (s.vf v).capack = false) → ∃ t, exec .capmoveTimeout s = .next t ∧ t.dev.capstat = 2 ∧ t.dev.capmove = none ∧
        t.dev.bmap = s.dev.bmap ∧ t.mem = s.mem)) ∧
    (∀ q, q < 80 → s.dev.life = .full →
      (s.dev.journal = .flipped → exec (.quadRetirement q false) s = .next { s with dev := { s.dev with retiring := s.dev.retiring ++ [(q, false)] } }) ∧
      (failedOn s.dev (dieOf q) = 0 → (Table.get? s.parts (holderOf s.dev q)).isSome = false → (∀ l ∈ s.dev.loans, q ∉ l.quads) →
        (s.dev.journal = .done → exec (.quadRetirement q false) s = .next { s with dev := { s.dev with
          repairs := s.dev.repairs ++ [.quad q], remaps := s.dev.remaps ++ [.quad q] } }) ∧
        (s.dev.journal = .prepared → s.dev.capmove = none → exec (.quadRetirement q false) s = .next { s with dev := { s.dev with
          journal := .done, jerr := 4, scm := s.dev.cm, spown := s.dev.pown, sbmap := s.dev.bmap
          repairs := s.dev.repairs ++ [.quad q], remaps := s.dev.remaps ++ [.quad q] } })))

/-- R411 to R416: an interface locks, runs, stops with its partition wiped when it was the last that was locked there, and falls to ERROR
when its stream fails; the root of trust signs the digest of a measurement (of the form of log entry 81), and that of the layout attests
it; a reset wipes all but the repair record and host memory; firmware whose signatures verify (log entry 81) makes partition 0 of die 0,
its quads at 750 MHz (the other islands are log entry 101's), and repairs what it finds; GO and finished training make the machine FULL,
wiped. The model's choices: host memory survives a reset, a STOP wipes the partition's nodes too, memory block 0 is THAW's (log entry 83),
and wiped memory reads as 0 (log entry 12). -/
def Obligations.TdispAndLifeCycle : Prop :=
  ∀ s : State,
    (∀ v, (s.vf v).tdisp = .unlocked → (s.vfPart v).isSome = true →
      exec (.lockInterfaceRequest v) s = .next (s.updVf v (fun r => { r with tdisp := .locked }))) ∧
    (∀ v, (s.vf v).tdisp ≠ .unlocked → exec (.lockInterfaceRequest v) s = .next s) ∧
    (∀ v, (s.vf v).tdisp = .locked → exec (.startInterfaceRequest v) s = .next (s.updVf v (fun r => { r with tdisp := .run }))) ∧
    (∀ v, (s.vf v).tdisp ≠ .locked → exec (.startInterfaceRequest v) s = .next s) ∧
    (∀ v, ∃ t, exec (.stopInterfaceRequest v) s = .next t ∧ (t.vf v).tdisp = .unlocked) ∧
    (∀ v p, ((s.vf v).tdisp = .run ∨ (s.vf v).tdisp = .error) → s.vfPart v = some p → (∀ k ∈ s.lockedVfs p, k = v) → s.launches = [] → s.walkers = [] →
      ∃ t, exec (.stopInterfaceRequest v) s = .next t ∧ (∀ e ∈ t.estates, e.part ≠ p) ∧ (∀ x ∈ t.nodes, x.2.part ≠ p) ∧
        (∀ b ∈ partBlocks s.dev p, ∀ a, b.2 * Config.blockBytes ≤ a → a < (b.2 + 1) * Config.blockBytes → readByte t.mem a = 0) ∧
        (∀ k g, s.group? k = some g → s.partOf g = p → ∃ h, t.group? k = some h ∧ (∀ l r, (h.lane l).reg r = Reg.zero) ∧
          (∀ r, h.sreg r = 0) ∧ (∀ r, h.areg r = {}) ∧ h.fpstat = 0 ∧ h.qcount = 0) ∧
        (∀ k b, s.block? k = some b → b.part = p → ∃ c, t.block? k = some c ∧ c.bwdog = 0 ∧ ∀ x ∈ c.tiles, x.2.data = [])) ∧
    (∀ v, ((s.vf v).tdisp = .locked ∨ (s.vf v).tdisp = .run) → ∃ t, exec (.ideStreamFailure v) s = .next t ∧ (t.vf v).tdisp = .error) ∧
    (∀ v, (s.vf v).tdisp = .unlocked → exec (.ideStreamFailure v) s = .next s) ∧
    (∀ v i bs, s.measured v i = some bs → exec (.spdmRequest v i) s = .next { s with dev := { s.dev with
      attested := s.dev.attested || i == 4
      spdm := some { vf := v, index := i, digest := Config.sha512 bs, sig := Config.ecdsaSign Config.identityKey (Config.sha512 bs) } } }) ∧
    (∀ v i, (s.measured v i).isSome = (decide (i = 3 ∨ i = 4) || (decide (i = 1 ∨ i = 2) && s.dev.firmware.isSome) ||
      (decide (i = 5) && (s.vfPart v).isSome))) ∧
    (∃ t, exec .deviceReset s = .next t ∧ t.dev.life = .cold ∧ t.dev.repairs = s.dev.repairs ∧ t.dev.journal = .done ∧ t.groups = [] ∧ t.blocks = [] ∧
      t.jobs = [] ∧ t.launches = [] ∧ t.nodes = [] ∧ t.estates = [] ∧ t.parts = [] ∧ t.quads = [] ∧ t.vfs = [] ∧
      (∀ a, a < hostBase → readByte t.mem a = 0) ∧ (∀ a, hostBase ≤ a → readByte t.mem a = readByte s.mem a)) ∧
    (∀ b : Boot, ∃ t, exec (.firmwareVerify b) s = .next t ∧ if bootSigned b = true ∧ s.dev.life = .cold then
      t.dev.life = .thaw ∧ t.parts = [(0, {})] ∧
      t.dev.pown = (thawQuads t.dev).map (fun q => (q, 0)) ∧ t.dev.bmap = [(0, 0)] ∧ t.dev.spown = t.dev.pown ∧ t.groups = [] ∧
      t.dev.firmware = some (b.rot.bytes, b.mp.bytes) ∧ (∀ r, r ∈ t.dev.repairs ↔ r ∈ s.dev.repairs ∨ r ∈ b.found) ∧ t.dev.remaps = t.dev.repairs ∧
      (∀ i, Sparse.get 1500 t.dev.clocks i = if i < 80 then 750 else 1500) ∧ (∀ a, a < hostBase → readByte t.mem a = 0) else t = s) ∧
    (∀ b : Boot, bootSigned b = true ↔ ∀ f, (f = b.rot ∨ f = b.mp) →
      Config.ecdsaVerify Config.firmwareKey (Config.sha512 f.bytes) f.sig = true) ∧
    (∀ v f, s.dev.firmware = some f → s.measured v 1 = some f.1 ∧ s.measured v 2 = some f.2) ∧
    (s.dev.life = .thaw → exec .lcsGo s = .next { s with dev := { s.dev with go := true } }) ∧
    (s.dev.life = .thaw → s.dev.go = true → ∃ t, exec .enterFull s = .next t ∧ t.dev.life = .full ∧ t.dev.go = false ∧ t.dev.trained = true ∧
      t.dev.repairs = s.dev.repairs ∧ t.dev.firmware = s.dev.firmware ∧ t.dev.absent = s.dev.absent ∧ t.dev.clocks = [] ∧ t.groups = [] ∧
      t.blocks = [] ∧ t.parts = [] ∧ ∀ a, a < hostBase → readByte t.mem a = 0) ∧
    (s.dev.life ≠ .thaw → exec .enterFull s = .next s ∧ exec .lcsGo s = .next s)
end

