-- ==== Sys2Proof/Laws/Sparse.lean ====
section
/-! SUPPORT. Laws of the sparse lists and the tables: a read after a write, and the canonical form. -/

namespace Sys2Proof.Machine

variable {β : Type}

theorem Sparse.get_filter_ne [DecidableEq β] (d : β) (m : List (Nat × β)) (k j : Nat) :
    Sparse.get d (m.filter (fun x => x.1 != k)) j = if j = k then d else Sparse.get d m j := by
  induction m with
  | nil => simp [Sparse.get]
  | cons x r ih =>
    obtain ⟨a, w⟩ := x
    by_cases h : a = k
    · subst h
      rw [List.filter_cons_of_neg (by simp), ih]
      by_cases hj : j = a
      · simp [hj]
      · have : a ≠ j := fun e => hj e.symm
        simp [Sparse.get, hj, this]
    · rw [List.filter_cons_of_pos (by simpa using h)]
      by_cases hj : a = j
      · subst hj; simp [Sparse.get, h]
      · simp [Sparse.get, hj, ih]

/-- A read after a write. -/
theorem Sparse.get_set [DecidableEq β] (d : β) (m : List (Nat × β)) (k j : Nat) (v : β) :
    Sparse.get d (Sparse.set d m k v) j = if j = k then v else Sparse.get d m j := by
  induction m with
  | nil =>
    by_cases hv : v = d <;> by_cases hj : j = k
    · simp [Sparse.set, Sparse.get, hv]
    · simp [Sparse.set, Sparse.get, hv]
    · simp [Sparse.set, Sparse.get, hv, hj]
    · have : k ≠ j := fun e => hj e.symm
      simp [Sparse.set, Sparse.get, hv, hj, this]
  | cons x r ih =>
    obtain ⟨a, w⟩ := x
    by_cases hk : k = a
    · subst hk
      by_cases hv : v = d
      · subst hv
        simp only [Sparse.set, if_true, Sparse.get_filter_ne]
        by_cases hj : j = k
        · simp [hj]
        · have : k ≠ j := fun e => hj e.symm
          simp [Sparse.get, hj, this]
      · by_cases hj : j = k
        · simp [Sparse.set, Sparse.get, hv, hj]
        · have : k ≠ j := fun e => hj e.symm
          simp [Sparse.set, Sparse.get, hv, hj, this]
    · simp only [Sparse.set, hk, if_false]
      split
      · by_cases hj : j = k
        · simp [Sparse.get, hj]
        · have : k ≠ j := fun e => hj e.symm
          simp [Sparse.get, hj, this]
      · by_cases ha : a = j
        · subst ha
          have : a ≠ k := fun e => hk e.symm
          simp [Sparse.get, this]
        · simp [Sparse.get, ha, ih]

@[simp] theorem Sparse.get_set_same [DecidableEq β] (d : β) (m : List (Nat × β)) (k : Nat) (v : β) :
    Sparse.get d (Sparse.set d m k v) k = v := by simp [Sparse.get_set]

theorem Sparse.get_set_ne [DecidableEq β] (d : β) (m : List (Nat × β)) {k j : Nat} (v : β) (h : j ≠ k) :
    Sparse.get d (Sparse.set d m k v) j = Sparse.get d m j := by simp [Sparse.get_set, h]

/-! ## The canonical form -/

/-- Keys lie above `lo`, rise, and no value is `d`: the proposition behind `wfFrom`. -/
theorem Sparse.wfFrom_cons [DecidableEq β] (d : β) (lo : Option Nat) (a : Nat) (v : β) (r : List (Nat × β)) :
    Sparse.wfFrom d lo ((a, v) :: r) = true ↔ (∀ b, lo = some b → b < a) ∧ v ≠ d ∧ Sparse.wfFrom d (some a) r = true := by
  cases lo <;> simp [Sparse.wfFrom, and_assoc]

theorem Sparse.wfFrom_mono [DecidableEq β] (d : β) {b a : Nat} (h : b < a) {r : List (Nat × β)}
    (hr : Sparse.wfFrom d (some a) r = true) : Sparse.wfFrom d (some b) r = true := by
  cases r with
  | nil => rfl
  | cons x r =>
    obtain ⟨c, v⟩ := x
    rw [Sparse.wfFrom_cons] at hr ⊢
    exact ⟨fun y hy => by cases hy; exact h.trans (hr.1 a rfl), hr.2⟩

/-- Dropping pairs keeps the canonical form. -/
theorem Sparse.wfFrom_filter [DecidableEq β] (d : β) (p : Nat × β → Bool) :
    ∀ {lo : Option Nat} {m : List (Nat × β)}, Sparse.wfFrom d lo m = true → Sparse.wfFrom d lo (m.filter p) = true
  | _, [], _ => rfl
  | lo, (a, v) :: r, h => by
    rw [Sparse.wfFrom_cons] at h
    by_cases hp : p (a, v) = true
    · rw [List.filter_cons_of_pos hp, Sparse.wfFrom_cons]
      exact ⟨h.1, h.2.1, Sparse.wfFrom_filter d p h.2.2⟩
    · rw [List.filter_cons_of_neg hp]
      have := Sparse.wfFrom_filter d p h.2.2
      cases lo with
      | none =>
        cases hf : r.filter p with
        | nil => rfl
        | cons x r' =>
          obtain ⟨c, w⟩ := x
          rw [hf, Sparse.wfFrom_cons] at this
          rw [Sparse.wfFrom_cons]
          exact ⟨(fun _ hb => nomatch hb), this.2⟩
      | some b => exact Sparse.wfFrom_mono d (h.1 b rfl) this

theorem Sparse.wf_filter [DecidableEq β] (d : β) (p : Nat × β → Bool) {m : List (Nat × β)} (h : Sparse.wf d m = true) :
    Sparse.wf d (m.filter p) = true := Sparse.wfFrom_filter d p h

/-- Writing the default below every key changes nothing. -/
theorem Sparse.wfFrom_erase [DecidableEq β] (d : β) (k : Nat) : ∀ {a : Nat} {r : List (Nat × β)},
    Sparse.wfFrom d (some a) r = true → k < a → Sparse.wfFrom d (some a) (Sparse.set d r k d) = true
  | _, [], _, _ => by simp [Sparse.set, Sparse.wfFrom]
  | a, (c, u) :: r, h, hk => by
    rw [Sparse.wfFrom_cons] at h
    have hac := h.1 a rfl
    have hne : k ≠ c := by omega
    simp only [Sparse.set, hne, if_false, ne_eq, not_true_eq_false, decide_false, Bool.and_false, Bool.false_eq_true]
    rw [Sparse.wfFrom_cons]
    exact ⟨h.1, h.2.1, Sparse.wfFrom_erase d k h.2.2 (by omega)⟩

theorem Sparse.wfFrom_set [DecidableEq β] (d : β) (k : Nat) (v : β) :
    ∀ {lo : Option Nat} {m : List (Nat × β)}, Sparse.wfFrom d lo m = true → (∀ b, lo = some b → b < k) →
      Sparse.wfFrom d lo (Sparse.set d m k v) = true
  | lo, [], _, hk => by
    by_cases hv : v = d
    · simp [Sparse.set, hv, Sparse.wfFrom]
    · simp only [Sparse.set, hv, if_false, Sparse.wfFrom_cons]
      exact ⟨hk, hv, rfl⟩
  | lo, (a, w) :: r, h, hk => by
    rw [Sparse.wfFrom_cons] at h
    unfold Sparse.set
    split
    · rename_i hka
      subst hka
      split
      · have hf := Sparse.wfFrom_filter d (fun x => x.1 != k) h.2.2
        cases lo with
        | none =>
          cases hr : r.filter (fun x => x.1 != k) with
          | nil => rfl
          | cons x r' =>
            obtain ⟨c, u⟩ := x
            rw [hr, Sparse.wfFrom_cons] at hf
            rw [Sparse.wfFrom_cons]
            exact ⟨(fun _ hb => nomatch hb), hf.2⟩
        | some b => exact Sparse.wfFrom_mono d (h.1 b rfl) hf
      · rename_i hv
        rw [Sparse.wfFrom_cons]
        exact ⟨h.1, hv, h.2.2⟩
    · split
      · rename_i hka hc
        simp only [Bool.and_eq_true, decide_eq_true_eq] at hc
        rw [Sparse.wfFrom_cons, Sparse.wfFrom_cons]
        exact ⟨hk, hc.2, fun b hb => by cases hb; exact hc.1, h.2⟩
      · rename_i hka hc
        rw [Sparse.wfFrom_cons]
        refine ⟨h.1, h.2.1, ?_⟩
        by_cases hlt : a < k
        · exact Sparse.wfFrom_set d k v h.2.2 (fun b hb => by cases hb; exact hlt)
        · have hv : v = d := by
            by_contra hv
            exact hc (by simp only [Bool.and_eq_true, decide_eq_true_eq]; exact ⟨by omega, hv⟩)
          subst hv
          exact Sparse.wfFrom_erase v k h.2.2 (by omega)

/-- A write keeps the canonical form. -/
theorem Sparse.wf_set [DecidableEq β] (d : β) {m : List (Nat × β)} (k : Nat) (v : β) (h : Sparse.wf d m = true) :
    Sparse.wf d (Sparse.set d m k v) = true := Sparse.wfFrom_set d k v h (fun _ hb => nomatch hb)

/-! ## Tables -/

@[simp] theorem Table.get?_put_same (m : List (Nat × β)) (k : Nat) (v : β) : Table.get? (Table.put m k v) k = some v := by
  induction m with
  | nil => simp [Table.put, Table.get?]
  | cons x r ih =>
    obtain ⟨a, w⟩ := x
    unfold Table.put
    split
    · simp [Table.get?]
    · split
      · simp [Table.get?]
      · rename_i h1 h2
        have : a ≠ k := fun e => h2 e.symm
        simp [Table.get?, this, ih]

theorem Table.get?_put_ne (m : List (Nat × β)) {k j : Nat} (v : β) (h : j ≠ k) :
    Table.get? (Table.put m k v) j = Table.get? m j := by
  induction m with
  | nil => simp [Table.put, Table.get?, Ne.symm h]
  | cons x r ih =>
    obtain ⟨a, w⟩ := x
    unfold Table.put
    split
    · simp [Table.get?, Ne.symm h]
    · split
      · rename_i h2; subst h2
        simp [Table.get?, Ne.symm h]
      · by_cases ha : a = j <;> simp [Table.get?, ha, ih]

theorem Table.get?_put (m : List (Nat × β)) (k j : Nat) (v : β) :
    Table.get? (Table.put m k v) j = if j = k then some v else Table.get? m j := by
  by_cases h : j = k
  · subst h; simp
  · simp [h, Table.get?_put_ne m v h]

theorem Table.get?_upd (m : List (Nat × β)) (k j : Nat) (f : β → β) :
    Table.get? (Table.upd m k f) j = if j = k then (Table.get? m j).map f else Table.get? m j := by
  induction m with
  | nil => simp [Table.upd, Table.get?]
  | cons x r ih =>
    obtain ⟨a, w⟩ := x
    unfold Table.upd
    split
    · rename_i h; subst h
      by_cases hj : j = a
      · subst hj; simp [Table.get?]
      · simp [Table.get?, hj, Ne.symm hj]
    · rename_i h
      by_cases hj : a = j
      · subst hj; simp [Table.get?, h]
      · simp [Table.get?, hj, ih]

theorem Table.get?_mapAll (m : List (Nat × β)) (k : Nat) (f : Nat → β → β) :
    Table.get? (Table.mapAll m f) k = (Table.get? m k).map (f k) := by
  induction m with
  | nil => simp [Table.mapAll, Table.get?]
  | cons x r ih =>
    obtain ⟨a, w⟩ := x
    by_cases h : a = k
    · subst h; simp [Table.mapAll, Table.get?]
    · simp only [Table.mapAll, List.map_cons, Table.get?, h, if_false]
      exact ih

theorem Table.mapAll_put (m : List (Nat × β)) (k : Nat) (v : β) (f : Nat → β → β) :
    Table.mapAll (Table.put m k v) f = Table.put (Table.mapAll m f) k (f k v) := by
  induction m with
  | nil => rfl
  | cons x r ih =>
    obtain ⟨a, w⟩ := x
    have hm : Table.mapAll ((a, w) :: r) f = (a, f a w) :: Table.mapAll r f := rfl
    rw [hm]
    unfold Table.put
    split
    · rfl
    · split
      · rfl
      · rw [← ih]; rfl

theorem Table.get?_del (m : List (Nat × β)) (k j : Nat) : Table.get? (Table.del m k) j = if j = k then none else Table.get? m j := by
  induction m with
  | nil => simp [Table.del, Table.get?]
  | cons x r ih =>
    obtain ⟨a, w⟩ := x
    by_cases h : a = k
    · subst h
      simp only [Table.del, List.filter_cons, bne_self_eq_false, Bool.false_eq_true, if_false] at ih ⊢
      rw [ih]; by_cases hj : j = a <;> simp [Table.get?, hj, eq_comm]
    · simp only [Table.del, List.filter_cons, bne_iff_ne, ne_eq, h, not_false_eq_true, if_true] at ih ⊢
      by_cases ha : a = j
      · subst ha; simp [Table.get?, h]
      · simp [Table.get?, ha, ih]

theorem Table.get?_del_ne (m : List (Nat × β)) {k j : Nat} (h : j ≠ k) : Table.get? (Table.del m k) j = Table.get? m j := by
  simp [Table.get?_del, h]

@[simp] theorem Table.get?_del_same (m : List (Nat × β)) (k : Nat) : Table.get? (Table.del m k) k = none := by simp [Table.get?_del]

theorem Table.put_put {β : Type} (m : List (Nat × β)) (k : Nat) (v w : β) : Table.put (Table.put m k v) k w = Table.put m k w := by
  induction m with
  | nil => simp [Table.put]
  | cons x r ih =>
    obtain ⟨a, u⟩ := x
    by_cases h1 : k < a
    · simp [Table.put, h1]
    · by_cases h2 : k = a
      · simp [Table.put, h2]
      · simp [Table.put, h1, h2, ih]

end Sys2Proof.Machine
end

