-- ==== Sys2Proof/Laws/State.lean ====
section
/-! SUPPORT. Laws of the state record: every field after every update of a table, and the lookups after them. -/

namespace Sys2Proof.Machine

variable (s : State)

/-! ## Fields -/

@[simp] theorem State.setGroup_mem (g : Nat) (r : Group) : (s.setGroup g r).mem = s.mem := rfl
@[simp] theorem State.setGroup_badCw (g : Nat) (r : Group) : (s.setGroup g r).badCw = s.badCw := rfl
@[simp] theorem State.setGroup_groups (g : Nat) (r : Group) : (s.setGroup g r).groups = Table.put s.groups g r := rfl
@[simp] theorem State.setGroup_blocks (g : Nat) (r : Group) : (s.setGroup g r).blocks = s.blocks := rfl
@[simp] theorem State.setGroup_jobs (g : Nat) (r : Group) : (s.setGroup g r).jobs = s.jobs := rfl
@[simp] theorem State.setGroup_launches (g : Nat) (r : Group) : (s.setGroup g r).launches = s.launches := rfl
@[simp] theorem State.setGroup_walkers (g : Nat) (r : Group) : (s.setGroup g r).walkers = s.walkers := rfl
@[simp] theorem State.setGroup_nodes (g : Nat) (r : Group) : (s.setGroup g r).nodes = s.nodes := rfl
@[simp] theorem State.setGroup_nodeGens (g : Nat) (r : Group) : (s.setGroup g r).nodeGens = s.nodeGens := rfl
@[simp] theorem State.setGroup_estates (g : Nat) (r : Group) : (s.setGroup g r).estates = s.estates := rfl
@[simp] theorem State.setGroup_nextWill (g : Nat) (r : Group) : (s.setGroup g r).nextWill = s.nextWill := rfl
@[simp] theorem State.setGroup_nextEntry (g : Nat) (r : Group) : (s.setGroup g r).nextEntry = s.nextEntry := rfl
@[simp] theorem State.setGroup_ticks (g : Nat) (r : Group) : (s.setGroup g r).ticks = s.ticks := rfl
@[simp] theorem State.setGroup_quads (g : Nat) (r : Group) : (s.setGroup g r).quads = s.quads := rfl
@[simp] theorem State.setGroup_cores (g : Nat) (r : Group) : (s.setGroup g r).cores = s.cores := rfl
@[simp] theorem State.setGroup_parts (g : Nat) (r : Group) : (s.setGroup g r).parts = s.parts := rfl
@[simp] theorem State.setGroup_vfs (g : Nat) (r : Group) : (s.setGroup g r).vfs = s.vfs := rfl
@[simp] theorem State.setGroup_dev (g : Nat) (r : Group) : (s.setGroup g r).dev = s.dev := rfl
@[simp] theorem State.setGroup_prefetchFaults (g : Nat) (r : Group) : (s.setGroup g r).prefetchFaults = s.prefetchFaults := rfl
@[simp] theorem State.setGroup_agenda (g : Nat) (r : Group) : (s.setGroup g r).agenda = s.agenda := rfl
@[simp] theorem State.setGroup_cur (g : Nat) (r : Group) : (s.setGroup g r).cur = s.cur := rfl
@[simp] theorem State.setGroup_free (g : Nat) (r : Group) : (s.setGroup g r).free = s.free := rfl

@[simp] theorem State.updGroup_mem (g : Nat) (f : Group → Group) : (s.updGroup g f).mem = s.mem := rfl
@[simp] theorem State.updGroup_badCw (g : Nat) (f : Group → Group) : (s.updGroup g f).badCw = s.badCw := rfl
@[simp] theorem State.updGroup_groups (g : Nat) (f : Group → Group) : (s.updGroup g f).groups = Table.upd s.groups g f := rfl
@[simp] theorem State.updGroup_blocks (g : Nat) (f : Group → Group) : (s.updGroup g f).blocks = s.blocks := rfl
@[simp] theorem State.updGroup_jobs (g : Nat) (f : Group → Group) : (s.updGroup g f).jobs = s.jobs := rfl
@[simp] theorem State.updGroup_launches (g : Nat) (f : Group → Group) : (s.updGroup g f).launches = s.launches := rfl
@[simp] theorem State.updGroup_walkers (g : Nat) (f : Group → Group) : (s.updGroup g f).walkers = s.walkers := rfl
@[simp] theorem State.updGroup_nodes (g : Nat) (f : Group → Group) : (s.updGroup g f).nodes = s.nodes := rfl
@[simp] theorem State.updGroup_nodeGens (g : Nat) (f : Group → Group) : (s.updGroup g f).nodeGens = s.nodeGens := rfl
@[simp] theorem State.updGroup_estates (g : Nat) (f : Group → Group) : (s.updGroup g f).estates = s.estates := rfl
@[simp] theorem State.updGroup_nextWill (g : Nat) (f : Group → Group) : (s.updGroup g f).nextWill = s.nextWill := rfl
@[simp] theorem State.updGroup_nextEntry (g : Nat) (f : Group → Group) : (s.updGroup g f).nextEntry = s.nextEntry := rfl
@[simp] theorem State.updGroup_ticks (g : Nat) (f : Group → Group) : (s.updGroup g f).ticks = s.ticks := rfl
@[simp] theorem State.updGroup_quads (g : Nat) (f : Group → Group) : (s.updGroup g f).quads = s.quads := rfl
@[simp] theorem State.updGroup_cores (g : Nat) (f : Group → Group) : (s.updGroup g f).cores = s.cores := rfl
@[simp] theorem State.updGroup_parts (g : Nat) (f : Group → Group) : (s.updGroup g f).parts = s.parts := rfl
@[simp] theorem State.updGroup_vfs (g : Nat) (f : Group → Group) : (s.updGroup g f).vfs = s.vfs := rfl
@[simp] theorem State.updGroup_dev (g : Nat) (f : Group → Group) : (s.updGroup g f).dev = s.dev := rfl
@[simp] theorem State.updGroup_prefetchFaults (g : Nat) (f : Group → Group) : (s.updGroup g f).prefetchFaults = s.prefetchFaults := rfl
@[simp] theorem State.updGroup_agenda (g : Nat) (f : Group → Group) : (s.updGroup g f).agenda = s.agenda := rfl
@[simp] theorem State.updGroup_cur (g : Nat) (f : Group → Group) : (s.updGroup g f).cur = s.cur := rfl
@[simp] theorem State.updGroup_free (g : Nat) (f : Group → Group) : (s.updGroup g f).free = s.free := rfl

@[simp] theorem State.setBlock_mem (b : Nat) (r : Block) : (s.setBlock b r).mem = s.mem := rfl
@[simp] theorem State.setBlock_badCw (b : Nat) (r : Block) : (s.setBlock b r).badCw = s.badCw := rfl
@[simp] theorem State.setBlock_groups (b : Nat) (r : Block) : (s.setBlock b r).groups = s.groups := rfl
@[simp] theorem State.setBlock_blocks (b : Nat) (r : Block) : (s.setBlock b r).blocks = Table.put s.blocks b r := rfl
@[simp] theorem State.setBlock_jobs (b : Nat) (r : Block) : (s.setBlock b r).jobs = s.jobs := rfl
@[simp] theorem State.setBlock_launches (b : Nat) (r : Block) : (s.setBlock b r).launches = s.launches := rfl
@[simp] theorem State.setBlock_walkers (b : Nat) (r : Block) : (s.setBlock b r).walkers = s.walkers := rfl
@[simp] theorem State.setBlock_nodes (b : Nat) (r : Block) : (s.setBlock b r).nodes = s.nodes := rfl
@[simp] theorem State.setBlock_nodeGens (b : Nat) (r : Block) : (s.setBlock b r).nodeGens = s.nodeGens := rfl
@[simp] theorem State.setBlock_estates (b : Nat) (r : Block) : (s.setBlock b r).estates = s.estates := rfl
@[simp] theorem State.setBlock_nextWill (b : Nat) (r : Block) : (s.setBlock b r).nextWill = s.nextWill := rfl
@[simp] theorem State.setBlock_nextEntry (b : Nat) (r : Block) : (s.setBlock b r).nextEntry = s.nextEntry := rfl
@[simp] theorem State.setBlock_ticks (b : Nat) (r : Block) : (s.setBlock b r).ticks = s.ticks := rfl
@[simp] theorem State.setBlock_quads (b : Nat) (r : Block) : (s.setBlock b r).quads = s.quads := rfl
@[simp] theorem State.setBlock_cores (b : Nat) (r : Block) : (s.setBlock b r).cores = s.cores := rfl
@[simp] theorem State.setBlock_parts (b : Nat) (r : Block) : (s.setBlock b r).parts = s.parts := rfl
@[simp] theorem State.setBlock_vfs (b : Nat) (r : Block) : (s.setBlock b r).vfs = s.vfs := rfl
@[simp] theorem State.setBlock_dev (b : Nat) (r : Block) : (s.setBlock b r).dev = s.dev := rfl
@[simp] theorem State.setBlock_prefetchFaults (b : Nat) (r : Block) : (s.setBlock b r).prefetchFaults = s.prefetchFaults := rfl
@[simp] theorem State.setBlock_agenda (b : Nat) (r : Block) : (s.setBlock b r).agenda = s.agenda := rfl
@[simp] theorem State.setBlock_cur (b : Nat) (r : Block) : (s.setBlock b r).cur = s.cur := rfl
@[simp] theorem State.setBlock_free (b : Nat) (r : Block) : (s.setBlock b r).free = s.free := rfl

@[simp] theorem State.updBlock_mem (b : Nat) (f : Block → Block) : (s.updBlock b f).mem = s.mem := rfl
@[simp] theorem State.updBlock_badCw (b : Nat) (f : Block → Block) : (s.updBlock b f).badCw = s.badCw := rfl
@[simp] theorem State.updBlock_groups (b : Nat) (f : Block → Block) : (s.updBlock b f).groups = s.groups := rfl
@[simp] theorem State.updBlock_blocks (b : Nat) (f : Block → Block) : (s.updBlock b f).blocks = Table.upd s.blocks b f := rfl
@[simp] theorem State.updBlock_jobs (b : Nat) (f : Block → Block) : (s.updBlock b f).jobs = s.jobs := rfl
@[simp] theorem State.updBlock_launches (b : Nat) (f : Block → Block) : (s.updBlock b f).launches = s.launches := rfl
@[simp] theorem State.updBlock_walkers (b : Nat) (f : Block → Block) : (s.updBlock b f).walkers = s.walkers := rfl
@[simp] theorem State.updBlock_nodes (b : Nat) (f : Block → Block) : (s.updBlock b f).nodes = s.nodes := rfl
@[simp] theorem State.updBlock_nodeGens (b : Nat) (f : Block → Block) : (s.updBlock b f).nodeGens = s.nodeGens := rfl
@[simp] theorem State.updBlock_estates (b : Nat) (f : Block → Block) : (s.updBlock b f).estates = s.estates := rfl
@[simp] theorem State.updBlock_nextWill (b : Nat) (f : Block → Block) : (s.updBlock b f).nextWill = s.nextWill := rfl
@[simp] theorem State.updBlock_nextEntry (b : Nat) (f : Block → Block) : (s.updBlock b f).nextEntry = s.nextEntry := rfl
@[simp] theorem State.updBlock_ticks (b : Nat) (f : Block → Block) : (s.updBlock b f).ticks = s.ticks := rfl
@[simp] theorem State.updBlock_quads (b : Nat) (f : Block → Block) : (s.updBlock b f).quads = s.quads := rfl
@[simp] theorem State.updBlock_cores (b : Nat) (f : Block → Block) : (s.updBlock b f).cores = s.cores := rfl
@[simp] theorem State.updBlock_parts (b : Nat) (f : Block → Block) : (s.updBlock b f).parts = s.parts := rfl
@[simp] theorem State.updBlock_vfs (b : Nat) (f : Block → Block) : (s.updBlock b f).vfs = s.vfs := rfl
@[simp] theorem State.updBlock_dev (b : Nat) (f : Block → Block) : (s.updBlock b f).dev = s.dev := rfl
@[simp] theorem State.updBlock_prefetchFaults (b : Nat) (f : Block → Block) : (s.updBlock b f).prefetchFaults = s.prefetchFaults := rfl
@[simp] theorem State.updBlock_agenda (b : Nat) (f : Block → Block) : (s.updBlock b f).agenda = s.agenda := rfl
@[simp] theorem State.updBlock_cur (b : Nat) (f : Block → Block) : (s.updBlock b f).cur = s.cur := rfl
@[simp] theorem State.updBlock_free (b : Nat) (f : Block → Block) : (s.updBlock b f).free = s.free := rfl

@[simp] theorem State.setJob_mem (j : Nat) (r : Job) : (s.setJob j r).mem = s.mem := rfl
@[simp] theorem State.setJob_badCw (j : Nat) (r : Job) : (s.setJob j r).badCw = s.badCw := rfl
@[simp] theorem State.setJob_groups (j : Nat) (r : Job) : (s.setJob j r).groups = s.groups := rfl
@[simp] theorem State.setJob_blocks (j : Nat) (r : Job) : (s.setJob j r).blocks = s.blocks := rfl
@[simp] theorem State.setJob_jobs (j : Nat) (r : Job) : (s.setJob j r).jobs = Table.put s.jobs j r := rfl
@[simp] theorem State.setJob_launches (j : Nat) (r : Job) : (s.setJob j r).launches = s.launches := rfl
@[simp] theorem State.setJob_walkers (j : Nat) (r : Job) : (s.setJob j r).walkers = s.walkers := rfl
@[simp] theorem State.setJob_nodes (j : Nat) (r : Job) : (s.setJob j r).nodes = s.nodes := rfl
@[simp] theorem State.setJob_nodeGens (j : Nat) (r : Job) : (s.setJob j r).nodeGens = s.nodeGens := rfl
@[simp] theorem State.setJob_estates (j : Nat) (r : Job) : (s.setJob j r).estates = s.estates := rfl
@[simp] theorem State.setJob_nextWill (j : Nat) (r : Job) : (s.setJob j r).nextWill = s.nextWill := rfl
@[simp] theorem State.setJob_nextEntry (j : Nat) (r : Job) : (s.setJob j r).nextEntry = s.nextEntry := rfl
@[simp] theorem State.setJob_ticks (j : Nat) (r : Job) : (s.setJob j r).ticks = s.ticks := rfl
@[simp] theorem State.setJob_quads (j : Nat) (r : Job) : (s.setJob j r).quads = s.quads := rfl
@[simp] theorem State.setJob_cores (j : Nat) (r : Job) : (s.setJob j r).cores = s.cores := rfl
@[simp] theorem State.setJob_parts (j : Nat) (r : Job) : (s.setJob j r).parts = s.parts := rfl
@[simp] theorem State.setJob_vfs (j : Nat) (r : Job) : (s.setJob j r).vfs = s.vfs := rfl
@[simp] theorem State.setJob_dev (j : Nat) (r : Job) : (s.setJob j r).dev = s.dev := rfl
@[simp] theorem State.setJob_prefetchFaults (j : Nat) (r : Job) : (s.setJob j r).prefetchFaults = s.prefetchFaults := rfl
@[simp] theorem State.setJob_agenda (j : Nat) (r : Job) : (s.setJob j r).agenda = s.agenda := rfl
@[simp] theorem State.setJob_cur (j : Nat) (r : Job) : (s.setJob j r).cur = s.cur := rfl
@[simp] theorem State.setJob_free (j : Nat) (r : Job) : (s.setJob j r).free = s.free := rfl

@[simp] theorem State.updJob_mem (j : Nat) (f : Job → Job) : (s.updJob j f).mem = s.mem := rfl
@[simp] theorem State.updJob_badCw (j : Nat) (f : Job → Job) : (s.updJob j f).badCw = s.badCw := rfl
@[simp] theorem State.updJob_groups (j : Nat) (f : Job → Job) : (s.updJob j f).groups = s.groups := rfl
@[simp] theorem State.updJob_blocks (j : Nat) (f : Job → Job) : (s.updJob j f).blocks = s.blocks := rfl
@[simp] theorem State.updJob_jobs (j : Nat) (f : Job → Job) : (s.updJob j f).jobs = Table.upd s.jobs j f := rfl
@[simp] theorem State.updJob_launches (j : Nat) (f : Job → Job) : (s.updJob j f).launches = s.launches := rfl
@[simp] theorem State.updJob_walkers (j : Nat) (f : Job → Job) : (s.updJob j f).walkers = s.walkers := rfl
@[simp] theorem State.updJob_nodes (j : Nat) (f : Job → Job) : (s.updJob j f).nodes = s.nodes := rfl
@[simp] theorem State.updJob_nodeGens (j : Nat) (f : Job → Job) : (s.updJob j f).nodeGens = s.nodeGens := rfl
@[simp] theorem State.updJob_estates (j : Nat) (f : Job → Job) : (s.updJob j f).estates = s.estates := rfl
@[simp] theorem State.updJob_nextWill (j : Nat) (f : Job → Job) : (s.updJob j f).nextWill = s.nextWill := rfl
@[simp] theorem State.updJob_nextEntry (j : Nat) (f : Job → Job) : (s.updJob j f).nextEntry = s.nextEntry := rfl
@[simp] theorem State.updJob_ticks (j : Nat) (f : Job → Job) : (s.updJob j f).ticks = s.ticks := rfl
@[simp] theorem State.updJob_quads (j : Nat) (f : Job → Job) : (s.updJob j f).quads = s.quads := rfl
@[simp] theorem State.updJob_cores (j : Nat) (f : Job → Job) : (s.updJob j f).cores = s.cores := rfl
@[simp] theorem State.updJob_parts (j : Nat) (f : Job → Job) : (s.updJob j f).parts = s.parts := rfl
@[simp] theorem State.updJob_vfs (j : Nat) (f : Job → Job) : (s.updJob j f).vfs = s.vfs := rfl
@[simp] theorem State.updJob_dev (j : Nat) (f : Job → Job) : (s.updJob j f).dev = s.dev := rfl
@[simp] theorem State.updJob_prefetchFaults (j : Nat) (f : Job → Job) : (s.updJob j f).prefetchFaults = s.prefetchFaults := rfl
@[simp] theorem State.updJob_agenda (j : Nat) (f : Job → Job) : (s.updJob j f).agenda = s.agenda := rfl
@[simp] theorem State.updJob_cur (j : Nat) (f : Job → Job) : (s.updJob j f).cur = s.cur := rfl
@[simp] theorem State.updJob_free (j : Nat) (f : Job → Job) : (s.updJob j f).free = s.free := rfl

@[simp] theorem State.updLaunch_mem (l : Nat) (f : Launch → Launch) : (s.updLaunch l f).mem = s.mem := rfl
@[simp] theorem State.updLaunch_badCw (l : Nat) (f : Launch → Launch) : (s.updLaunch l f).badCw = s.badCw := rfl
@[simp] theorem State.updLaunch_groups (l : Nat) (f : Launch → Launch) : (s.updLaunch l f).groups = s.groups := rfl
@[simp] theorem State.updLaunch_blocks (l : Nat) (f : Launch → Launch) : (s.updLaunch l f).blocks = s.blocks := rfl
@[simp] theorem State.updLaunch_jobs (l : Nat) (f : Launch → Launch) : (s.updLaunch l f).jobs = s.jobs := rfl
@[simp] theorem State.updLaunch_launches (l : Nat) (f : Launch → Launch) : (s.updLaunch l f).launches = Table.upd s.launches l f := rfl
@[simp] theorem State.updLaunch_walkers (l : Nat) (f : Launch → Launch) : (s.updLaunch l f).walkers = s.walkers := rfl
@[simp] theorem State.updLaunch_nodes (l : Nat) (f : Launch → Launch) : (s.updLaunch l f).nodes = s.nodes := rfl
@[simp] theorem State.updLaunch_nodeGens (l : Nat) (f : Launch → Launch) : (s.updLaunch l f).nodeGens = s.nodeGens := rfl
@[simp] theorem State.updLaunch_estates (l : Nat) (f : Launch → Launch) : (s.updLaunch l f).estates = s.estates := rfl
@[simp] theorem State.updLaunch_nextWill (l : Nat) (f : Launch → Launch) : (s.updLaunch l f).nextWill = s.nextWill := rfl
@[simp] theorem State.updLaunch_nextEntry (l : Nat) (f : Launch → Launch) : (s.updLaunch l f).nextEntry = s.nextEntry := rfl
@[simp] theorem State.updLaunch_ticks (l : Nat) (f : Launch → Launch) : (s.updLaunch l f).ticks = s.ticks := rfl
@[simp] theorem State.updLaunch_quads (l : Nat) (f : Launch → Launch) : (s.updLaunch l f).quads = s.quads := rfl
@[simp] theorem State.updLaunch_cores (l : Nat) (f : Launch → Launch) : (s.updLaunch l f).cores = s.cores := rfl
@[simp] theorem State.updLaunch_parts (l : Nat) (f : Launch → Launch) : (s.updLaunch l f).parts = s.parts := rfl
@[simp] theorem State.updLaunch_vfs (l : Nat) (f : Launch → Launch) : (s.updLaunch l f).vfs = s.vfs := rfl
@[simp] theorem State.updLaunch_dev (l : Nat) (f : Launch → Launch) : (s.updLaunch l f).dev = s.dev := rfl
@[simp] theorem State.updLaunch_prefetchFaults (l : Nat) (f : Launch → Launch) : (s.updLaunch l f).prefetchFaults = s.prefetchFaults := rfl
@[simp] theorem State.updLaunch_agenda (l : Nat) (f : Launch → Launch) : (s.updLaunch l f).agenda = s.agenda := rfl
@[simp] theorem State.updLaunch_cur (l : Nat) (f : Launch → Launch) : (s.updLaunch l f).cur = s.cur := rfl
@[simp] theorem State.updLaunch_free (l : Nat) (f : Launch → Launch) : (s.updLaunch l f).free = s.free := rfl

@[simp] theorem State.setNode_mem (n : Nat) (r : Node) : (s.setNode n r).mem = s.mem := rfl
@[simp] theorem State.setNode_badCw (n : Nat) (r : Node) : (s.setNode n r).badCw = s.badCw := rfl
@[simp] theorem State.setNode_groups (n : Nat) (r : Node) : (s.setNode n r).groups = s.groups := rfl
@[simp] theorem State.setNode_blocks (n : Nat) (r : Node) : (s.setNode n r).blocks = s.blocks := rfl
@[simp] theorem State.setNode_jobs (n : Nat) (r : Node) : (s.setNode n r).jobs = s.jobs := rfl
@[simp] theorem State.setNode_launches (n : Nat) (r : Node) : (s.setNode n r).launches = s.launches := rfl
@[simp] theorem State.setNode_walkers (n : Nat) (r : Node) : (s.setNode n r).walkers = s.walkers := rfl
@[simp] theorem State.setNode_nodes (n : Nat) (r : Node) : (s.setNode n r).nodes = Table.put s.nodes n r := rfl
@[simp] theorem State.setNode_nodeGens (n : Nat) (r : Node) : (s.setNode n r).nodeGens = s.nodeGens := rfl
@[simp] theorem State.setNode_estates (n : Nat) (r : Node) : (s.setNode n r).estates = s.estates := rfl
@[simp] theorem State.setNode_nextWill (n : Nat) (r : Node) : (s.setNode n r).nextWill = s.nextWill := rfl
@[simp] theorem State.setNode_nextEntry (n : Nat) (r : Node) : (s.setNode n r).nextEntry = s.nextEntry := rfl
@[simp] theorem State.setNode_ticks (n : Nat) (r : Node) : (s.setNode n r).ticks = s.ticks := rfl
@[simp] theorem State.setNode_quads (n : Nat) (r : Node) : (s.setNode n r).quads = s.quads := rfl
@[simp] theorem State.setNode_cores (n : Nat) (r : Node) : (s.setNode n r).cores = s.cores := rfl
@[simp] theorem State.setNode_parts (n : Nat) (r : Node) : (s.setNode n r).parts = s.parts := rfl
@[simp] theorem State.setNode_vfs (n : Nat) (r : Node) : (s.setNode n r).vfs = s.vfs := rfl
@[simp] theorem State.setNode_dev (n : Nat) (r : Node) : (s.setNode n r).dev = s.dev := rfl
@[simp] theorem State.setNode_prefetchFaults (n : Nat) (r : Node) : (s.setNode n r).prefetchFaults = s.prefetchFaults := rfl
@[simp] theorem State.setNode_agenda (n : Nat) (r : Node) : (s.setNode n r).agenda = s.agenda := rfl
@[simp] theorem State.setNode_cur (n : Nat) (r : Node) : (s.setNode n r).cur = s.cur := rfl
@[simp] theorem State.setNode_free (n : Nat) (r : Node) : (s.setNode n r).free = s.free := rfl

@[simp] theorem State.updNode_mem (n : Nat) (f : Node → Node) : (s.updNode n f).mem = s.mem := rfl
@[simp] theorem State.updNode_badCw (n : Nat) (f : Node → Node) : (s.updNode n f).badCw = s.badCw := rfl
@[simp] theorem State.updNode_groups (n : Nat) (f : Node → Node) : (s.updNode n f).groups = s.groups := rfl
@[simp] theorem State.updNode_blocks (n : Nat) (f : Node → Node) : (s.updNode n f).blocks = s.blocks := rfl
@[simp] theorem State.updNode_jobs (n : Nat) (f : Node → Node) : (s.updNode n f).jobs = s.jobs := rfl
@[simp] theorem State.updNode_launches (n : Nat) (f : Node → Node) : (s.updNode n f).launches = s.launches := rfl
@[simp] theorem State.updNode_walkers (n : Nat) (f : Node → Node) : (s.updNode n f).walkers = s.walkers := rfl
@[simp] theorem State.updNode_nodes (n : Nat) (f : Node → Node) : (s.updNode n f).nodes = Table.upd s.nodes n f := rfl
@[simp] theorem State.updNode_nodeGens (n : Nat) (f : Node → Node) : (s.updNode n f).nodeGens = s.nodeGens := rfl
@[simp] theorem State.updNode_estates (n : Nat) (f : Node → Node) : (s.updNode n f).estates = s.estates := rfl
@[simp] theorem State.updNode_nextWill (n : Nat) (f : Node → Node) : (s.updNode n f).nextWill = s.nextWill := rfl
@[simp] theorem State.updNode_nextEntry (n : Nat) (f : Node → Node) : (s.updNode n f).nextEntry = s.nextEntry := rfl
@[simp] theorem State.updNode_ticks (n : Nat) (f : Node → Node) : (s.updNode n f).ticks = s.ticks := rfl
@[simp] theorem State.updNode_quads (n : Nat) (f : Node → Node) : (s.updNode n f).quads = s.quads := rfl
@[simp] theorem State.updNode_cores (n : Nat) (f : Node → Node) : (s.updNode n f).cores = s.cores := rfl
@[simp] theorem State.updNode_parts (n : Nat) (f : Node → Node) : (s.updNode n f).parts = s.parts := rfl
@[simp] theorem State.updNode_vfs (n : Nat) (f : Node → Node) : (s.updNode n f).vfs = s.vfs := rfl
@[simp] theorem State.updNode_dev (n : Nat) (f : Node → Node) : (s.updNode n f).dev = s.dev := rfl
@[simp] theorem State.updNode_prefetchFaults (n : Nat) (f : Node → Node) : (s.updNode n f).prefetchFaults = s.prefetchFaults := rfl
@[simp] theorem State.updNode_agenda (n : Nat) (f : Node → Node) : (s.updNode n f).agenda = s.agenda := rfl
@[simp] theorem State.updNode_cur (n : Nat) (f : Node → Node) : (s.updNode n f).cur = s.cur := rfl
@[simp] theorem State.updNode_free (n : Nat) (f : Node → Node) : (s.updNode n f).free = s.free := rfl

@[simp] theorem State.updVf_mem (v : Nat) (f : Vf → Vf) : (s.updVf v f).mem = s.mem := rfl
@[simp] theorem State.updVf_badCw (v : Nat) (f : Vf → Vf) : (s.updVf v f).badCw = s.badCw := rfl
@[simp] theorem State.updVf_groups (v : Nat) (f : Vf → Vf) : (s.updVf v f).groups = s.groups := rfl
@[simp] theorem State.updVf_blocks (v : Nat) (f : Vf → Vf) : (s.updVf v f).blocks = s.blocks := rfl
@[simp] theorem State.updVf_jobs (v : Nat) (f : Vf → Vf) : (s.updVf v f).jobs = s.jobs := rfl
@[simp] theorem State.updVf_launches (v : Nat) (f : Vf → Vf) : (s.updVf v f).launches = s.launches := rfl
@[simp] theorem State.updVf_walkers (v : Nat) (f : Vf → Vf) : (s.updVf v f).walkers = s.walkers := rfl
@[simp] theorem State.updVf_nodes (v : Nat) (f : Vf → Vf) : (s.updVf v f).nodes = s.nodes := rfl
@[simp] theorem State.updVf_nodeGens (v : Nat) (f : Vf → Vf) : (s.updVf v f).nodeGens = s.nodeGens := rfl
@[simp] theorem State.updVf_estates (v : Nat) (f : Vf → Vf) : (s.updVf v f).estates = s.estates := rfl
@[simp] theorem State.updVf_nextWill (v : Nat) (f : Vf → Vf) : (s.updVf v f).nextWill = s.nextWill := rfl
@[simp] theorem State.updVf_nextEntry (v : Nat) (f : Vf → Vf) : (s.updVf v f).nextEntry = s.nextEntry := rfl
@[simp] theorem State.updVf_ticks (v : Nat) (f : Vf → Vf) : (s.updVf v f).ticks = s.ticks := rfl
@[simp] theorem State.updVf_quads (v : Nat) (f : Vf → Vf) : (s.updVf v f).quads = s.quads := rfl
@[simp] theorem State.updVf_cores (v : Nat) (f : Vf → Vf) : (s.updVf v f).cores = s.cores := rfl
@[simp] theorem State.updVf_parts (v : Nat) (f : Vf → Vf) : (s.updVf v f).parts = s.parts := rfl
@[simp] theorem State.updVf_vfs (v : Nat) (f : Vf → Vf) : (s.updVf v f).vfs = Table.put s.vfs v (f (s.vf v)) := rfl
@[simp] theorem State.updVf_dev (v : Nat) (f : Vf → Vf) : (s.updVf v f).dev = s.dev := rfl
@[simp] theorem State.updVf_prefetchFaults (v : Nat) (f : Vf → Vf) : (s.updVf v f).prefetchFaults = s.prefetchFaults := rfl
@[simp] theorem State.updVf_agenda (v : Nat) (f : Vf → Vf) : (s.updVf v f).agenda = s.agenda := rfl
@[simp] theorem State.updVf_cur (v : Nat) (f : Vf → Vf) : (s.updVf v f).cur = s.cur := rfl
@[simp] theorem State.updVf_free (v : Nat) (f : Vf → Vf) : (s.updVf v f).free = s.free := rfl

@[simp] theorem State.updStream_mem (v n : Nat) (f : Stream → Stream) : (s.updStream v n f).mem = s.mem := rfl
@[simp] theorem State.updStream_badCw (v n : Nat) (f : Stream → Stream) : (s.updStream v n f).badCw = s.badCw := rfl
@[simp] theorem State.updStream_groups (v n : Nat) (f : Stream → Stream) : (s.updStream v n f).groups = s.groups := rfl
@[simp] theorem State.updStream_blocks (v n : Nat) (f : Stream → Stream) : (s.updStream v n f).blocks = s.blocks := rfl
@[simp] theorem State.updStream_jobs (v n : Nat) (f : Stream → Stream) : (s.updStream v n f).jobs = s.jobs := rfl
@[simp] theorem State.updStream_launches (v n : Nat) (f : Stream → Stream) : (s.updStream v n f).launches = s.launches := rfl
@[simp] theorem State.updStream_walkers (v n : Nat) (f : Stream → Stream) : (s.updStream v n f).walkers = s.walkers := rfl
@[simp] theorem State.updStream_nodes (v n : Nat) (f : Stream → Stream) : (s.updStream v n f).nodes = s.nodes := rfl
@[simp] theorem State.updStream_nodeGens (v n : Nat) (f : Stream → Stream) : (s.updStream v n f).nodeGens = s.nodeGens := rfl
@[simp] theorem State.updStream_estates (v n : Nat) (f : Stream → Stream) : (s.updStream v n f).estates = s.estates := rfl
@[simp] theorem State.updStream_nextWill (v n : Nat) (f : Stream → Stream) : (s.updStream v n f).nextWill = s.nextWill := rfl
@[simp] theorem State.updStream_nextEntry (v n : Nat) (f : Stream → Stream) : (s.updStream v n f).nextEntry = s.nextEntry := rfl
@[simp] theorem State.updStream_ticks (v n : Nat) (f : Stream → Stream) : (s.updStream v n f).ticks = s.ticks := rfl
@[simp] theorem State.updStream_quads (v n : Nat) (f : Stream → Stream) : (s.updStream v n f).quads = s.quads := rfl
@[simp] theorem State.updStream_cores (v n : Nat) (f : Stream → Stream) : (s.updStream v n f).cores = s.cores := rfl
@[simp] theorem State.updStream_parts (v n : Nat) (f : Stream → Stream) : (s.updStream v n f).parts = s.parts := rfl
@[simp] theorem State.updStream_vfs (v n : Nat) (f : Stream → Stream) : (s.updStream v n f).vfs = Table.put s.vfs v { s.vf v with streams := Table.put (s.vf v).streams n (f (s.stream v n)) } := rfl
@[simp] theorem State.updStream_dev (v n : Nat) (f : Stream → Stream) : (s.updStream v n f).dev = s.dev := rfl
@[simp] theorem State.updStream_prefetchFaults (v n : Nat) (f : Stream → Stream) : (s.updStream v n f).prefetchFaults = s.prefetchFaults := rfl
@[simp] theorem State.updStream_agenda (v n : Nat) (f : Stream → Stream) : (s.updStream v n f).agenda = s.agenda := rfl
@[simp] theorem State.updStream_cur (v n : Nat) (f : Stream → Stream) : (s.updStream v n f).cur = s.cur := rfl
@[simp] theorem State.updStream_free (v n : Nat) (f : Stream → Stream) : (s.updStream v n f).free = s.free := rfl

@[simp] theorem State.updQuad_mem (q : Nat) (f : Quad → Quad) : (s.updQuad q f).mem = s.mem := rfl
@[simp] theorem State.updQuad_badCw (q : Nat) (f : Quad → Quad) : (s.updQuad q f).badCw = s.badCw := rfl
@[simp] theorem State.updQuad_groups (q : Nat) (f : Quad → Quad) : (s.updQuad q f).groups = s.groups := rfl
@[simp] theorem State.updQuad_blocks (q : Nat) (f : Quad → Quad) : (s.updQuad q f).blocks = s.blocks := rfl
@[simp] theorem State.updQuad_jobs (q : Nat) (f : Quad → Quad) : (s.updQuad q f).jobs = s.jobs := rfl
@[simp] theorem State.updQuad_launches (q : Nat) (f : Quad → Quad) : (s.updQuad q f).launches = s.launches := rfl
@[simp] theorem State.updQuad_walkers (q : Nat) (f : Quad → Quad) : (s.updQuad q f).walkers = s.walkers := rfl
@[simp] theorem State.updQuad_nodes (q : Nat) (f : Quad → Quad) : (s.updQuad q f).nodes = s.nodes := rfl
@[simp] theorem State.updQuad_nodeGens (q : Nat) (f : Quad → Quad) : (s.updQuad q f).nodeGens = s.nodeGens := rfl
@[simp] theorem State.updQuad_estates (q : Nat) (f : Quad → Quad) : (s.updQuad q f).estates = s.estates := rfl
@[simp] theorem State.updQuad_nextWill (q : Nat) (f : Quad → Quad) : (s.updQuad q f).nextWill = s.nextWill := rfl
@[simp] theorem State.updQuad_nextEntry (q : Nat) (f : Quad → Quad) : (s.updQuad q f).nextEntry = s.nextEntry := rfl
@[simp] theorem State.updQuad_ticks (q : Nat) (f : Quad → Quad) : (s.updQuad q f).ticks = s.ticks := rfl
@[simp] theorem State.updQuad_quads (q : Nat) (f : Quad → Quad) : (s.updQuad q f).quads = Table.put s.quads q (f (s.quad q)) := rfl
@[simp] theorem State.updQuad_cores (q : Nat) (f : Quad → Quad) : (s.updQuad q f).cores = s.cores := rfl
@[simp] theorem State.updQuad_parts (q : Nat) (f : Quad → Quad) : (s.updQuad q f).parts = s.parts := rfl
@[simp] theorem State.updQuad_vfs (q : Nat) (f : Quad → Quad) : (s.updQuad q f).vfs = s.vfs := rfl
@[simp] theorem State.updQuad_dev (q : Nat) (f : Quad → Quad) : (s.updQuad q f).dev = s.dev := rfl
@[simp] theorem State.updQuad_prefetchFaults (q : Nat) (f : Quad → Quad) : (s.updQuad q f).prefetchFaults = s.prefetchFaults := rfl
@[simp] theorem State.updQuad_agenda (q : Nat) (f : Quad → Quad) : (s.updQuad q f).agenda = s.agenda := rfl
@[simp] theorem State.updQuad_cur (q : Nat) (f : Quad → Quad) : (s.updQuad q f).cur = s.cur := rfl
@[simp] theorem State.updQuad_free (q : Nat) (f : Quad → Quad) : (s.updQuad q f).free = s.free := rfl

@[simp] theorem State.updCore_mem (c : Nat) (f : Core → Core) : (s.updCore c f).mem = s.mem := rfl
@[simp] theorem State.updCore_badCw (c : Nat) (f : Core → Core) : (s.updCore c f).badCw = s.badCw := rfl
@[simp] theorem State.updCore_groups (c : Nat) (f : Core → Core) : (s.updCore c f).groups = s.groups := rfl
@[simp] theorem State.updCore_blocks (c : Nat) (f : Core → Core) : (s.updCore c f).blocks = s.blocks := rfl
@[simp] theorem State.updCore_jobs (c : Nat) (f : Core → Core) : (s.updCore c f).jobs = s.jobs := rfl
@[simp] theorem State.updCore_launches (c : Nat) (f : Core → Core) : (s.updCore c f).launches = s.launches := rfl
@[simp] theorem State.updCore_walkers (c : Nat) (f : Core → Core) : (s.updCore c f).walkers = s.walkers := rfl
@[simp] theorem State.updCore_nodes (c : Nat) (f : Core → Core) : (s.updCore c f).nodes = s.nodes := rfl
@[simp] theorem State.updCore_nodeGens (c : Nat) (f : Core → Core) : (s.updCore c f).nodeGens = s.nodeGens := rfl
@[simp] theorem State.updCore_estates (c : Nat) (f : Core → Core) : (s.updCore c f).estates = s.estates := rfl
@[simp] theorem State.updCore_nextWill (c : Nat) (f : Core → Core) : (s.updCore c f).nextWill = s.nextWill := rfl
@[simp] theorem State.updCore_nextEntry (c : Nat) (f : Core → Core) : (s.updCore c f).nextEntry = s.nextEntry := rfl
@[simp] theorem State.updCore_ticks (c : Nat) (f : Core → Core) : (s.updCore c f).ticks = s.ticks := rfl
@[simp] theorem State.updCore_quads (c : Nat) (f : Core → Core) : (s.updCore c f).quads = s.quads := rfl
@[simp] theorem State.updCore_cores (c : Nat) (f : Core → Core) : (s.updCore c f).cores = Table.put s.cores c (f (s.core c)) := rfl
@[simp] theorem State.updCore_parts (c : Nat) (f : Core → Core) : (s.updCore c f).parts = s.parts := rfl
@[simp] theorem State.updCore_vfs (c : Nat) (f : Core → Core) : (s.updCore c f).vfs = s.vfs := rfl
@[simp] theorem State.updCore_dev (c : Nat) (f : Core → Core) : (s.updCore c f).dev = s.dev := rfl
@[simp] theorem State.updCore_prefetchFaults (c : Nat) (f : Core → Core) : (s.updCore c f).prefetchFaults = s.prefetchFaults := rfl
@[simp] theorem State.updCore_agenda (c : Nat) (f : Core → Core) : (s.updCore c f).agenda = s.agenda := rfl
@[simp] theorem State.updCore_cur (c : Nat) (f : Core → Core) : (s.updCore c f).cur = s.cur := rfl
@[simp] theorem State.updCore_free (c : Nat) (f : Core → Core) : (s.updCore c f).free = s.free := rfl

@[simp] theorem State.updPart_mem (p : Nat) (f : Part → Part) : (s.updPart p f).mem = s.mem := rfl
@[simp] theorem State.updPart_badCw (p : Nat) (f : Part → Part) : (s.updPart p f).badCw = s.badCw := rfl
@[simp] theorem State.updPart_groups (p : Nat) (f : Part → Part) : (s.updPart p f).groups = s.groups := rfl
@[simp] theorem State.updPart_blocks (p : Nat) (f : Part → Part) : (s.updPart p f).blocks = s.blocks := rfl
@[simp] theorem State.updPart_jobs (p : Nat) (f : Part → Part) : (s.updPart p f).jobs = s.jobs := rfl
@[simp] theorem State.updPart_launches (p : Nat) (f : Part → Part) : (s.updPart p f).launches = s.launches := rfl
@[simp] theorem State.updPart_walkers (p : Nat) (f : Part → Part) : (s.updPart p f).walkers = s.walkers := rfl
@[simp] theorem State.updPart_nodes (p : Nat) (f : Part → Part) : (s.updPart p f).nodes = s.nodes := rfl
@[simp] theorem State.updPart_nodeGens (p : Nat) (f : Part → Part) : (s.updPart p f).nodeGens = s.nodeGens := rfl
@[simp] theorem State.updPart_estates (p : Nat) (f : Part → Part) : (s.updPart p f).estates = s.estates := rfl
@[simp] theorem State.updPart_nextWill (p : Nat) (f : Part → Part) : (s.updPart p f).nextWill = s.nextWill := rfl
@[simp] theorem State.updPart_nextEntry (p : Nat) (f : Part → Part) : (s.updPart p f).nextEntry = s.nextEntry := rfl
@[simp] theorem State.updPart_ticks (p : Nat) (f : Part → Part) : (s.updPart p f).ticks = s.ticks := rfl
@[simp] theorem State.updPart_quads (p : Nat) (f : Part → Part) : (s.updPart p f).quads = s.quads := rfl
@[simp] theorem State.updPart_cores (p : Nat) (f : Part → Part) : (s.updPart p f).cores = s.cores := rfl
@[simp] theorem State.updPart_parts (p : Nat) (f : Part → Part) : (s.updPart p f).parts = Table.put s.parts p (f (s.part p)) := rfl
@[simp] theorem State.updPart_vfs (p : Nat) (f : Part → Part) : (s.updPart p f).vfs = s.vfs := rfl
@[simp] theorem State.updPart_dev (p : Nat) (f : Part → Part) : (s.updPart p f).dev = s.dev := rfl
@[simp] theorem State.updPart_prefetchFaults (p : Nat) (f : Part → Part) : (s.updPart p f).prefetchFaults = s.prefetchFaults := rfl
@[simp] theorem State.updPart_agenda (p : Nat) (f : Part → Part) : (s.updPart p f).agenda = s.agenda := rfl
@[simp] theorem State.updPart_cur (p : Nat) (f : Part → Part) : (s.updPart p f).cur = s.cur := rfl
@[simp] theorem State.updPart_free (p : Nat) (f : Part → Part) : (s.updPart p f).free = s.free := rfl

@[simp] theorem State.takeFree_fst (k : Nat) : (s.takeFree k).1 = s.free := rfl
@[simp] theorem State.takeFree_free (k : Nat) : (s.takeFree k).2.free = s.free + k := rfl
@[simp] theorem State.takeFree_mem (k : Nat) : (s.takeFree k).2.mem = s.mem := rfl
@[simp] theorem State.takeFree_badCw (k : Nat) : (s.takeFree k).2.badCw = s.badCw := rfl
@[simp] theorem State.takeFree_groups (k : Nat) : (s.takeFree k).2.groups = s.groups := rfl
@[simp] theorem State.takeFree_blocks (k : Nat) : (s.takeFree k).2.blocks = s.blocks := rfl
@[simp] theorem State.takeFree_jobs (k : Nat) : (s.takeFree k).2.jobs = s.jobs := rfl
@[simp] theorem State.takeFree_launches (k : Nat) : (s.takeFree k).2.launches = s.launches := rfl
@[simp] theorem State.takeFree_walkers (k : Nat) : (s.takeFree k).2.walkers = s.walkers := rfl
@[simp] theorem State.takeFree_nodes (k : Nat) : (s.takeFree k).2.nodes = s.nodes := rfl
@[simp] theorem State.takeFree_nodeGens (k : Nat) : (s.takeFree k).2.nodeGens = s.nodeGens := rfl
@[simp] theorem State.takeFree_estates (k : Nat) : (s.takeFree k).2.estates = s.estates := rfl
@[simp] theorem State.takeFree_nextWill (k : Nat) : (s.takeFree k).2.nextWill = s.nextWill := rfl
@[simp] theorem State.takeFree_nextEntry (k : Nat) : (s.takeFree k).2.nextEntry = s.nextEntry := rfl
@[simp] theorem State.takeFree_ticks (k : Nat) : (s.takeFree k).2.ticks = s.ticks := rfl
@[simp] theorem State.takeFree_quads (k : Nat) : (s.takeFree k).2.quads = s.quads := rfl
@[simp] theorem State.takeFree_cores (k : Nat) : (s.takeFree k).2.cores = s.cores := rfl
@[simp] theorem State.takeFree_parts (k : Nat) : (s.takeFree k).2.parts = s.parts := rfl
@[simp] theorem State.takeFree_vfs (k : Nat) : (s.takeFree k).2.vfs = s.vfs := rfl
@[simp] theorem State.takeFree_dev (k : Nat) : (s.takeFree k).2.dev = s.dev := rfl
@[simp] theorem State.takeFree_prefetchFaults (k : Nat) : (s.takeFree k).2.prefetchFaults = s.prefetchFaults := rfl
@[simp] theorem State.takeFree_agenda (k : Nat) : (s.takeFree k).2.agenda = s.agenda := rfl
@[simp] theorem State.takeFree_cur (k : Nat) : (s.takeFree k).2.cur = s.cur := rfl

/-! ## Lookups -/

@[simp] theorem State.group?_setGroup (g k : Nat) (r : Group) :
    (s.setGroup g r).group? k = if k = g then some r else s.group? k := Table.get?_put s.groups g k r
@[simp] theorem State.group?_updGroup (g k : Nat) (f : Group → Group) :
    (s.updGroup g f).group? k = if k = g then (s.group? k).map f else s.group? k := Table.get?_upd s.groups g k f
@[simp] theorem State.block?_setBlock (b k : Nat) (r : Block) :
    (s.setBlock b r).block? k = if k = b then some r else s.block? k := Table.get?_put s.blocks b k r
@[simp] theorem State.block?_updBlock (b k : Nat) (f : Block → Block) :
    (s.updBlock b f).block? k = if k = b then (s.block? k).map f else s.block? k := Table.get?_upd s.blocks b k f
@[simp] theorem State.job?_setJob (j k : Nat) (r : Job) :
    (s.setJob j r).job? k = if k = j then some r else s.job? k := Table.get?_put s.jobs j k r
@[simp] theorem State.job?_updJob (j k : Nat) (f : Job → Job) :
    (s.updJob j f).job? k = if k = j then (s.job? k).map f else s.job? k := Table.get?_upd s.jobs j k f
@[simp] theorem State.launch?_updLaunch (l k : Nat) (f : Launch → Launch) :
    (s.updLaunch l f).launch? k = if k = l then (s.launch? k).map f else s.launch? k := Table.get?_upd s.launches l k f
@[simp] theorem State.node?_setNode (n k : Nat) (r : Node) :
    (s.setNode n r).node? k = if k = n then some r else s.node? k := Table.get?_put s.nodes n k r
@[simp] theorem State.node?_updNode (n k : Nat) (f : Node → Node) :
    (s.updNode n f).node? k = if k = n then (s.node? k).map f else s.node? k := Table.get?_upd s.nodes n k f
@[simp] theorem State.part_updPart (p k : Nat) (f : Part → Part) :
    (s.updPart p f).part k = if k = p then f (s.part p) else s.part k := by
  simp only [State.part, State.updPart_parts, Table.get?_put]; split <;> simp
@[simp] theorem State.quad_updQuad (q k : Nat) (f : Quad → Quad) :
    (s.updQuad q f).quad k = if k = q then f (s.quad q) else s.quad k := by
  simp only [State.quad, State.updQuad_quads, Table.get?_put]; split <;> simp
@[simp] theorem State.core_updCore (c k : Nat) (f : Core → Core) :
    (s.updCore c f).core k = if k = c then f (s.core c) else s.core k := by
  simp only [State.core, State.updCore_cores, Table.get?_put]; split <;> simp
@[simp] theorem State.vf_updVf (v k : Nat) (f : Vf → Vf) :
    (s.updVf v f).vf k = if k = v then f (s.vf v) else s.vf k := by
  simp only [State.vf, State.updVf_vfs, Table.get?_put]; split <;> simp

/-! ## Lookups in other tables -/

@[simp] theorem State.setGroup_blockAt (g : Nat) (r : Group) (k : Nat) : (s.setGroup g r).block? k = s.block? k := rfl
@[simp] theorem State.setGroup_jobAt (g : Nat) (r : Group) (k : Nat) : (s.setGroup g r).job? k = s.job? k := rfl
@[simp] theorem State.setGroup_launchAt (g : Nat) (r : Group) (k : Nat) : (s.setGroup g r).launch? k = s.launch? k := rfl
@[simp] theorem State.setGroup_nodeAt (g : Nat) (r : Group) (k : Nat) : (s.setGroup g r).node? k = s.node? k := rfl
@[simp] theorem State.setGroup_part (g : Nat) (r : Group) (k : Nat) : (s.setGroup g r).part k = s.part k := rfl
@[simp] theorem State.setGroup_quad (g : Nat) (r : Group) (k : Nat) : (s.setGroup g r).quad k = s.quad k := rfl
@[simp] theorem State.setGroup_core (g : Nat) (r : Group) (k : Nat) : (s.setGroup g r).core k = s.core k := rfl
@[simp] theorem State.setGroup_vf (g : Nat) (r : Group) (k : Nat) : (s.setGroup g r).vf k = s.vf k := rfl

@[simp] theorem State.updGroup_blockAt (g : Nat) (f : Group → Group) (k : Nat) : (s.updGroup g f).block? k = s.block? k := rfl
@[simp] theorem State.updGroup_jobAt (g : Nat) (f : Group → Group) (k : Nat) : (s.updGroup g f).job? k = s.job? k := rfl
@[simp] theorem State.updGroup_launchAt (g : Nat) (f : Group → Group) (k : Nat) : (s.updGroup g f).launch? k = s.launch? k := rfl
@[simp] theorem State.updGroup_nodeAt (g : Nat) (f : Group → Group) (k : Nat) : (s.updGroup g f).node? k = s.node? k := rfl
@[simp] theorem State.updGroup_part (g : Nat) (f : Group → Group) (k : Nat) : (s.updGroup g f).part k = s.part k := rfl
@[simp] theorem State.updGroup_quad (g : Nat) (f : Group → Group) (k : Nat) : (s.updGroup g f).quad k = s.quad k := rfl
@[simp] theorem State.updGroup_core (g : Nat) (f : Group → Group) (k : Nat) : (s.updGroup g f).core k = s.core k := rfl
@[simp] theorem State.updGroup_vf (g : Nat) (f : Group → Group) (k : Nat) : (s.updGroup g f).vf k = s.vf k := rfl

@[simp] theorem State.setBlock_groupAt (b : Nat) (r : Block) (k : Nat) : (s.setBlock b r).group? k = s.group? k := rfl
@[simp] theorem State.setBlock_jobAt (b : Nat) (r : Block) (k : Nat) : (s.setBlock b r).job? k = s.job? k := rfl
@[simp] theorem State.setBlock_launchAt (b : Nat) (r : Block) (k : Nat) : (s.setBlock b r).launch? k = s.launch? k := rfl
@[simp] theorem State.setBlock_nodeAt (b : Nat) (r : Block) (k : Nat) : (s.setBlock b r).node? k = s.node? k := rfl
@[simp] theorem State.setBlock_part (b : Nat) (r : Block) (k : Nat) : (s.setBlock b r).part k = s.part k := rfl
@[simp] theorem State.setBlock_quad (b : Nat) (r : Block) (k : Nat) : (s.setBlock b r).quad k = s.quad k := rfl
@[simp] theorem State.setBlock_core (b : Nat) (r : Block) (k : Nat) : (s.setBlock b r).core k = s.core k := rfl
@[simp] theorem State.setBlock_vf (b : Nat) (r : Block) (k : Nat) : (s.setBlock b r).vf k = s.vf k := rfl

@[simp] theorem State.updBlock_groupAt (b : Nat) (f : Block → Block) (k : Nat) : (s.updBlock b f).group? k = s.group? k := rfl
@[simp] theorem State.updBlock_jobAt (b : Nat) (f : Block → Block) (k : Nat) : (s.updBlock b f).job? k = s.job? k := rfl
@[simp] theorem State.updBlock_launchAt (b : Nat) (f : Block → Block) (k : Nat) : (s.updBlock b f).launch? k = s.launch? k := rfl
@[simp] theorem State.updBlock_nodeAt (b : Nat) (f : Block → Block) (k : Nat) : (s.updBlock b f).node? k = s.node? k := rfl
@[simp] theorem State.updBlock_part (b : Nat) (f : Block → Block) (k : Nat) : (s.updBlock b f).part k = s.part k := rfl
@[simp] theorem State.updBlock_quad (b : Nat) (f : Block → Block) (k : Nat) : (s.updBlock b f).quad k = s.quad k := rfl
@[simp] theorem State.updBlock_core (b : Nat) (f : Block → Block) (k : Nat) : (s.updBlock b f).core k = s.core k := rfl
@[simp] theorem State.updBlock_vf (b : Nat) (f : Block → Block) (k : Nat) : (s.updBlock b f).vf k = s.vf k := rfl

@[simp] theorem State.setJob_groupAt (j : Nat) (r : Job) (k : Nat) : (s.setJob j r).group? k = s.group? k := rfl
@[simp] theorem State.setJob_blockAt (j : Nat) (r : Job) (k : Nat) : (s.setJob j r).block? k = s.block? k := rfl
@[simp] theorem State.setJob_launchAt (j : Nat) (r : Job) (k : Nat) : (s.setJob j r).launch? k = s.launch? k := rfl
@[simp] theorem State.setJob_nodeAt (j : Nat) (r : Job) (k : Nat) : (s.setJob j r).node? k = s.node? k := rfl
@[simp] theorem State.setJob_part (j : Nat) (r : Job) (k : Nat) : (s.setJob j r).part k = s.part k := rfl
@[simp] theorem State.setJob_quad (j : Nat) (r : Job) (k : Nat) : (s.setJob j r).quad k = s.quad k := rfl
@[simp] theorem State.setJob_core (j : Nat) (r : Job) (k : Nat) : (s.setJob j r).core k = s.core k := rfl
@[simp] theorem State.setJob_vf (j : Nat) (r : Job) (k : Nat) : (s.setJob j r).vf k = s.vf k := rfl

@[simp] theorem State.updJob_groupAt (j : Nat) (f : Job → Job) (k : Nat) : (s.updJob j f).group? k = s.group? k := rfl
@[simp] theorem State.updJob_blockAt (j : Nat) (f : Job → Job) (k : Nat) : (s.updJob j f).block? k = s.block? k := rfl
@[simp] theorem State.updJob_launchAt (j : Nat) (f : Job → Job) (k : Nat) : (s.updJob j f).launch? k = s.launch? k := rfl
@[simp] theorem State.updJob_nodeAt (j : Nat) (f : Job → Job) (k : Nat) : (s.updJob j f).node? k = s.node? k := rfl
@[simp] theorem State.updJob_part (j : Nat) (f : Job → Job) (k : Nat) : (s.updJob j f).part k = s.part k := rfl
@[simp] theorem State.updJob_quad (j : Nat) (f : Job → Job) (k : Nat) : (s.updJob j f).quad k = s.quad k := rfl
@[simp] theorem State.updJob_core (j : Nat) (f : Job → Job) (k : Nat) : (s.updJob j f).core k = s.core k := rfl
@[simp] theorem State.updJob_vf (j : Nat) (f : Job → Job) (k : Nat) : (s.updJob j f).vf k = s.vf k := rfl

@[simp] theorem State.updLaunch_groupAt (l : Nat) (f : Launch → Launch) (k : Nat) : (s.updLaunch l f).group? k = s.group? k := rfl
@[simp] theorem State.updLaunch_blockAt (l : Nat) (f : Launch → Launch) (k : Nat) : (s.updLaunch l f).block? k = s.block? k := rfl
@[simp] theorem State.updLaunch_jobAt (l : Nat) (f : Launch → Launch) (k : Nat) : (s.updLaunch l f).job? k = s.job? k := rfl
@[simp] theorem State.updLaunch_nodeAt (l : Nat) (f : Launch → Launch) (k : Nat) : (s.updLaunch l f).node? k = s.node? k := rfl
@[simp] theorem State.updLaunch_part (l : Nat) (f : Launch → Launch) (k : Nat) : (s.updLaunch l f).part k = s.part k := rfl
@[simp] theorem State.updLaunch_quad (l : Nat) (f : Launch → Launch) (k : Nat) : (s.updLaunch l f).quad k = s.quad k := rfl
@[simp] theorem State.updLaunch_core (l : Nat) (f : Launch → Launch) (k : Nat) : (s.updLaunch l f).core k = s.core k := rfl
@[simp] theorem State.updLaunch_vf (l : Nat) (f : Launch → Launch) (k : Nat) : (s.updLaunch l f).vf k = s.vf k := rfl

@[simp] theorem State.setNode_groupAt (n : Nat) (r : Node) (k : Nat) : (s.setNode n r).group? k = s.group? k := rfl
@[simp] theorem State.setNode_blockAt (n : Nat) (r : Node) (k : Nat) : (s.setNode n r).block? k = s.block? k := rfl
@[simp] theorem State.setNode_jobAt (n : Nat) (r : Node) (k : Nat) : (s.setNode n r).job? k = s.job? k := rfl
@[simp] theorem State.setNode_launchAt (n : Nat) (r : Node) (k : Nat) : (s.setNode n r).launch? k = s.launch? k := rfl
@[simp] theorem State.setNode_part (n : Nat) (r : Node) (k : Nat) : (s.setNode n r).part k = s.part k := rfl
@[simp] theorem State.setNode_quad (n : Nat) (r : Node) (k : Nat) : (s.setNode n r).quad k = s.quad k := rfl
@[simp] theorem State.setNode_core (n : Nat) (r : Node) (k : Nat) : (s.setNode n r).core k = s.core k := rfl
@[simp] theorem State.setNode_vf (n : Nat) (r : Node) (k : Nat) : (s.setNode n r).vf k = s.vf k := rfl

@[simp] theorem State.updNode_groupAt (n : Nat) (f : Node → Node) (k : Nat) : (s.updNode n f).group? k = s.group? k := rfl
@[simp] theorem State.updNode_blockAt (n : Nat) (f : Node → Node) (k : Nat) : (s.updNode n f).block? k = s.block? k := rfl
@[simp] theorem State.updNode_jobAt (n : Nat) (f : Node → Node) (k : Nat) : (s.updNode n f).job? k = s.job? k := rfl
@[simp] theorem State.updNode_launchAt (n : Nat) (f : Node → Node) (k : Nat) : (s.updNode n f).launch? k = s.launch? k := rfl
@[simp] theorem State.updNode_part (n : Nat) (f : Node → Node) (k : Nat) : (s.updNode n f).part k = s.part k := rfl
@[simp] theorem State.updNode_quad (n : Nat) (f : Node → Node) (k : Nat) : (s.updNode n f).quad k = s.quad k := rfl
@[simp] theorem State.updNode_core (n : Nat) (f : Node → Node) (k : Nat) : (s.updNode n f).core k = s.core k := rfl
@[simp] theorem State.updNode_vf (n : Nat) (f : Node → Node) (k : Nat) : (s.updNode n f).vf k = s.vf k := rfl

@[simp] theorem State.updVf_groupAt (v : Nat) (f : Vf → Vf) (k : Nat) : (s.updVf v f).group? k = s.group? k := rfl
@[simp] theorem State.updVf_blockAt (v : Nat) (f : Vf → Vf) (k : Nat) : (s.updVf v f).block? k = s.block? k := rfl
@[simp] theorem State.updVf_jobAt (v : Nat) (f : Vf → Vf) (k : Nat) : (s.updVf v f).job? k = s.job? k := rfl
@[simp] theorem State.updVf_launchAt (v : Nat) (f : Vf → Vf) (k : Nat) : (s.updVf v f).launch? k = s.launch? k := rfl
@[simp] theorem State.updVf_nodeAt (v : Nat) (f : Vf → Vf) (k : Nat) : (s.updVf v f).node? k = s.node? k := rfl
@[simp] theorem State.updVf_part (v : Nat) (f : Vf → Vf) (k : Nat) : (s.updVf v f).part k = s.part k := rfl
@[simp] theorem State.updVf_quad (v : Nat) (f : Vf → Vf) (k : Nat) : (s.updVf v f).quad k = s.quad k := rfl
@[simp] theorem State.updVf_core (v : Nat) (f : Vf → Vf) (k : Nat) : (s.updVf v f).core k = s.core k := rfl

@[simp] theorem State.updStream_groupAt (v n : Nat) (f : Stream → Stream) (k : Nat) : (s.updStream v n f).group? k = s.group? k := rfl
@[simp] theorem State.updStream_blockAt (v n : Nat) (f : Stream → Stream) (k : Nat) : (s.updStream v n f).block? k = s.block? k := rfl
@[simp] theorem State.updStream_jobAt (v n : Nat) (f : Stream → Stream) (k : Nat) : (s.updStream v n f).job? k = s.job? k := rfl
@[simp] theorem State.updStream_launchAt (v n : Nat) (f : Stream → Stream) (k : Nat) : (s.updStream v n f).launch? k = s.launch? k := rfl
@[simp] theorem State.updStream_nodeAt (v n : Nat) (f : Stream → Stream) (k : Nat) : (s.updStream v n f).node? k = s.node? k := rfl
@[simp] theorem State.updStream_part (v n : Nat) (f : Stream → Stream) (k : Nat) : (s.updStream v n f).part k = s.part k := rfl
@[simp] theorem State.updStream_quad (v n : Nat) (f : Stream → Stream) (k : Nat) : (s.updStream v n f).quad k = s.quad k := rfl
@[simp] theorem State.updStream_core (v n : Nat) (f : Stream → Stream) (k : Nat) : (s.updStream v n f).core k = s.core k := rfl

@[simp] theorem State.updQuad_groupAt (q : Nat) (f : Quad → Quad) (k : Nat) : (s.updQuad q f).group? k = s.group? k := rfl
@[simp] theorem State.updQuad_blockAt (q : Nat) (f : Quad → Quad) (k : Nat) : (s.updQuad q f).block? k = s.block? k := rfl
@[simp] theorem State.updQuad_jobAt (q : Nat) (f : Quad → Quad) (k : Nat) : (s.updQuad q f).job? k = s.job? k := rfl
@[simp] theorem State.updQuad_launchAt (q : Nat) (f : Quad → Quad) (k : Nat) : (s.updQuad q f).launch? k = s.launch? k := rfl
@[simp] theorem State.updQuad_nodeAt (q : Nat) (f : Quad → Quad) (k : Nat) : (s.updQuad q f).node? k = s.node? k := rfl
@[simp] theorem State.updQuad_part (q : Nat) (f : Quad → Quad) (k : Nat) : (s.updQuad q f).part k = s.part k := rfl
@[simp] theorem State.updQuad_core (q : Nat) (f : Quad → Quad) (k : Nat) : (s.updQuad q f).core k = s.core k := rfl
@[simp] theorem State.updQuad_vf (q : Nat) (f : Quad → Quad) (k : Nat) : (s.updQuad q f).vf k = s.vf k := rfl

@[simp] theorem State.updCore_groupAt (c : Nat) (f : Core → Core) (k : Nat) : (s.updCore c f).group? k = s.group? k := rfl
@[simp] theorem State.updCore_blockAt (c : Nat) (f : Core → Core) (k : Nat) : (s.updCore c f).block? k = s.block? k := rfl
@[simp] theorem State.updCore_jobAt (c : Nat) (f : Core → Core) (k : Nat) : (s.updCore c f).job? k = s.job? k := rfl
@[simp] theorem State.updCore_launchAt (c : Nat) (f : Core → Core) (k : Nat) : (s.updCore c f).launch? k = s.launch? k := rfl
@[simp] theorem State.updCore_nodeAt (c : Nat) (f : Core → Core) (k : Nat) : (s.updCore c f).node? k = s.node? k := rfl
@[simp] theorem State.updCore_part (c : Nat) (f : Core → Core) (k : Nat) : (s.updCore c f).part k = s.part k := rfl
@[simp] theorem State.updCore_quad (c : Nat) (f : Core → Core) (k : Nat) : (s.updCore c f).quad k = s.quad k := rfl
@[simp] theorem State.updCore_vf (c : Nat) (f : Core → Core) (k : Nat) : (s.updCore c f).vf k = s.vf k := rfl

@[simp] theorem State.updPart_groupAt (p : Nat) (f : Part → Part) (k : Nat) : (s.updPart p f).group? k = s.group? k := rfl
@[simp] theorem State.updPart_blockAt (p : Nat) (f : Part → Part) (k : Nat) : (s.updPart p f).block? k = s.block? k := rfl
@[simp] theorem State.updPart_jobAt (p : Nat) (f : Part → Part) (k : Nat) : (s.updPart p f).job? k = s.job? k := rfl
@[simp] theorem State.updPart_launchAt (p : Nat) (f : Part → Part) (k : Nat) : (s.updPart p f).launch? k = s.launch? k := rfl
@[simp] theorem State.updPart_nodeAt (p : Nat) (f : Part → Part) (k : Nat) : (s.updPart p f).node? k = s.node? k := rfl
@[simp] theorem State.updPart_quad (p : Nat) (f : Part → Part) (k : Nat) : (s.updPart p f).quad k = s.quad k := rfl
@[simp] theorem State.updPart_core (p : Nat) (f : Part → Part) (k : Nat) : (s.updPart p f).core k = s.core k := rfl
@[simp] theorem State.updPart_vf (p : Nat) (f : Part → Part) (k : Nat) : (s.updPart p f).vf k = s.vf k := rfl

@[simp] theorem State.takeFree_groupAt (k j : Nat) : (s.takeFree k).2.group? j = s.group? j := rfl
@[simp] theorem State.takeFree_blockAt (k j : Nat) : (s.takeFree k).2.block? j = s.block? j := rfl
@[simp] theorem State.takeFree_jobAt (k j : Nat) : (s.takeFree k).2.job? j = s.job? j := rfl
@[simp] theorem State.takeFree_launchAt (k j : Nat) : (s.takeFree k).2.launch? j = s.launch? j := rfl
@[simp] theorem State.takeFree_nodeAt (k j : Nat) : (s.takeFree k).2.node? j = s.node? j := rfl
@[simp] theorem State.takeFree_part (k j : Nat) : (s.takeFree k).2.part j = s.part j := rfl
@[simp] theorem State.takeFree_quad (k j : Nat) : (s.takeFree k).2.quad j = s.quad j := rfl
@[simp] theorem State.takeFree_core (k j : Nat) : (s.takeFree k).2.core j = s.core j := rfl
@[simp] theorem State.takeFree_vf (k j : Nat) : (s.takeFree k).2.vf j = s.vf j := rfl

end Sys2Proof.Machine
end

