-- ==== Sys2Proof/Laws/Lanes.lean ====
section
/-! SUPPORT. Laws of lane sets and registers: what each write changes, and that nothing else is. -/

namespace Sys2Proof.Machine

/-! ## Lane sets -/

theorem mem_lanesOf {m : Lanes} {l : Nat} : l ∈ lanesOf m ↔ l < 32 ∧ m.getLsbD l = true := by simp [lanesOf]

theorem maskSum_add (p : Nat → Bool) (n i : Nat) :
    (List.range n).foldr (fun l acc => if p l then acc + 2^l else acc) i =
      (List.range n).foldr (fun l acc => if p l then acc + 2^l else acc) 0 + i := by
  induction n generalizing i with
  | zero => simp
  | succ n ih =>
    simp only [List.range_succ, List.foldr_append, List.foldr_cons, List.foldr_nil]
    split
    · rw [ih (i + 2^n), ih (0 + 2^n)]; omega
    · rw [ih i]

theorem maskSum_succ (p : Nat → Bool) (n : Nat) :
    (List.range (n + 1)).foldr (fun l acc => if p l then acc + 2^l else acc) 0 =
      (List.range n).foldr (fun l acc => if p l then acc + 2^l else acc) 0 + if p n then 2^n else 0 := by
  simp only [List.range_succ, List.foldr_append, List.foldr_cons, List.foldr_nil]
  rw [maskSum_add]; split <;> simp

theorem maskSum_lt (p : Nat → Bool) (n : Nat) : (List.range n).foldr (fun l acc => if p l then acc + 2^l else acc) 0 < 2^n := by
  induction n with
  | zero => simp
  | succ n ih => rw [maskSum_succ, Nat.pow_succ]; split <;> omega

theorem maskSum_testBit (p : Nat → Bool) (n l : Nat) :
    ((List.range n).foldr (fun l acc => if p l then acc + 2^l else acc) 0).testBit l = (decide (l < n) && p l) := by
  induction n with
  | zero => simp
  | succ n ih =>
    have hlt := maskSum_lt p n
    rw [maskSum_succ]
    generalize hS : (List.range n).foldr (fun l acc => if p l then acc + 2^l else acc) 0 = S at ih hlt
    rcases Nat.lt_trichotomy l n with h | h | h
    · split
      · rw [Nat.add_comm, Nat.testBit_two_pow_add_gt h, ih]; simp [h, Nat.lt_succ_of_lt h]
      · rw [Nat.add_zero, ih]; simp [h, Nat.lt_succ_of_lt h]
    · subst h
      split
      · rename_i hp
        rw [Nat.add_comm, Nat.testBit_two_pow_add_eq, Nat.testBit_lt_two_pow hlt]; simp [hp]
      · rename_i hp
        rw [Nat.add_zero, Nat.testBit_lt_two_pow hlt]; simp [hp]
    · have h2 : ¬ l < n + 1 := by omega
      rw [Nat.testBit_lt_two_pow]
      · simp [h2]
      · calc _ < 2^(n + 1) := by rw [Nat.pow_succ]; split <;> omega
          _ ≤ 2^l := Nat.pow_le_pow_right (by omega) h

/-- The lanes of a mask made from a test. -/
@[simp] theorem getLsbD_maskOf (p : Nat → Bool) (l : Nat) : (maskOf p).getLsbD l = (decide (l < 32) && p l) := by
  rw [maskOf, BitVec.getLsbD_ofNat, maskSum_testBit, ← Bool.and_assoc, Bool.and_self]

@[simp] theorem getLsbD_active (g : Group) (gd : Guard) (l : Nat) :
    (g.active gd).getLsbD l = (decide (l < 32) && (g.em.getLsbD l && ((g.lane l).pred gd.pg.toNat != gd.pn))) := by
  simp [Group.active]

/-! ## Registers of a lane -/

/-- v0 reads as zero, RAW (R19). -/
@[simp] theorem Lane.reg_zero (x : Lane) : x.reg 0 = Reg.zero := by simp [Lane.reg]

theorem Lane.reg_setReg (x : Lane) (r k : Nat) (v : Reg) :
    (x.setReg r v).reg k = if k = r ∧ r ≠ 0 then v else x.reg k := by
  unfold Lane.setReg Lane.reg
  by_cases hr : r = 0
  · subst hr; simp
  · by_cases hk : k = 0
    · subst hk; simp [Ne.symm hr, hr]
    · simp [hr, hk, Sparse.get_set]

@[simp] theorem Lane.reg_setReg_same (x : Lane) {r : Nat} (v : Reg) (h : r ≠ 0) : (x.setReg r v).reg r = v := by
  simp [Lane.reg_setReg, h]

theorem Lane.reg_setReg_ne (x : Lane) {r k : Nat} (v : Reg) (h : k ≠ r) : (x.setReg r v).reg k = x.reg k := by
  simp [Lane.reg_setReg, h]

theorem Lane.reg_setRegs (x : Lane) (r k : Nat) (vs : List Reg) :
    (x.setRegs r vs).reg k = if r ≤ k ∧ k ≠ 0 then (vs[k - r]?).getD (x.reg k) else x.reg k := by
  induction vs generalizing x r with
  | nil => simp [Lane.setRegs]
  | cons v vs ih =>
    simp only [Lane.setRegs, ih, Lane.reg_setReg]
    by_cases hk : k = 0
    · subst hk; simp; intro h; simp [h]
    · by_cases he : k = r
      · subst he
        have : ¬ k + 1 ≤ k := by omega
        simp [this, hk]
      · by_cases hle : r ≤ k
        · obtain ⟨n, hn⟩ : ∃ n, k - r = n + 1 := ⟨k - r - 1, by omega⟩
          have h1 : r + 1 ≤ k := by omega
          have h2 : k - (r + 1) = n := by omega
          simp [hk, he, hle, h1, hn, h2]
        · have h1 : ¬ r + 1 ≤ k := by omega
          simp [he, hle, h1]

/-- A lane of a register write keeps everything but the register file. -/
@[simp] theorem Lane.setReg_preds (x : Lane) (r : Nat) (v : Reg) : (x.setReg r v).preds = x.preds := by
  unfold Lane.setReg; split <;> rfl
@[simp] theorem Lane.setReg_key (x : Lane) (r : Nat) (v : Reg) : (x.setReg r v).key = x.key := by unfold Lane.setReg; split <;> rfl
@[simp] theorem Lane.setReg_ctr (x : Lane) (r : Nat) (v : Reg) : (x.setReg r v).ctr = x.ctr := by unfold Lane.setReg; split <;> rfl
@[simp] theorem Lane.setReg_wid (x : Lane) (r : Nat) (v : Reg) : (x.setReg r v).wid = x.wid := by unfold Lane.setReg; split <;> rfl
@[simp] theorem Lane.setReg_will (x : Lane) (r : Nat) (v : Reg) : (x.setReg r v).will = x.will := by unfold Lane.setReg; split <;> rfl
@[simp] theorem Lane.setReg_estq (x : Lane) (r : Nat) (v : Reg) : (x.setReg r v).estq = x.estq := by unfold Lane.setReg; split <;> rfl
@[simp] theorem Lane.setReg_join (x : Lane) (r : Nat) (v : Reg) : (x.setReg r v).join = x.join := by unfold Lane.setReg; split <;> rfl
@[simp] theorem Lane.setReg_resv (x : Lane) (r : Nat) (v : Reg) : (x.setReg r v).resv = x.resv := by unfold Lane.setReg; split <;> rfl

theorem Lane.setRegs_keeps {γ : Type} (p : Lane → γ) (hp : ∀ x r v, p (Lane.setReg x r v) = p x) (x : Lane) (r : Nat) (vs : List Reg) :
    p (x.setRegs r vs) = p x := by
  induction vs generalizing x r with
  | nil => rfl
  | cons v vs ih => rw [Lane.setRegs, ih, hp]

/-! ## Predicates -/

@[simp] theorem Lane.pred_zero (x : Lane) : x.pred 0 = true := by simp [Lane.pred]

theorem Lane.pred_setPred (x : Lane) {p k : Nat} (b : Bool) (hk : k < 8) :
    (x.setPred p b).pred k = if k = p ∧ p ≠ 0 then b else x.pred k := by
  unfold Lane.setPred Lane.pred
  by_cases hp : p = 0
  · subst hp; simp
  · by_cases hk0 : k = 0
    · subst hk0; simp [Ne.symm hp]
    · have e : (BitVec.ofNat 8 (2^p)).getLsbD k = decide (k = p) := by
        rw [BitVec.getLsbD_ofNat, Nat.testBit_two_pow]; simp [hk, eq_comm]
      cases b
      · simp only [hp, if_false, Bool.false_eq_true, BitVec.getLsbD_and, BitVec.getLsbD_not, e, hk]
        by_cases h : k = p <;> simp [h, hp]
      · simp only [hp, if_false, if_true, BitVec.getLsbD_or, e]
        by_cases h : k = p <;> simp [h, hp]

@[simp] theorem Lane.setPred_regs (x : Lane) (p : Nat) (b : Bool) : (x.setPred p b).regs = x.regs := by
  unfold Lane.setPred; split <;> [rfl; (split <;> rfl)]

@[simp] theorem Lane.reg_setPred (x : Lane) (p k : Nat) (b : Bool) : (x.setPred p b).reg k = x.reg k := by simp [Lane.reg]

/-! ## Lanes of a group -/

@[simp] theorem Group.lane_mapLanes (g : Group) (m : Lanes) (f : Nat → Lane → Lane) (l : Nat) (h : l < 32) :
    (g.mapLanes m f).lane l = if m.getLsbD l then f l (g.lane l) else g.lane l := by
  simp [Group.mapLanes, Group.lane, List.getD, h]

theorem Group.lane_mapLanes_out (g : Group) (m : Lanes) (f : Nat → Lane → Lane) (l : Nat) (h : ¬ l < 32) :
    (g.mapLanes m f).lane l = {} := by
  simp only [Group.mapLanes, Group.lane, List.getD]
  rw [List.getElem?_eq_none (by simp; omega)]; rfl

@[simp] theorem Group.sreg_setS (g : Group) (n k : Nat) (v : W32) : (g.setS n v).sreg k = if k = n then v else g.sreg k :=
  Sparse.get_set 0 g.s n k v
@[simp] theorem Group.areg_setA (g : Group) (n k : Nat) (v : AddrReg) : (g.setA n v).areg k = if k = n then v else g.areg k := by
  simp [Group.setA, Group.areg, Sparse.get_set]
@[simp] theorem Group.loop_setLoop (g : Group) (n k : Nat) (v : Loop) : (g.setLoop n v).loop k = if k = n then v else g.loop k := by
  simp [Group.setLoop, Group.loop, Sparse.get_set]

@[simp] theorem Group.lane_setS (g : Group) (n l : Nat) (v : W32) : (g.setS n v).lane l = g.lane l := rfl
@[simp] theorem Group.lane_setA (g : Group) (n l : Nat) (v : AddrReg) : (g.setA n v).lane l = g.lane l := rfl
@[simp] theorem Group.lane_setLoop (g : Group) (n l : Nat) (v : Loop) : (g.setLoop n v).lane l = g.lane l := rfl
@[simp] theorem Group.sreg_mapLanes (g : Group) (m : Lanes) (f : Nat → Lane → Lane) (k : Nat) : (g.mapLanes m f).sreg k = g.sreg k := rfl
@[simp] theorem Group.areg_mapLanes (g : Group) (m : Lanes) (f : Nat → Lane → Lane) (k : Nat) : (g.mapLanes m f).areg k = g.areg k := rfl

end Sys2Proof.Machine
end

