-- ==== Sys2Proof/Laws/Retire.lean ====
section
/-! SUPPORT. Laws of the frame around an instruction: what settling of loops, marks, windows and retirement change in a group, what
`issue` and `conclude` come to, and the completion of the bodies that compute. -/

namespace Sys2Proof.Machine

/-! ## Frames compose -/

theorem Same.refl (w : Touches) (g : Group) : Same w g g := by
  constructor <;> simp

theorem Same.trans {w : Touches} {g h k : Group} (a : Same w g h) (b : Same w h k) : Same w g k where
  vec l r hl hw := (b.vec l r hl hw).trans (a.vec l r hl hw)
  pred l p hl hp hw := (b.pred l p hl hp hw).trans (a.pred l p hl hp hw)
  ctr l hl hw := (b.ctr l hl hw).trans (a.ctr l hl hw)
  will l hl hw := (b.will l hl hw).trans (a.will l hl hw)
  resv l hl hw := (b.resv l hl hw).trans (a.resv l hl hw)
  lane l hl := by
    obtain ⟨b1, b2, b3, b4⟩ := b.lane l hl
    obtain ⟨a1, a2, a3, a4⟩ := a.lane l hl
    exact ⟨b1.trans a1, b2.trans a2, b3.trans a3, b4.trans a4⟩
  scal r hw := (b.scal r hw).trans (a.scal r hw)
  addr r hw := (b.addr r hw).trans (a.addr r hw)
  fpTop := b.fpTop.trans a.fpTop
  flags hw := (b.flags hw).trans (a.flags hw)
  em hw := (b.em hw).trans (a.em hw)
  path := by
    obtain ⟨b1, b2, b3, b4⟩ := b.path
    obtain ⟨a1, a2, a3, a4⟩ := a.path
    exact ⟨b1.trans a1, b2.trans a2, b3.trans a3, b4.trans a4⟩
  mode := by
    obtain ⟨b1, b2, b3, b4, b5⟩ := b.mode
    obtain ⟨a1, a2, a3, a4, a5⟩ := a.mode
    exact ⟨b1.trans a1, b2.trans a2, b3.trans a3, b4.trans a4, b5.trans a5⟩
  exc := by
    obtain ⟨b1, b2, b3, b4, b5, b6⟩ := b.exc
    obtain ⟨a1, a2, a3, a4, a5, a6⟩ := a.exc
    exact ⟨b1.trans a1, b2.trans a2, b3.trans a3, b4.trans a4, b5.trans a5, b6.trans a6⟩
  ident := by
    obtain ⟨b1, b2, b3, b4, b5, b6⟩ := b.ident
    obtain ⟨a1, a2, a3, a4, a5, a6⟩ := a.ident
    exact ⟨b1.trans a1, b2.trans a2, b3.trans a3, b4.trans a4, b5.trans a5, b6.trans a6⟩

/-- A frame that names more holds too. -/
theorem Same.mono {w : Touches} (v : Touches) {g h : Group} (a : Same w g h)
    (vec : ∀ l r, w.vec l r → v.vec l r := by first | exact fun _ _ h => h | exact fun _ _ h => False.elim h)
    (pred : ∀ l p, w.pred l p → v.pred l p := by first | exact fun _ _ h => h | exact fun _ _ h => False.elim h)
    (ctr : ∀ l, w.ctr l → v.ctr l := by first | exact fun _ h => h | exact fun _ h => False.elim h)
    (will : ∀ l, w.will l → v.will l := by first | exact fun _ h => h | exact fun _ h => False.elim h)
    (resv : ∀ l, w.resv l → v.resv l := by first | exact fun _ h => h | exact fun _ h => False.elim h)
    (scal : ∀ r, w.scal r → v.scal r := by first | exact fun _ h => h | exact fun _ h => False.elim h)
    (addr : ∀ r, w.addr r → v.addr r := by first | exact fun _ h => h | exact fun _ h => False.elim h)
    (flags : w.flags → v.flags := by first | exact fun h => h | exact fun h => False.elim h | exact fun _ => trivial)
    (em : w.em → v.em := by first | exact fun h => h | exact fun h => False.elim h) : Same v g h :=
  { a with
    vec := fun l r hl hv => a.vec l r hl (fun hw => hv (vec l r hw))
    pred := fun l p hl hp hv => a.pred l p hl hp (fun hw => hv (pred l p hw))
    ctr := fun l hl hv => a.ctr l hl (fun hw => hv (ctr l hw))
    will := fun l hl hv => a.will l hl (fun hw => hv (will l hw))
    resv := fun l hl hv => a.resv l hl (fun hw => hv (resv l hw))
    scal := fun r hv => a.scal r (fun hw => hv (scal r hw))
    addr := fun r hv => a.addr r (fun hw => hv (addr r hw))
    flags := fun hv => a.flags (fun hw => hv (flags hw))
    em := fun hv => a.em (fun hw => hv (em hw)) }

/-- Two groups that differ only in PC, loops, windows and the counts of issue. -/
theorem Same.of_eq (w : Touches) {g h : Group} (e : h.lanes = g.lanes ∧ h.s = g.s ∧ h.a = g.a ∧ h.fpstat = g.fpstat ∧ h.em = g.em ∧
    h.path = g.path ∧ h.occ = g.occ ∧ h.cur = g.cur ∧ h.st = g.st ∧ h.supervisor = g.supervisor ∧ h.saved = g.saved ∧
    h.hset = g.hset ∧ h.hseg = g.hseg ∧ h.serving = g.serving ∧ h.epc = g.epc ∧ h.ecause = g.ecause ∧ h.eaddr = g.eaddr ∧
    h.emaskf = g.emaskf ∧ h.einfo = g.einfo ∧ h.elpc = g.elpc ∧ h.blk = g.blk ∧ h.grp = g.grp ∧ h.role = g.role ∧
    h.stage = g.stage ∧ h.budget = g.budget ∧ h.bars = g.bars) : Same w g h := by
  obtain ⟨e1, e2, e3, e4, e5, e⟩ := e
  have hl (l : Nat) : h.lane l = g.lane l := by simp [Group.lane, e1]
  constructor <;> simp_all [Group.sreg, Group.areg]

/-- Lanes that change one by one. -/
theorem Same.of_lanes (w : Touches) (g : Group) (m : Lanes) (f : Nat → Lane → Lane)
    (vec : ∀ l r, l < 32 → m.getLsbD l = true → ¬ w.vec l r → (f l (g.lane l)).reg r = (g.lane l).reg r)
    (pred : ∀ l p, l < 32 → p < 8 → m.getLsbD l = true → ¬ w.pred l p → (f l (g.lane l)).pred p = (g.lane l).pred p)
    (ctr : ∀ l, l < 32 → m.getLsbD l = true → ¬ w.ctr l → (f l (g.lane l)).ctr = (g.lane l).ctr)
    (will : ∀ l, l < 32 → m.getLsbD l = true → ¬ w.will l → (f l (g.lane l)).will = (g.lane l).will)
    (resv : ∀ l, l < 32 → m.getLsbD l = true → ¬ w.resv l → (f l (g.lane l)).resv = (g.lane l).resv)
    (lane : ∀ l, l < 32 → m.getLsbD l = true → (f l (g.lane l)).key = (g.lane l).key ∧ (f l (g.lane l)).wid = (g.lane l).wid ∧
      (f l (g.lane l)).estq = (g.lane l).estq ∧ (f l (g.lane l)).join = (g.lane l).join) : Same w g (g.mapLanes m f) where
  vec l r hl hw := by rw [Group.lane_mapLanes _ _ _ _ hl]; split <;> [exact vec l r hl ‹_› hw; rfl]
  pred l p hl hp hw := by rw [Group.lane_mapLanes _ _ _ _ hl]; split <;> [exact pred l p hl hp ‹_› hw; rfl]
  ctr l hl hw := by rw [Group.lane_mapLanes _ _ _ _ hl]; split <;> [exact ctr l hl ‹_› hw; rfl]
  will l hl hw := by rw [Group.lane_mapLanes _ _ _ _ hl]; split <;> [exact will l hl ‹_› hw; rfl]
  resv l hl hw := by rw [Group.lane_mapLanes _ _ _ _ hl]; split <;> [exact resv l hl ‹_› hw; rfl]
  lane l hl := by rw [Group.lane_mapLanes _ _ _ _ hl]; split <;> [exact lane l hl ‹_›; exact ⟨rfl, rfl, rfl, rfl⟩]
  scal r _ := rfl
  addr r _ := rfl
  fpTop := rfl
  flags _ := rfl
  em _ := rfl
  path := ⟨rfl, rfl, rfl, rfl⟩
  mode := ⟨rfl, rfl, rfl, rfl, rfl⟩
  exc := ⟨rfl, rfl, rfl, rfl, rfl, rfl⟩
  ident := ⟨rfl, rfl, rfl, rfl, rfl, rfl⟩

/-- Registers from `d` on are written in the lanes of `m`. -/
theorem Same.of_setRegs (g : Group) (m : Lanes) (d : Nat) (f : Nat → Lane → List Reg) :
    Same { vec := fun l r => m.getLsbD l = true ∧ d ≤ r ∧ r < d + (f l (g.lane l)).length } g
      (g.mapLanes m (fun l x => x.setRegs d (f l x))) := by
  refine Same.of_lanes _ g m _ ?_ ?_ ?_ ?_ ?_ ?_
  · intro l r _ hm hw
    rw [Lane.reg_setRegs]
    split
    · rename_i hr
      rw [List.getElem?_eq_none (by by_contra hn; exact hw ⟨hm, hr.1, by omega⟩)]; rfl
    · rfl
  · intro l p _ _ _ _
    have := Lane.setRegs_keeps Lane.preds Lane.setReg_preds (g.lane l) d (f l (g.lane l))
    simp [Lane.pred, this]
  · intro l _ _ _; exact Lane.setRegs_keeps Lane.ctr Lane.setReg_ctr _ _ _
  · intro l _ _ _; exact Lane.setRegs_keeps Lane.will Lane.setReg_will _ _ _
  · intro l _ _ _; exact Lane.setRegs_keeps Lane.resv Lane.setReg_resv _ _ _
  · intro l _ _
    exact ⟨Lane.setRegs_keeps Lane.key Lane.setReg_key _ _ _, Lane.setRegs_keeps Lane.wid Lane.setReg_wid _ _ _,
      Lane.setRegs_keeps Lane.estq Lane.setReg_estq _ _ _, Lane.setRegs_keeps Lane.join Lane.setReg_join _ _ _⟩

/-- Predicate `p` is written in the lanes of `m`. -/
theorem Same.of_setPred (g : Group) (m : Lanes) (p : Nat) (f : Nat → Lane → Bool) :
    Same { pred := fun l q => m.getLsbD l = true ∧ q = p } g (g.mapLanes m (fun l x => x.setPred p (f l x))) := by
  refine Same.of_lanes _ g m _ ?_ ?_ ?_ ?_ ?_ ?_
  · intro l r _ _ _; simp
  · intro l q _ hq hm hw
    rw [Lane.pred_setPred _ _ hq, if_neg (fun h => hw ⟨hm, h.1⟩)]
  all_goals intro l _ _
  · intro _; unfold Lane.setPred; split <;> [rfl; (split <;> rfl)]
  · intro _; unfold Lane.setPred; split <;> [rfl; (split <;> rfl)]
  · intro _; unfold Lane.setPred; split <;> [rfl; (split <;> rfl)]
  · unfold Lane.setPred; split <;> [exact ⟨rfl, rfl, rfl, rfl⟩; (split <;> exact ⟨rfl, rfl, rfl, rfl⟩)]

/-- A scalar register is written. -/
theorem Same.of_setS (g : Group) (d : Nat) (v : W32) : Same { scal := fun r => r = d } g (g.setS d v) := by
  constructor <;> try (first | exact fun _ _ => rfl | rfl | simp [Group.setS]; done)
  all_goals first
    | (intro r hr; rw [Group.sreg_setS, if_neg hr])
    | exact fun _ _ => ⟨rfl, rfl, rfl, rfl⟩
    | (intros; rfl)

/-! ## Advancing, marks, windows -/

theorem stepLoops_same (w : Touches) (g : Group) (nx : W64) (ns : List Nat) : Same w g (stepLoops g nx ns) := by
  induction ns generalizing g with
  | nil => exact Same.of_eq w (by simp [stepLoops])
  | cons n r ih =>
    unfold stepLoops
    dsimp only
    split
    · exact ih g
    · split
      · exact Same.of_eq w (by simp [Group.setLoop])
      · exact Same.trans (Same.of_eq w (by simp [Group.setLoop])) (ih _)

theorem stepLoops_windows (g : Group) (nx : W64) (ns : List Nat) : (stepLoops g nx ns).windows = g.windows := by
  induction ns generalizing g with
  | nil => rfl
  | cons n r ih =>
    unfold stepLoops
    dsimp only
    split
    · exact ih g
    · split <;> [rfl; exact ih _]

/-- Advancing changes PC and loops only. -/
theorem Group.advance_same (w : Touches) (g : Group) : Same w g g.advance := stepLoops_same w g _ _
@[simp] theorem Group.advance_windows (g : Group) : g.advance.windows = g.windows := stepLoops_windows g _ _

theorem stepLoops_congr {g g' : Group} (h1 : g'.lc = g.lc) (h2 : g'.nest = g.nest) (nx : W64) (ns : List Nat) :
    (stepLoops g' nx ns).pc = (stepLoops g nx ns).pc ∧ (stepLoops g' nx ns).lc = (stepLoops g nx ns).lc ∧
      (stepLoops g' nx ns).nest = (stepLoops g nx ns).nest := by
  induction ns generalizing g g' with
  | nil => exact ⟨rfl, h1, h2⟩
  | cons n r ih =>
    have hl : g'.loop n = g.loop n := by simp [Group.loop, h1]
    unfold stepLoops
    dsimp only
    rw [hl]
    split
    · exact ih h1 h2
    · split
      · exact ⟨rfl, by simp [Group.setLoop, h1], h2⟩
      · exact ih (by simp [Group.setLoop, h1]) (by simp [h2])

theorem Group.advance_congr {g g' : Group} (h0 : g'.pc = g.pc) (h1 : g'.lc = g.lc) (h2 : g'.nest = g.nest) :
    g'.advance.pc = g.advance.pc ∧ g'.advance.lc = g.advance.lc ∧ g'.advance.nest = g.advance.nest := by
  unfold Group.advance
  rw [h0, h2]
  exact stepLoops_congr h1 h2 _ _

/-- What last-read marks release (R100). -/
theorem Group.release_same (g : Group) (rs : List Nat) : Same { vec := fun _ r => r ∈ rs } g (g.release rs) := by
  unfold Group.release
  split
  · exact Same.refl _ _
  · have key (γ : Type) (p : Lane → γ) (hp : ∀ x r v, p (Lane.setReg x r v) = p x) (x : Lane) :
        p (rs.foldl (fun x r => x.setReg r Reg.zero) x) = p x := by
      clear * - hp
      induction rs generalizing x with
      | nil => rfl
      | cons r rs ih => rw [List.foldl_cons, ih, hp]
    have lane (l : Nat) : ({ g with lanes := g.lanes.map (fun x => rs.foldl (fun x r => x.setReg r Reg.zero) x) } : Group).lane l =
        rs.foldl (fun x r => x.setReg r Reg.zero) (g.lane l) ∨
        ({ g with lanes := g.lanes.map (fun x => rs.foldl (fun x r => x.setReg r Reg.zero) x) } : Group).lane l = g.lane l := by
      simp only [Group.lane, List.getD, List.getElem?_map]
      cases h : g.lanes[l]? with
      | none => right; rfl
      | some x => left; rfl
    have reg (x : Lane) (r : Nat) (hr : r ∉ rs) : (rs.foldl (fun x r => x.setReg r Reg.zero) x).reg r = x.reg r := by
      clear * - hr
      induction rs generalizing x with
      | nil => rfl
      | cons q rs ih =>
        rw [List.foldl_cons, ih _ (fun h => hr (List.mem_cons_of_mem _ h)), Lane.reg_setReg_ne]
        exact fun h => hr (h ▸ List.mem_cons_self ..)
    constructor
    · intro l r _ hw; rcases lane l with h | h <;> rw [h]; exact reg _ r hw
    · intro l p _ _ _
      rcases lane l with h | h <;> rw [h]
      simp [Lane.pred, key _ Lane.preds Lane.setReg_preds]
    · intro l _ _; rcases lane l with h | h <;> rw [h]; exact key _ Lane.ctr Lane.setReg_ctr _
    · intro l _ _; rcases lane l with h | h <;> rw [h]; exact key _ Lane.will Lane.setReg_will _
    · intro l _ _; rcases lane l with h | h <;> rw [h]; exact key _ Lane.resv Lane.setReg_resv _
    · intro l _
      rcases lane l with h | h <;> rw [h]
      · exact ⟨key _ Lane.key Lane.setReg_key _, key _ Lane.wid Lane.setReg_wid _, key _ Lane.estq Lane.setReg_estq _,
          key _ Lane.join Lane.setReg_join _⟩
      · exact ⟨rfl, rfl, rfl, rfl⟩
    all_goals first | exact fun _ _ => rfl | exact fun _ => rfl | simp

/-- A released register reads as 0, RAW (R100). -/
theorem Group.release_reg (g : Group) {rs : List Nat} {r : Nat} (h : r ∈ rs) (l : Nat) : ((g.release rs).lane l).reg r = Reg.zero := by
  have hs (x : Lane) (qs : List Nat) (hx : x.reg r = Reg.zero) : (qs.foldl (fun x r => x.setReg r Reg.zero) x).reg r = Reg.zero := by
    clear * - hx
    induction qs generalizing x with
    | nil => exact hx
    | cons q qs ih => exact ih _ (by rw [Lane.reg_setReg]; split <;> [rfl; exact hx])
  have hz (x : Lane) (qs : List Nat) (hq : r ∈ qs) : (qs.foldl (fun x r => x.setReg r Reg.zero) x).reg r = Reg.zero := by
    clear * - hs hq
    induction qs generalizing x with
    | nil => cases hq
    | cons q qs ih =>
      rcases List.mem_cons.1 hq with rfl | hq
      · exact hs _ qs (by by_cases h0 : r = 0 <;> [(subst h0; simp); simp [h0]])
      · exact ih _ hq
  unfold Group.release
  rw [if_neg (by cases rs <;> [cases h; simp])]
  simp only [Group.lane, List.getD, List.getElem?_map]
  cases g.lanes[l]? with
  | none => show Lane.reg {} r = _; by_cases h0 : r = 0 <;> simp [Lane.reg, h0, Sparse.get]
  | some x => exact hz x rs h

@[simp] theorem Group.release_windows (g : Group) (rs : List Nat) : (g.release rs).windows = g.windows := by
  unfold Group.release; split <;> rfl
@[simp] theorem Group.release_path (g : Group) (rs : List Nat) : (g.release rs).path = g.path := by
  unfold Group.release; split <;> rfl

/-- What one landing writes. -/
def Landing.touches : Landing → Touches
  | .vec l r _ => { vec := fun m q => m = l ∧ q = r }
  | .pred l p _ => { pred := fun m q => m = l ∧ q = p }
  | .scalar r _ => { scal := fun q => q = r }

theorem getLsbD_twoPow_lane (k l : Nat) (h : l < 32) : (BitVec.ofNat 32 (2^k)).getLsbD l = decide (k = l) := by
  rw [BitVec.getLsbD_ofNat, Nat.testBit_two_pow]; simp [h]

theorem Group.landOne_same (g : Group) (x : Landing) : Same x.touches g (g.landOne x) := by
  cases x with
  | vec l r v =>
    refine (Same.of_setRegs g (BitVec.ofNat 32 (2^l)) r (fun _ _ => [v])).mono _ (vec := ?_)
    rintro m q ⟨h1, h2, h3⟩
    by_cases hm : m < 32
    · rw [getLsbD_twoPow_lane l m hm] at h1
      exact ⟨(of_decide_eq_true h1).symm, by simp at h3; omega⟩
    · rw [BitVec.getLsbD_of_ge _ _ (by omega)] at h1; exact absurd h1 (by simp)
  | pred l p b =>
    refine (Same.of_setPred g (BitVec.ofNat 32 (2^l)) p (fun _ _ => b)).mono _ (pred := ?_)
    rintro m q ⟨h1, h2⟩
    by_cases hm : m < 32
    · rw [getLsbD_twoPow_lane l m hm] at h1
      exact ⟨(of_decide_eq_true h1).symm, h2⟩
    · rw [BitVec.getLsbD_of_ge _ _ (by omega)] at h1; exact absurd h1 (by simp)
  | scalar r v => exact Same.of_setS g r v

/-- What the landings of a list write. -/
def landTouches (ls : List Landing) : Touches :=
  { vec := fun l r => ∃ x, Landing.vec l r x ∈ ls, pred := fun l p => ∃ b, Landing.pred l p b ∈ ls
    scal := fun r => ∃ x, Landing.scalar r x ∈ ls }

theorem landAllOf_same (ls : List Landing) (g : Group) : Same (landTouches ls) g (ls.foldl Group.landOne g) := by
  induction ls generalizing g with
  | nil => exact Same.refl _ g
  | cons x ls ih =>
    have here {y : Landing} (h : y = x) : y ∈ x :: ls := h ▸ List.mem_cons_self ..
    have h2 := (ih (g.landOne x)).mono (landTouches (x :: ls)) (vec := fun _ _ ⟨v, hv⟩ => ⟨v, List.mem_cons_of_mem _ hv⟩)
      (pred := fun _ _ ⟨v, hv⟩ => ⟨v, List.mem_cons_of_mem _ hv⟩) (scal := fun _ ⟨v, hv⟩ => ⟨v, List.mem_cons_of_mem _ hv⟩)
    refine Same.trans ?_ h2
    have h1 := Group.landOne_same g x
    cases x with
    | vec l r v => exact h1.mono _ (vec := fun m q ⟨a, b⟩ => ⟨v, here (by rw [a, b])⟩)
    | pred l p b => exact h1.mono _ (pred := fun m q ⟨a, c⟩ => ⟨b, here (by rw [a, c])⟩)
    | scalar r v => exact h1.mono _ (scal := fun q (a : q = r) => ⟨v, here (by rw [a])⟩)

/-- What the landings of a list of windows write. -/
def windowTouches (ws : List Window) : Touches :=
  { vec := fun l r => ∃ w ∈ ws, ∃ x, Landing.vec l r x ∈ w.lands, pred := fun l p => ∃ w ∈ ws, ∃ b, Landing.pred l p b ∈ w.lands
    scal := fun r => ∃ w ∈ ws, ∃ x, Landing.scalar r x ∈ w.lands }

theorem windowTouches_mono {ws vs : List Window} (h : ∀ w ∈ ws, ∃ v ∈ vs, v.lands = w.lands) {g k : Group}
    (a : Same (windowTouches ws) g k) : Same (windowTouches vs) g k :=
  a.mono (windowTouches vs)
    (vec := fun _ _ ⟨w, hw, x, hx⟩ => let ⟨v, hv, e⟩ := h w hw; ⟨v, hv, x, e ▸ hx⟩)
    (pred := fun _ _ ⟨w, hw, x, hx⟩ => let ⟨v, hv, e⟩ := h w hw; ⟨v, hv, x, e ▸ hx⟩)
    (scal := fun _ ⟨w, hw, x, hx⟩ => let ⟨v, hv, e⟩ := h w hw; ⟨v, hv, x, e ▸ hx⟩)

theorem Group.land_same (g : Group) (w : Window) : Same (windowTouches [w]) g (g.land w) := by
  unfold Group.land
  dsimp only
  generalize hk : (if w.atEnd then { g with quantumDone := true, past := false } else g) = k
  have hq : Same (windowTouches [w]) g k := by subst hk; split <;> exact Same.of_eq _ (by simp)
  refine hq.trans ?_
  split
  · exact (landAllOf_same w.lands _).mono (windowTouches [w]) (vec := fun _ _ h => ⟨w, List.mem_cons_self .., h⟩)
      (pred := fun _ _ h => ⟨w, List.mem_cons_self .., h⟩) (scal := fun _ h => ⟨w, List.mem_cons_self .., h⟩)
  · exact Same.of_eq _ (by simp)

theorem foldl_land_same (ws : List Window) (g : Group) : Same (windowTouches ws) g (ws.foldl Group.land g) := by
  induction ws generalizing g with
  | nil => exact Same.refl _ g
  | cons w ws ih =>
    exact Same.trans (windowTouches_mono (by simp) (Group.land_same g w))
      (windowTouches_mono (fun v hv => ⟨v, List.mem_cons_of_mem _ hv, rfl⟩) (ih _))

/-- A landing changes no PC, no loop and no window. -/
structure Steady (g h : Group) : Prop where
  pc : h.pc = g.pc
  lc : h.lc = g.lc
  nest : h.nest = g.nest
  windows : h.windows = g.windows

theorem Steady.refl (g : Group) : Steady g g := ⟨rfl, rfl, rfl, rfl⟩
theorem Steady.trans {g h k : Group} (a : Steady g h) (b : Steady h k) : Steady g k :=
  ⟨b.pc.trans a.pc, b.lc.trans a.lc, b.nest.trans a.nest, b.windows.trans a.windows⟩

theorem foldl_steady {α : Type} {f : Group → α → Group} (hf : ∀ g x, Steady g (f g x)) (ls : List α) (g : Group) :
    Steady g (ls.foldl f g) := by
  induction ls generalizing g with
  | nil => exact Steady.refl g
  | cons x ls ih => exact (hf g x).trans (ih _)

theorem Group.landOne_steady (g : Group) (x : Landing) : Steady g (g.landOne x) := by cases x <;> exact ⟨rfl, rfl, rfl, rfl⟩

theorem Group.land_steady (g : Group) (w : Window) : Steady g (g.land w) := by
  unfold Group.land
  dsimp only
  generalize hk : (if w.atEnd then { g with quantumDone := true, past := false } else g) = k
  have hq : Steady g k := by subst hk; split <;> exact ⟨rfl, rfl, rfl, rfl⟩
  refine hq.trans ?_
  split
  · exact foldl_steady Group.landOne_steady _ _
  · exact ⟨rfl, rfl, rfl, rfl⟩

theorem Group.release_steady (g : Group) (rs : List Nat) : Steady g (g.release rs) := by
  unfold Group.release; split <;> exact ⟨rfl, rfl, rfl, rfl⟩

/-- Counting the windows that an instruction on path `p` is in lands no more than the open ones. -/
theorem Group.countWindows_same (g : Group) (p : Lanes) : Same (windowTouches g.windows) g (g.countWindows p) := by
  unfold Group.countWindows
  dsimp only
  generalize hk : List.filter (fun (w : Window) => w.left == 0)
    (g.windows.map (fun w => if w.holds p then { w with left := w.left - 1 } else w)) = ws
  refine Same.trans (windowTouches_mono ?_ (foldl_land_same ws g)) (Same.of_eq _ (by simp))
  subst hk
  intro w hw
  obtain ⟨v, hv, rfl⟩ := List.mem_map.1 (List.mem_filter.1 hw).1
  exact ⟨v, hv, by split <;> rfl⟩

/-- The windows still open after an instruction on path `p` has counted them. -/
def leftOpen (g : Group) (p : Lanes) : List Window :=
  (g.windows.map (fun w => if w.holds p then { w with left := w.left - 1 } else w)).filter (fun w => w.left != 0)

theorem Group.countWindows_windows (g : Group) (p : Lanes) : (g.countWindows p).windows = leftOpen g p := rfl

theorem Group.countWindows_loops (g : Group) (p : Lanes) : (g.countWindows p).pc = g.pc ∧ (g.countWindows p).lc = g.lc ∧
    (g.countWindows p).nest = g.nest := by
  unfold Group.countWindows
  have := foldl_steady Group.land_steady (List.filter (fun (w : Window) => w.left == 0)
    (g.windows.map (fun w => if w.holds p then { w with left := w.left - 1 } else w))) g
  exact ⟨this.pc, this.lc, this.nest⟩

/-! ## Retirement -/

/-- A window that lands at once. -/
def now (res : Option Window) : List Window :=
  match res with
  | none => []
  | some w => if w.left = 0 then [w] else []

theorem Group.takeResult_same (g : Group) (res : Option Window) : Same (windowTouches (now res)) g (g.takeResult res) := by
  cases res with
  | none => exact Same.refl _ g
  | some w =>
    by_cases h : w.left = 0
    · simpa [Group.takeResult, now, h] using Group.land_same g w
    · exact Same.of_eq _ (by simp [Group.takeResult, h])

theorem Group.takeResult_loops (g : Group) (res : Option Window) : (g.takeResult res).pc = g.pc ∧ (g.takeResult res).lc = g.lc ∧
    (g.takeResult res).nest = g.nest := by
  cases res with
  | none => exact ⟨rfl, rfl, rfl⟩
  | some w =>
    by_cases h : w.left = 0
    · have := Group.land_steady g w
      simpa [Group.takeResult, h] using ⟨this.pc, this.lc, this.nest⟩
    · simp [Group.takeResult, h]

theorem Group.holds_same (w : Touches) (g : Group) (i : Instr) : Same w g (g.holds i) := by
  unfold Group.holds; split <;> exact Same.of_eq _ (by simp)
theorem Group.holds_steady (g : Group) (i : Instr) : Steady g (g.holds i) := by
  unfold Group.holds; split <;> exact ⟨rfl, rfl, rfl, rfl⟩

/-- What retirement may write beside the instruction's own effect. -/
def retireTouches (g : Group) (i : Instr) (res : Option Window) : Touches :=
  { vec := fun l r => r ∈ released (useOf i) ∨ landsV g l r ∨ (windowTouches (now res)).vec l r
    pred := fun l p => landsP g l p ∨ (windowTouches (now res)).pred l p
    scal := fun r => landsS g r ∨ (windowTouches (now res)).scal r }

/-- The frame of retirement: marks, windows, its own result when its window has no word left. -/
theorem Group.retireOne_same (g g0 : Group) (i : Instr) (res : Option Window) :
    Same (retireTouches g i res) g (g.retireOne g0 i res) := by
  have h1 := (Group.release_same g (released (useOf i))).mono (retireTouches g i res) (vec := fun _ _ h => .inl h)
  have h2 := Group.countWindows_same (g.release (released (useOf i))) g0.path
  rw [Group.release_windows] at h2
  have h2 := h2.mono (retireTouches g i res) (vec := fun _ _ h => .inr (.inl h)) (pred := fun _ _ h => .inl h)
    (scal := fun _ h => .inl h)
  have h3 := (Group.takeResult_same ((g.release (released (useOf i))).countWindows g0.path) res).mono (retireTouches g i res)
    (vec := fun _ _ h => .inr (.inr h)) (pred := fun _ _ h => .inr h) (scal := fun _ h => .inr h)
  have h4 := ((h1.trans h2).trans h3).trans (Group.holds_same _ _ i)
  unfold Group.retireOne
  dsimp only
  split
  · exact h4.trans (Same.of_eq _ (by simp))
  · exact h4.trans (Same.of_eq _ (by simp))

/-- Retirement leaves a register that a mark of `i` releases at 0, unless a window lands there (R100). -/
theorem Group.retireOne_released (g g0 : Group) (i : Instr) (res : Option Window) {l r : Nat} (hl : l < 32) (h : r ∈ released (useOf i))
    (hw : ¬ landsV g l r) (hres : ¬ (windowTouches (now res)).vec l r) : ((g.retireOne g0 i res).lane l).reg r = Reg.zero := by
  have h2 := Group.countWindows_same (g.release (released (useOf i))) g0.path
  rw [Group.release_windows] at h2
  have h3 := Group.takeResult_same ((g.release (released (useOf i))).countWindows g0.path) res
  have h4 := Group.holds_same {} (((g.release (released (useOf i))).countWindows g0.path).takeResult res) i
  have e := (h4.vec l r hl id).trans ((h3.vec l r hl hres).trans ((h2.vec l r hl hw).trans (Group.release_reg g h l)))
  unfold Group.retireOne
  dsimp only
  split <;> exact e

theorem Group.retireOne_loops (g g0 : Group) (i : Instr) (res : Option Window) : (g.retireOne g0 i res).pc = g.pc ∧
    (g.retireOne g0 i res).lc = g.lc ∧ (g.retireOne g0 i res).nest = g.nest := by
  have a := Group.release_steady g (released (useOf i))
  have b := Group.countWindows_loops (g.release (released (useOf i))) g0.path
  have c := Group.takeResult_loops ((g.release (released (useOf i))).countWindows g0.path) res
  have d := Group.holds_steady (((g.release (released (useOf i))).countWindows g0.path).takeResult res) i
  unfold Group.retireOne
  dsimp only
  split <;> exact ⟨by rw [d.pc, c.1, b.1, a.pc], by rw [d.lc, c.2.1, b.2.1, a.lc], by rw [d.nest, c.2.2, b.2.2, a.nest]⟩

theorem Group.retireOne_windows (g g0 : Group) (i : Instr) (res : Option Window) : (g.retireOne g0 i res).windows =
    leftOpen g g0.path ++ (match res with | none => [] | some w => if w.left = 0 then [] else [w]) := by
  have key : (((g.release (released (useOf i))).countWindows g0.path).takeResult res).windows =
      leftOpen g g0.path ++ (match res with | none => [] | some w => if w.left = 0 then [] else [w]) := by
    have b : ((g.release (released (useOf i))).countWindows g0.path).windows = leftOpen g g0.path := by
      rw [Group.countWindows_windows, leftOpen, Group.release_windows]; rfl
    cases res with
    | none => simpa [Group.takeResult] using b
    | some w =>
      by_cases h : w.left = 0
      · simpa [Group.takeResult, h] using (Group.land_steady _ _).windows.trans b
      · simp [Group.takeResult, h, b]
  unfold Group.retireOne
  dsimp only
  split
  · exact ((Group.holds_steady _ i).windows).trans key
  · exact ((Group.holds_steady _ i).windows).trans key

end Sys2Proof.Machine
end

