-- ==== Sys2Proof/Laws/Complete.lean ====
section
/-! SUPPORT. Laws of completion: `retireInstr`, `complete` and `issue` in terms of the group and the rest of the machine, and the
completion of every body that computes in registers. -/

namespace Sys2Proof.Machine

/-! ## The rest of the machine -/

theorem Rest.refl (s : State) : Rest s s := by constructor <;> simp
theorem Rest.trans {s t u : State} (a : Rest s t) (b : Rest t u) : Rest s u where
  mem := ⟨b.mem.1.trans a.mem.1, b.mem.2.trans a.mem.2⟩
  work := ⟨b.work.1.trans a.work.1, b.work.2.1.trans a.work.2.1, b.work.2.2.trans a.work.2.2⟩
  nodes := ⟨b.nodes.1.trans a.nodes.1, b.nodes.2.1.trans a.nodes.2.1, b.nodes.2.2.1.trans a.nodes.2.2.1,
    b.nodes.2.2.2.trans a.nodes.2.2.2⟩
  parts := ⟨b.parts.1.trans a.parts.1, b.parts.2.1.trans a.parts.2.1, b.parts.2.2.1.trans a.parts.2.2.1,
    b.parts.2.2.2.1.trans a.parts.2.2.2.1, b.parts.2.2.2.2.trans a.parts.2.2.2.2⟩
  turn := ⟨b.turn.1.trans a.turn.1, b.turn.2.trans a.turn.2⟩

/-- A change of group tables and block tables only. -/
theorem Rest.of_tables (s : State) (gs : List (Nat × Group)) (bs : List (Nat × Block)) : Rest s { s with groups := gs, blocks := bs } := by
  constructor <;> simp

theorem Rest.updGroup (s : State) (k : Nat) (f : Group → Group) : Rest s (s.updGroup k f) := Rest.of_tables s _ s.blocks
theorem Rest.setGroup (s : State) (k : Nat) (g : Group) : Rest s (s.setGroup k g) := Rest.of_tables s _ s.blocks
theorem Rest.updBlock (s : State) (k : Nat) (f : Block → Block) : Rest s (s.updBlock k f) := Rest.of_tables s s.groups _

/-- The groups but `c` and the blocks are as before, but for yields and counts of instructions. -/
structure OthersAt (c : Nat) (s t : State) : Prop where
  groups : ∀ k, k ≠ c → (t.group? k).map (fun x => { x with yielded := false }) = (s.group? k).map (fun x => { x with yielded := false })
  blocks : ∀ b, (t.block? b).map (fun x => { x with retiredCount := 0 }) = (s.block? b).map (fun x => { x with retiredCount := 0 })

theorem OthersAt.refl (c : Nat) (s : State) : OthersAt c s s := ⟨fun _ _ => rfl, fun _ => rfl⟩
theorem OthersAt.trans {c : Nat} {s t u : State} (a : OthersAt c s t) (b : OthersAt c t u) : OthersAt c s u :=
  ⟨fun k h => (b.groups k h).trans (a.groups k h), fun k => (b.blocks k).trans (a.blocks k)⟩
theorem OthersAt.updGroup (s : State) (c : Nat) (f : Group → Group) : OthersAt c s (s.updGroup c f) :=
  ⟨fun k h => by rw [State.group?_updGroup, if_neg h], fun _ => rfl⟩
theorem OthersAt.setGroup (s : State) (c : Nat) (g : Group) : OthersAt c s (s.setGroup c g) :=
  ⟨fun k h => by rw [State.group?_setGroup, if_neg h], fun _ => rfl⟩

/-! ## Retirement of an instruction -/

theorem bump_spec (s : State) (c : Nat) {k : Group} (h : s.group? c = some k) : ∃ q, (s.bump c).group? c = some { k with qcount := q } ∧
    Rest s (s.bump c) ∧ OthersAt c s (s.bump c) := by
  unfold State.bump
  rw [h]
  dsimp only
  split
  · refine ⟨min (k.qcount + 1) (match s.block? k.blk with | some b => b.quantum | none => 0), ?_,
      (Rest.updGroup s c _).trans (Rest.updBlock _ _ _), ⟨fun j hj => by simp [hj], fun b => ?_⟩⟩
    · show (s.updGroup c _).group? c = _
      rw [State.group?_updGroup, if_pos rfl, h]; rfl
    rw [State.block?_updBlock]
    split
    · rename_i hb; subst hb; cases hx : s.block? k.blk <;> simp [hx]
    · rfl
  · exact ⟨k.qcount, h, Rest.refl s, OthersAt.refl c s⟩

theorem clearYields_spec (s : State) (c : Nat) (g k : Group) (h : s.group? c = some k) :
    (s.clearYields c g).group? c = some k ∧ Rest s (s.clearYields c g) ∧ OthersAt c s (s.clearYields c g) := by
  unfold State.clearYields
  split
  · exact ⟨h, Rest.refl s, OthersAt.refl c s⟩
  · refine ⟨?_, Rest.of_tables s _ s.blocks, ⟨fun j _ => ?_, fun _ => rfl⟩⟩
    · have h' : Table.get? s.groups c = some k := h
      unfold State.group?
      dsimp only
      rw [Table.get?_mapAll, h']
      simp
    · unfold State.group?
      dsimp only
      rw [Table.get?_mapAll]
      cases Table.get? s.groups j with
      | none => rfl
      | some x =>
        rw [Option.map_some, Option.map_some, Option.map_some]
        have key (b : Bool) : ({ (if b then { x with yielded := false } else x : Group) with yielded := false } : Group) =
            { x with yielded := false } := by cases b <;> rfl
        exact congrArg some (key _)

/-- Which groups' yields end depends on the block of the group that issues. -/
theorem State.clearYields_blk (s : State) (c : Nat) {g k : Group} (h : k.blk = g.blk) : s.clearYields c k = s.clearYields c g := by
  unfold State.clearYields; rw [h]

/-- The group that issues keeps what it holds. -/
theorem State.clearYields_setGroup (s : State) (c : Nat) (g x : Group) :
    (s.setGroup c x).clearYields c g = (s.clearYields c g).setGroup c x := by
  unfold State.clearYields State.setGroup State.block?
  dsimp only
  cases Table.get? s.blocks g.blk with
  | none => rfl
  | some b =>
    dsimp only
    rw [Table.mapAll_put]
    simp

/-- An instruction of group `c` retires: the group, and the rest. -/
theorem retireInstr_spec (s : State) (c : Nat) (g0 : Group) (i : Instr) (res : Option Window) {k : Group} (h : s.group? c = some k) :
    ∃ q, (s.retireInstr c g0 i res).group? c = some { k.retireOne g0 i res with qcount := q } ∧
      Rest s (s.retireInstr c g0 i res) ∧ OthersAt c s (s.retireInstr c g0 i res) := by
  unfold State.retireInstr
  have h1 : (s.updGroup c (fun g => g.retireOne g0 i res)).group? c = some (k.retireOne g0 i res) := by simp [h]
  obtain ⟨q, h2, r2, o2⟩ := bump_spec _ c h1
  obtain ⟨h3, r3, o3⟩ := clearYields_spec _ c g0 _ h2
  exact ⟨q, h3, ((Rest.updGroup s c _).trans r2).trans r3, ((OthersAt.updGroup s c _).trans o2).trans o3⟩

/-- Completion in sequence. -/
theorem complete_spec (s : State) (c : Nat) (g0 : Group) (i : Instr) (res : Option Window) {k : Group} (h : s.group? c = some k) :
    ∃ q, (s.complete c g0 i res).group? c = some { k.advance.retireOne g0 i res with qcount := q } ∧
      Rest s (s.complete c g0 i res) ∧ OthersAt c s (s.complete c g0 i res) := by
  unfold State.complete
  have h1 : (s.updGroup c Group.advance).group? c = some k.advance := by simp [h]
  obtain ⟨q, h2, r2, o2⟩ := retireInstr_spec _ c g0 i res h1
  exact ⟨q, h2, (Rest.updGroup s c _).trans r2, (OthersAt.updGroup s c _).trans o2⟩

/-! ## Issue -/

theorem State.setGroup_setGroup (s : State) (k : Nat) (g h : Group) : (s.setGroup k g).setGroup k h = s.setGroup k h := by
  unfold State.setGroup; dsimp only; rw [Table.put_put]

/-- Landing leaves PC, mode, block and path alone. -/
theorem Group.reach_steady (g : Group) (sol : Bool) (i : Instr) :
    (g.reach sol i).pc = g.pc ∧ (g.reach sol i).supervisor = g.supervisor ∧ (g.reach sol i).blk = g.blk ∧ (g.reach sol i).path = g.path := by
  unfold Group.reach
  split
  · have st := foldl_steady Group.land_steady g.windows g
    have sm := foldl_land_same g.windows g
    exact ⟨st.pc, sm.mode.1, sm.ident.1, sm.path.1⟩
  · exact ⟨rfl, rfl, rfl, rfl⟩

/-- The state as group `s.cur` reaches instruction `i` (R95). -/
def State.reached (s : State) (g : Group) (i : Instr) : State := if landsAt (s.isSolstice g.blk) i then s.setGroup s.cur g.landAll else s

@[simp] theorem State.cur_reached (s : State) (g : Group) (i : Instr) : (s.reached g i).cur = s.cur := by
  unfold State.reached; split <;> rfl
@[simp] theorem State.blocks_reached (s : State) (g : Group) (i : Instr) : (s.reached g i).blocks = s.blocks := by
  unfold State.reached; split <;> rfl
@[simp] theorem State.parts_reached (s : State) (g : Group) (i : Instr) : (s.reached g i).parts = s.parts := by
  unfold State.reached; split <;> rfl
theorem Rest.reached (s : State) (g : Group) (i : Instr) : Rest s (s.reached g i) := by
  unfold State.reached; split <;> [exact Rest.setGroup s _ _; exact Rest.refl s]
theorem OthersAt.reached (s : State) (g : Group) (i : Instr) : OthersAt s.cur s (s.reached g i) := by
  unfold State.reached; split <;> [exact OthersAt.setGroup s _ _; exact OthersAt.refl _ s]
theorem Group.reach_eq {sol : Bool} {i : Instr} (h : landsAt sol i = false) (g : Group) : g.reach sol i = g := by simp [Group.reach, h]
theorem reachOf_eq {i : Instr} (h : ∀ sol, landsAt sol i = false) (s : State) (g : Group) : reachOf s g i = g := Group.reach_eq (h _) g
theorem State.reached_eq {i : Instr} (h : ∀ sol, landsAt sol i = false) (s : State) (g : Group) : s.reached g i = s := by simp [State.reached, h]
theorem State.group?_reached {s : State} {g : Group} (h : s.group? s.cur = some g) (i : Instr) :
    (s.reached g i).group? s.cur = some (reachOf s g i) := by
  unfold State.reached reachOf Group.reach; split <;> simp [h]

/-- Of any instruction but a SPAWN, the mode of the block does not matter for where results land. -/
theorem landsAt_mode {i : Instr} (h : ∀ f b o r a j, i ≠ .spawn f b o r a j) (x y : Bool) : landsAt x i = landsAt y i := by
  cases i <;> first | rfl | exact absurd rfl (h _ _ _ _ _ _)

/-- With nothing raised before its meaning acts, an instruction comes to what its body answers, its open results landed first where
they land first. -/
theorem issue_reach {s : State} {g : Group} {i : Instr} (h : Issues s g i) (body : State → Group → Lanes → Res) :
    run i body s = .next ((s.reached g i).conclude s.cur (reachOf s g i) i
      (body (s.reached g i) (reachOf s g i) ((reachOf s g i).active (useOf i).guard))) := by
  have key (t : State) (k : Group) (hk : k = reachOf s g i) :
      t.issueAt s.cur k i body = t.conclude s.cur k i (body t k (k.active (useOf i).guard)) := by
    subst hk
    unfold State.issueAt
    dsimp only
    rw [h.checks]
    dsimp only
    rw [h.landed, h.sound]
    dsimp only
    rw [if_neg (by simp), if_neg (by simp [h.tags])]
  unfold run
  rw [h.here]
  dsimp only
  unfold State.issue State.reached
  by_cases hl : landsAt (s.isSolstice g.blk) i = true
  · have hr : reachOf s g i = g.landAll := by simp [reachOf, Group.reach, hl]
    have hc := h.clean hl
    rw [hr] at hc
    rw [if_pos hl, if_pos hl]
    dsimp only
    rw [hc]
    dsimp only
    rw [key _ _ hr.symm, hr]
  · have hr : reachOf s g i = g := Group.reach_eq (by simpa using hl) g
    rw [if_neg hl, if_neg hl, key _ g hr.symm, hr]

/-- The same for an instruction before which nothing lands. -/
theorem issue_conclude {s : State} {g : Group} {i : Instr} (h : Issues s g i) (hl : ∀ sol, landsAt sol i = false) (body : State → Group → Lanes → Res) :
    run i body s = .next (s.conclude s.cur g i (body s g (actOf g i))) := by
  have := issue_reach h body
  rwa [State.reached_eq hl, reachOf_eq hl, show g.active (useOf i).guard = actOf g i by rw [actOf, Group.reach_eq (hl _)]] at this

/-- Retirement keeps what its marks release at 0 (R100), but for windows that land. -/
theorem released_of {g g' h : Group} {i : Instr} {res : Option Window} {q : Nat}
    (hh : h = { g'.advance.retireOne g i res with qcount := q }) (hw : g'.windows = g.windows)
    (hres : ∀ l r, l < 32 → r ∈ released (useOf i) → ¬ (windowTouches (now res)).vec l r) : Released g i h := by
  subst hh
  intro l r hl hr hn
  exact Group.retireOne_released g'.advance g i res hl hr
    (by unfold landsV; rw [Group.advance_windows, hw]; exact hn) (hres l r hl hr)

/-- What `complete` makes of a group whose PC, loops and windows are those at issue. -/
theorem advance_retire {g k : Group} (st : Steady g k) (i : Instr) (res : Option Window) (q : Nat) :
    Advanced g { k.advance.retireOne g i res with qcount := q } ∧
      Same (retireTouches g i res) k { k.advance.retireOne g i res with qcount := q } ∧
      ({ k.advance.retireOne g i res with qcount := q } : Group).windows =
        leftOpen g g.path ++ (match res with | none => [] | some w => if w.left = 0 then [] else [w]) := by
  obtain ⟨a1, a2, a3⟩ := Group.advance_congr st.pc st.lc st.nest
  obtain ⟨r1, r2, r3⟩ := Group.retireOne_loops k.advance g i res
  refine ⟨⟨r1.trans a1, r2.trans a2, r3.trans a3⟩, ?_, ?_⟩
  · have h1 := Group.retireOne_same k.advance g i res
    have hw : k.advance.windows = g.windows := (Group.advance_windows k).trans st.windows
    have h2 : retireTouches k.advance i res = retireTouches g i res := by simp only [retireTouches, landsV, landsP, landsS, hw]
    rw [h2] at h1
    exact ((Group.advance_same _ k).trans h1).trans (Same.of_eq _ (by simp))
  · have := Group.retireOne_windows k.advance g i res
    rw [show leftOpen k.advance g.path = leftOpen g g.path by rw [leftOpen, leftOpen, Group.advance_windows, st.windows]] at this
    exact this

/-- A body that is done and has changed its own group only: the instruction completes. -/
theorem completes_done {s : State} {g g' : Group} {i : Instr} {body : State → Group → Lanes → Res} {w : Touches} {P : Group → Prop}
    (hl : ∀ sol, landsAt sol i = false) (hi : Issues s g i) (he : exec i s = run i body s) (hb : body s g (actOf g i) = .done (s.setGroup s.cur g'))
    (st : Steady g g')
    (sw : Same w g g') (hP : ∀ h, Same (retireTouches g i none) g' h → P h) : Completes s g i w P := by
  have hg : (s.setGroup s.cur g').group? s.cur = some g' := by simp
  obtain ⟨q, h1, r1, o1⟩ := complete_spec (s.setGroup s.cur g') s.cur g i none hg
  obtain ⟨av, sm, _⟩ := advance_retire st i none q
  have o2 := (OthersAt.setGroup s s.cur g').trans o1
  refine ⟨_, _, ?_, h1, (Rest.setGroup s s.cur g').trans r1, ⟨o2.groups, o2.blocks⟩, av, ?_, ?_, hP _ sm⟩
  · rw [he, issue_conclude hi hl, hb]; rfl
  · refine (sw.mono (w.retire i g) (vec := fun _ _ h => .inl h) (pred := fun _ _ h => .inl h) (scal := fun _ h => .inl h)).trans
      (sm.mono (w.retire i g) (vec := ?_) (pred := ?_) (scal := ?_))
    · rintro l r (h | h | ⟨_, h, _⟩) <;> [exact .inr (.inl h); exact .inr (.inr h); cases h]
    · rintro l r (h | ⟨_, h, _⟩) <;> [exact .inr h; cases h]
    · rintro r (h | ⟨_, h, _⟩) <;> [exact .inr h; cases h]
  · exact released_of rfl st.windows (fun l r _ _ => by rintro ⟨_, h, _⟩; cases h)

/-! ## Vector results -/

/-- A destination is not released (R100). -/
theorem not_released {u : Use} {d n r : Nat} (h : (d, n) ∈ u.dst) (h1 : d ≤ r) (h2 : r < d + n) : r ∉ released u := by
  intro hr
  simp only [released, List.mem_filter, Bool.and_eq_true, bne_iff_ne, ne_eq, Bool.not_eq_true', List.contains_eq_mem,
    decide_eq_false_iff_not, List.mem_flatMap, List.mem_map, List.mem_range] at hr
  exact hr.2.2 ⟨(d, n), h, r - d, by omega, by omega⟩

/-- What a vector result leaves in the group once it retires. -/
theorem holds_of_same {g g' h : Group} {i : Instr} {d n : Nat} {f : Nat → Lane → List Reg} (hd : (d, n) ∈ (useOf i).dst)
    (hn : ∀ l x, (f l x).length ≤ n)
    (hg : ∀ l, l < 32 → (actOf g i).getLsbD l = true → ∀ k x, (f l (g.lane l))[k]? = some x → d + k ≠ 0 → (g'.lane l).reg (d + k) = x)
    (sm : Same (retireTouches g i none) g' h) : Holds g i d f h := by
  intro l k x hl ha hx hz hnl
  have hk : k < n := lt_of_lt_of_le (List.getElem?_eq_some_iff.1 hx).1 (hn l (g.lane l))
  rw [sm.vec l (d + k) hl ?_]
  · exact hg l hl ha k x hx hz
  · rintro (h1 | h1 | ⟨_, h1, _⟩)
    · exact not_released hd (Nat.le_add_right d k) (by omega) h1
    · exact hnl h1
    · cases h1

theorem lane_written {g : Group} {m : Lanes} {d l k : Nat} {f : Nat → Lane → List Reg} {x : Reg} (hl : l < 32) (hm : m.getLsbD l = true)
    (hx : (f l (g.lane l))[k]? = some x) (hz : d + k ≠ 0) :
    ((g.mapLanes m (fun l x => x.setRegs d (f l x))).lane l).reg (d + k) = x := by
  rw [Group.lane_mapLanes _ _ _ _ hl, if_pos hm, Lane.reg_setRegs, if_pos ⟨Nat.le_add_right d k, hz⟩, Nat.add_sub_cancel_left, hx]
  rfl

theorem computesPure_of {s : State} {g : Group} {i : Instr} {d n : Nat} {f : Group → Nat → Lane → List Reg}
    (hl : ∀ sol, landsAt sol i = false) (he : exec i s = runG i (pureBody d f) s) (hd : (d, n) ∈ (useOf i).dst) (hn : ∀ l x, (f g l x).length ≤ n) :
    ComputesPure s g i d (f g) := by
  intro hi
  refine completes_done hl hi he rfl ⟨rfl, rfl, rfl, rfl⟩ (Same.of_setRegs g (actOf g i) d (f g)) (fun h sm => ?_)
  exact holds_of_same hd hn (fun l hl ha k x hx hz => lane_written hl ha hx hz) sm

theorem fpSet_top (fp : W32) (f : FlagSet) : fpSet fp f &&& 0xFFFFFF80 = fp &&& 0xFFFFFF80 := by
  apply BitVec.eq_of_getLsbD_eq
  intro k hk
  simp only [fpSet, BitVec.getLsbD_and, BitVec.getLsbD_or, BitVec.getLsbD_setWidth]
  by_cases h : k < 7
  · have : (0xFFFFFF80#32).getLsbD k = false := by
      have : ∀ j : Fin 7, (0xFFFFFF80#32).getLsbD j = false := by decide
      exact this ⟨k, h⟩
    simp [this]
  · rw [BitVec.getLsbD_of_ge f k (by omega)]; simp

/-- Flags raised leave the group otherwise as it was. -/
theorem Same.of_flags (g : Group) (fp : FlagSet) : Same { flags := True } g { g with fpstat := fpSet g.fpstat fp } where
  vec _ _ _ _ := rfl
  pred _ _ _ _ _ := rfl
  ctr _ _ _ := rfl
  will _ _ _ := rfl
  resv _ _ _ := rfl
  lane _ _ := ⟨rfl, rfl, rfl, rfl⟩
  scal _ _ := rfl
  addr _ _ := rfl
  fpTop := fpSet_top _ _
  flags h := absurd trivial h
  em _ := rfl
  path := ⟨rfl, rfl, rfl, rfl⟩
  mode := ⟨rfl, rfl, rfl, rfl, rfl⟩
  exc := ⟨rfl, rfl, rfl, rfl, rfl, rfl⟩
  ident := ⟨rfl, rfl, rfl, rfl, rfl, rfl⟩

theorem computes_of {s : State} {g : Group} {i : Instr} {d n : Nat} {f : Group → Nat → Lane → LaneOut}
    (hl : ∀ sol, landsAt sol i = false) (he : exec i s = run i (vecBody d f) s) (hd : (d, n) ∈ (useOf i).dst) (hn : ∀ l x, (f g l x).1.length ≤ n) :
    Computes s g i d (f g) := by
  intro hi hf
  have hb : vecBody d f s g (actOf g i) = .done (s.setGroup s.cur
      (Group.mapLanes { g with fpstat := fpSet g.fpstat (allFlags (flagsOf g (actOf g i) (f g))) } (actOf g i)
        (fun l x => x.setRegs d (f g l x).1))) := by
    unfold vecBody withFlags
    rw [hf]
  refine completes_done hl hi he hb ⟨rfl, rfl, rfl, rfl⟩ ?_ (fun h sm => ⟨?_, ?_⟩)
  · exact ((Same.of_flags g _).mono _).trans ((Same.of_setRegs _ (actOf g i) d (fun l x => (f g l x).1)).mono _)
  · refine holds_of_same (f := fun l x => (f g l x).1) hd hn ?_ sm
    intro l hl ha k x hx hz
    exact lane_written (g := { g with fpstat := _ }) (f := fun l x => (f g l x).1) hl ha hx hz
  · exact sm.flags (fun h => h)

/-! ## Late results -/

/-- A list of landings leaves in a register the value that all of them give it. -/
theorem foldl_landOne_reg {l r : Nat} {x : Reg} (hl : l < 32) (hr : r ≠ 0) :
    ∀ (ls : List Landing) (g : Group), (g.lane l).reg r = x ∨ Landing.vec l r x ∈ ls → (∀ y, Landing.vec l r y ∈ ls → y = x) →
      ((ls.foldl Group.landOne g).lane l).reg r = x
  | [], g, h, _ => by simpa using h
  | a :: ls, g, h, hu => by
    refine foldl_landOne_reg hl hr ls (g.landOne a) ?_ (fun y hy => hu y (List.mem_cons_of_mem _ hy))
    by_cases ha : ∃ y, a = Landing.vec l r y
    · obtain ⟨y, rfl⟩ := ha
      left
      have hy : y = x := hu y (List.mem_cons_self ..)
      subst hy
      show ((g.mapLanes (BitVec.ofNat 32 (2^l)) (fun _ z => z.setReg r y)).lane l).reg r = y
      rw [Group.lane_mapLanes _ _ _ _ hl, getLsbD_twoPow_lane l l hl, if_pos (by simp), Lane.reg_setReg_same _ _ hr]
    · rcases h with h | h
      · left
        have := (Group.landOne_same g a).vec l r hl ?_
        · rw [this, h]
        · cases a with
          | vec m q y => rintro ⟨rfl, rfl⟩; exact ha ⟨y, rfl⟩
          | pred => exact id
          | scalar => exact id
      · right
        rcases List.mem_cons.1 h with h | h
        · exact absurd ⟨x, h.symm⟩ ha
        · exact h

theorem mem_landingsOf {g : Group} {m : Lanes} {d : Nat} {f : Nat → Lane → LaneOut} {l r : Nat} {x : Reg} :
    Landing.vec l r x ∈ landingsOf g m d f ↔ (l < 32 ∧ m.getLsbD l = true) ∧ ∃ k, r = d + k ∧ (f l (g.lane l)).1[k]? = some x := by
  unfold landingsOf
  simp only [List.mem_flatMap, mem_lanesOf, List.mem_mapIdx, Landing.vec.injEq]
  constructor
  · rintro ⟨a, ha, k, hk, rfl, rfl, rfl⟩
    exact ⟨ha, k, rfl, List.getElem?_eq_getElem hk⟩
  · rintro ⟨ha, k, rfl, hx⟩
    obtain ⟨hk, hx⟩ := List.getElem?_eq_some_iff.1 hx
    exact ⟨l, ha, k, hk, rfl, rfl, hx⟩

/-- A body that answers late and has changed its own group only: the instruction completes, and its window opens or lands. -/
theorem completes_late {s : State} {g g' : Group} {i : Instr} {body : State → Group → Lanes → Res} {w : Touches} {P : Group → Prop}
    {ls : List Landing} {bad : Option (Lanes × W64 × Nat)}
    (hl : ∀ sol, landsAt sol i = false) (hi : Issues s g i) (he : exec i s = run i body s)
    (hb : body s g (actOf g i) = .late (s.setGroup s.cur g') ls bad) (hd : ∀ l r x, Landing.vec l r x ∈ ls → r ∉ released (useOf i))
    (st : Steady g g') (sw : Same w g g')
    (hw : effLa g i = 0 → (∀ l r, (∃ x, Landing.vec l r x ∈ ls) → w.vec l r) ∧ (∀ l p, (∃ b, Landing.pred l p b ∈ ls) → w.pred l p) ∧
      (∀ r, (∃ x, Landing.scalar r x ∈ ls) → w.scal r))
    (hP : ∀ h, Same (retireTouches g i (some { pc := g.pc, path := g.path, left := effLa g i, lands := ls, bad := bad })) g' h →
      (effLa g i = 0 → ∃ k, h.lanes = (Group.land k { pc := g.pc, path := g.path, left := 0, lands := ls, bad := bad }).lanes ∧
        h.s = (Group.land k { pc := g.pc, path := g.path, left := 0, lands := ls, bad := bad }).s) →
      (effLa g i ≠ 0 → h.windows.getLast? = some { pc := g.pc, path := g.path, left := effLa g i, lands := ls, bad := bad }) → P h) :
    Completes s g i w P := by
  have hg : (s.setGroup s.cur g').group? s.cur = some g' := by simp
  generalize hwin : ({ pc := g.pc, path := g.path, left := effLa g i, lands := ls, bad := bad } : Window) = win at hP
  obtain ⟨q, h1, r1, o1⟩ := complete_spec (s.setGroup s.cur g') s.cur g i (some win) hg
  obtain ⟨av, sm, ws⟩ := advance_retire st i (some win) q
  have o2 := (OthersAt.setGroup s s.cur g').trans o1
  have hleft : win.left = effLa g i := by rw [← hwin]
  have hlands : win.lands = ls := by rw [← hwin]
  have hnow : now (some win) = if effLa g i = 0 then [win] else [] := by rw [← hleft]; rfl
  have hin {v : Window} (hv : v ∈ now (some win)) : effLa g i = 0 ∧ v.lands = ls := by
    rw [hnow] at hv
    split at hv
    · rename_i h0; rw [List.mem_singleton.1 hv]; exact ⟨h0, hlands⟩
    · cases hv
  refine ⟨_, _, ?_, h1, (Rest.setGroup s s.cur g').trans r1, ⟨o2.groups, o2.blocks⟩, av, ?_, ?_, hP _ sm ?_ ?_⟩
  · rw [he, issue_conclude hi hl, hb, ← hwin]; rfl
  · refine (sw.mono (w.retire i g) (vec := fun _ _ h => .inl h) (pred := fun _ _ h => .inl h) (scal := fun _ h => .inl h)).trans
      (sm.mono (w.retire i g) (vec := ?_) (pred := ?_) (scal := ?_))
    · rintro l r (h | h | ⟨v, hv, x, hx⟩)
      · exact .inr (.inl h)
      · exact .inr (.inr h)
      · obtain ⟨h0, e⟩ := hin hv
        exact .inl ((hw h0).1 l r ⟨x, e ▸ hx⟩)
    · rintro l r (h | ⟨v, hv, x, hx⟩)
      · exact .inr h
      · obtain ⟨h0, e⟩ := hin hv
        exact .inl ((hw h0).2.1 l r ⟨x, e ▸ hx⟩)
    · rintro r (h | ⟨v, hv, x, hx⟩)
      · exact .inr h
      · obtain ⟨h0, e⟩ := hin hv
        exact .inl ((hw h0).2.2 r ⟨x, e ▸ hx⟩)
  · refine released_of rfl st.windows (fun l r _ hr => ?_)
    rintro ⟨v, hv, x, hx⟩
    exact hd l r x ((hin hv).2 ▸ hx) hr
  · intro h0
    have hw0 : win.left = 0 := hleft.trans h0
    have hw' : ({ pc := g.pc, path := g.path, left := 0, lands := ls, bad := bad } : Window) = win := by rw [← hwin, h0]
    rw [hw']
    refine ⟨(g'.advance.release (released (useOf i))).countWindows g.path, ?_⟩
    unfold Group.retireOne
    dsimp only
    have ht (k : Group) : k.takeResult (some win) = k.land win := by simp [Group.takeResult, hw0]
    rw [ht]
    generalize ((g'.advance.release (released (useOf i))).countWindows g.path).land win = k
    unfold Group.holds
    split <;> (constructor <;> (split <;> rfl))
  · intro h0
    rw [ws]
    simp [hleft, h0]

theorem computesLate_of {s : State} {g : Group} {i : Instr} {d n : Nat} {f : Group → Nat → Lane → LaneOut} (hl : ∀ sol, landsAt sol i = false)
    (he : exec i s = run i (lateBody d f) s) (hd : (d, n) ∈ (useOf i).dst) (hn : ∀ l x, (f g l x).1.length ≤ n) :
    ComputesLate s g i d (f g) := by
  intro hi hf
  have hb : lateBody d f s g (actOf g i) = .late (s.setGroup s.cur
      { g with fpstat := fpSet g.fpstat (allFlags (flagsOf g (actOf g i) (f g))) }) (landingsOf g (actOf g i) d (f g)) none := by
    unfold lateBody withFlags
    rw [hf]
  refine completes_late hl hi he hb (fun l r x hx => ?_) ⟨rfl, rfl, rfl, rfl⟩ ((Same.of_flags g _).mono _) (fun h0 => ⟨?_, ?_, ?_⟩)
    (fun h sm hl hwd => ⟨sm.flags (fun h => h), ?_, hwd⟩)
  · obtain ⟨_, k, rfl, hk⟩ := mem_landingsOf.1 hx
    exact not_released hd (Nat.le_add_right d k) (Nat.add_lt_add_left (lt_of_lt_of_le (List.getElem?_eq_some_iff.1 hk).1 (hn l (g.lane l))) d)
  · rintro l r ⟨x, hx⟩
    obtain ⟨⟨_, ha⟩, k, rfl, hk⟩ := mem_landingsOf.1 hx
    exact ⟨h0, ha, Nat.le_add_right d k, Nat.add_lt_add_left (List.getElem?_eq_some_iff.1 hk).1 d⟩
  · rintro l p ⟨b, hb⟩
    simp [landingsOf, List.mem_flatMap, List.mem_mapIdx] at hb
  · rintro r ⟨x, hx⟩
    simp [landingsOf, List.mem_flatMap, List.mem_mapIdx] at hx
  · intro h0 l k x hlt ha hx hz
    obtain ⟨kk, e, _⟩ := hl h0
    have : h.lane l = (Group.land kk { pc := g.pc, path := g.path, left := 0, lands := landingsOf g (actOf g i) d (f g), bad := none }).lane l := by
      unfold Group.lane; rw [e]
    rw [this]
    refine foldl_landOne_reg hlt hz _ _ (.inr (mem_landingsOf.2 ⟨⟨hlt, ha⟩, k, rfl, hx⟩)) (fun y hy => ?_)
    obtain ⟨_, k', hk', hy'⟩ := mem_landingsOf.1 hy
    have : k' = k := by omega
    rw [this, hx] at hy'
    exact (Option.some.inj hy').symm

/-! ## Predicates and scalar registers -/

theorem computesPred_of {s : State} {g : Group} {i : Instr} {p : Nat} {f : Group → Nat → Lane → Bool}
    (hl : ∀ sol, landsAt sol i = false) (he : exec i s = runG i (fun g act => g.writeP act p (f g)) s) : ComputesPred s g i p (f g) := by
  intro hi
  refine completes_done hl hi he rfl ⟨rfl, rfl, rfl, rfl⟩ (Same.of_setPred g (actOf g i) p (f g)) (fun h sm => ?_)
  intro l hl ha hp0 hp8 hnl
  rw [sm.pred l p hl hp8 ?_]
  · show ((g.mapLanes (actOf g i) (fun l x => x.setPred p (f g l x))).lane l).pred p = _
    rw [Group.lane_mapLanes _ _ _ _ hl, if_pos ha, Lane.pred_setPred _ _ hp8, if_pos ⟨rfl, hp0⟩]
  · rintro (h1 | ⟨_, h1, _⟩)
    · exact hnl h1
    · cases h1

theorem computesScalar_of {s : State} {g : Group} {i : Instr} {d : Nat} {v : W32} {body : State → Group → Lanes → Res}
    (hl : ∀ sol, landsAt sol i = false) (he : exec i s = run i body s) (hb : body s g (actOf g i) = .done (s.setGroup s.cur (g.setS d v))) :
    ComputesScalar s g i d v := by
  intro hi
  refine completes_done hl hi he hb ⟨rfl, rfl, rfl, rfl⟩ (Same.of_setS g d v) (fun h sm => ?_)
  intro hn
  rw [sm.scal d ?_, Group.sreg_setS, if_pos rfl]
  rintro (h1 | ⟨_, h1, _⟩)
  · exact hn h1
  · cases h1

/-! ## Causes -/

/-- A body that raises a cause outside a handler, with a handler to enter: the group takes it. -/
theorem takes_of {s : State} {g : Group} {i : Instr} {t : Trap} {body : State → Group → Lanes → Res} (hi : Issues s g i)
    (he : exec i s = run i body s)
    (hb : body (s.reached g i) (reachOf s g i) ((reachOf s g i).active (useOf i).guard) = .trap (s.reached g i) t) : Takes s g i t := by
  intro hs hv
  refine ⟨_, he.trans ((issue_reach hi body).trans (by rw [hb])), ?_⟩
  have hr : (reachOf s g i).pc = g.pc ∧ (reachOf s g i).supervisor = g.supervisor ∧ (reachOf s g i).blk = g.blk ∧
    (reachOf s g i).path = g.path := Group.reach_steady g _ i
  have hg := State.group?_reached hi.here i
  have hsol : (s.reached g i).isSolstice (reachOf s g i).blk = s.isSolstice g.blk := by
    unfold State.isSolstice; rw [State.blocks_reached, hr.2.2.1]
  have hvec (x : Group) (hx : x.blk = g.blk) (gs : List (Nat × Group)) : State.hvec { s with groups := gs } x = s.hvec g := by
    unfold State.hvec State.block? State.part; dsimp only; rw [hx]
  show (State.countIssue (s.reached g i) s.cur).take s.cur t (reachOf s g i).pc (t.info i) = _
  unfold State.countIssue
  rw [hg]
  dsimp only
  rw [hsol, hr.1, State.clearYields_blk _ _ hr.2.2.1, State.clearYields_setGroup]
  have hre : ((s.reached g i).clearYields s.cur g).setGroup s.cur ((reachOf s g i).countIssue (s.isSolstice g.blk)) =
      (s.clearYields s.cur g).setGroup s.cur ((reachOf s g i).countIssue (s.isSolstice g.blk)) := by
    unfold State.reached
    split <;> [rw [State.clearYields_setGroup, State.setGroup_setGroup]; rfl]
  rw [hre]
  have hk : ((reachOf s g i).countIssue (s.isSolstice g.blk)).supervisor = false ∧
      ((reachOf s g i).countIssue (s.isSolstice g.blk)).blk = g.blk := ⟨hr.2.1.trans hs, hr.2.2.1⟩
  have hv' : ((s.clearYields s.cur g).setGroup s.cur ((reachOf s g i).countIssue (s.isSolstice g.blk))).hvec
      ((reachOf s g i).countIssue (s.isSolstice g.blk)) = s.hvec g := by
    unfold State.clearYields
    split <;> exact hvec _ hk.2 _
  unfold State.take
  rw [State.group?_setGroup, if_pos rfl]
  dsimp only
  rw [hk.1, hv', hv, State.setGroup_setGroup]
  rw [if_neg (by simp), if_neg (by simp)]

end Sys2Proof.Machine
end

