-- ==== Sys2Proof/Laws/Mem.lean ====
section
/-! SUPPORT. Laws of memory: a read after a write, the canonical form, little-endian numbers, what a store changes. -/

namespace Sys2Proof.Machine

/-! ## Bytes -/

theorem readByte_writeByte (m : List Host.Cell) (a k : Nat) (b : Byte) :
    readByte (writeByte m a b) k = if k = a then b else readByte m k := Sparse.get_set memDefault m a k b

theorem readByte_writeBytes (m : List Host.Cell) (a k : Nat) (bs : List Byte) :
    readByte (writeBytes m a bs) k = if a ≤ k then (bs[k - a]?).getD (readByte m k) else readByte m k := by
  induction bs generalizing m a with
  | nil => simp [writeBytes]
  | cons b bs ih =>
    simp only [writeBytes, ih, readByte_writeByte]
    by_cases h : a ≤ k
    · by_cases he : k = a
      · subst he; simp
      · have h1 : a + 1 ≤ k := by omega
        obtain ⟨n, hn⟩ : ∃ n, k - a = n + 1 := ⟨k - a - 1, by omega⟩
        have h2 : k - (a + 1) = n := by omega
        simp [h, he, h1, hn, h2]
    · have h1 : ¬ a + 1 ≤ k := by omega
      have he : k ≠ a := by omega
      simp [h, he, h1]

/-- A byte outside a write keeps its value. -/
theorem readByte_writeBytes_outside (m : List Host.Cell) {a k : Nat} (bs : List Byte) (h : k < a ∨ a + bs.length ≤ k) :
    readByte (writeBytes m a bs) k = readByte m k := by
  rw [readByte_writeBytes]
  split
  · rw [List.getElem?_eq_none (by omega)]; rfl
  · rfl

theorem readBytes_length (m : List Host.Cell) (a n : Nat) : (readBytes m a n).length = n := by
  induction n generalizing a with
  | zero => rfl
  | succ n ih => simp [readBytes, ih]

theorem readBytes_congr {m m' : List Host.Cell} {a n : Nat} (h : ∀ k, a ≤ k → k < a + n → readByte m k = readByte m' k) :
    readBytes m a n = readBytes m' a n := by
  induction n generalizing a with
  | zero => rfl
  | succ n ih =>
    rw [readBytes, readBytes, h a (Nat.le_refl a) (by omega), ih (fun k h1 h2 => h k (by omega) (by omega))]

/-- Reading back what was written. -/
theorem readBytes_writeBytes (m : List Host.Cell) (a : Nat) (bs : List Byte) : readBytes (writeBytes m a bs) a bs.length = bs := by
  induction bs generalizing m a with
  | nil => rfl
  | cons b bs ih =>
    simp only [List.length_cons, readBytes, writeBytes]
    rw [readByte_writeBytes_outside _ _ (Or.inl (Nat.lt_succ_self a)), ih]
    simp [readByte_writeByte]

/-- A read that shares no byte with a write. -/
theorem readBytes_writeBytes_disjoint (m : List Host.Cell) {a b n : Nat} (bs : List Byte) (h : b + n ≤ a ∨ a + bs.length ≤ b) :
    readBytes (writeBytes m a bs) b n = readBytes m b n :=
  readBytes_congr (fun k h1 h2 => readByte_writeBytes_outside m bs (by omega))

/-! ## Numbers -/

@[simp] theorem bytesOfNat_length (n v : Nat) : (bytesOfNat n v).length = n := by
  induction n generalizing v with
  | zero => rfl
  | succ n ih => simp [bytesOfNat, ih]

theorem natOfBytes_bytesOfNat (n v : Nat) : natOfBytes (bytesOfNat n v) = v % 256^n := by
  induction n generalizing v with
  | zero => simp [bytesOfNat, natOfBytes, Nat.mod_one]
  | succ n ih =>
    simp only [bytesOfNat, natOfBytes, ih, BitVec.toNat_ofNat, Nat.reducePow]
    rw [Nat.pow_succ, Nat.mul_comm (256^n) 256, Nat.mod_mul]

theorem natOfBytes_lt (bs : List Byte) : natOfBytes bs < 256^bs.length := by
  induction bs with
  | nil => simp [natOfBytes]
  | cons b bs ih =>
    have := b.isLt
    simp only [natOfBytes, List.length_cons, Nat.pow_succ]
    omega

/-- The number read back at the address of a write (little-endian both ways). -/
theorem readNat_writeBytes (m : List Host.Cell) (a n v : Nat) :
    readNat (writeBytes m a (bytesOfNat n v)) a n = v % 256^n := by
  have := readBytes_writeBytes m a (bytesOfNat n v)
  rw [bytesOfNat_length] at this
  rw [readNat, this, natOfBytes_bytesOfNat]

theorem readNat_writeBytes_disjoint (m : List Host.Cell) {a b n : Nat} (bs : List Byte) (h : b + n ≤ a ∨ a + bs.length ≤ b) :
    readNat (writeBytes m a bs) b n = readNat m b n := by rw [readNat, readNat, readBytes_writeBytes_disjoint m bs h]

theorem readNat_lt (m : List Host.Cell) (a n : Nat) : readNat m a n < 256^n := by
  have := natOfBytes_lt (readBytes m a n)
  rwa [readBytes_length] at this

/-! ## The canonical form -/

theorem wf_writeByte {m : List Host.Cell} (a : Nat) (b : Byte) (h : Memory.wf m = true) : Memory.wf (writeByte m a b) = true :=
  Sparse.wf_set memDefault a b h

theorem wf_writeBytes {m : List Host.Cell} (a : Nat) (bs : List Byte) (h : Memory.wf m = true) :
    Memory.wf (writeBytes m a bs) = true := by
  induction bs generalizing m a with
  | nil => exact h
  | cons b bs ih => exact ih _ (wf_writeByte a b h)

theorem wf_writeCells {m : List Host.Cell} (cs : List Host.Cell) (h : Memory.wf m = true) : Memory.wf (writeCells m cs) = true := by
  induction cs generalizing m with
  | nil => exact h
  | cons c cs ih => exact ih (wf_writeByte c.1 c.2 h)

theorem wf_filter {m : List Host.Cell} (p : Host.Cell → Bool) (h : Memory.wf m = true) : Memory.wf (m.filter p) = true :=
  Sparse.wf_filter memDefault p h

theorem wf_movedCells {m : List Host.Cell} (old new : Nat) (h : Memory.wf m = true) : Memory.wf (movedCells old new m) = true :=
  wf_writeCells _ (wf_filter _ h)

theorem reset_mem_wf : Memory.wf State.reset.mem = true := rfl

/-! ## The writes of the machine -/

/-- A fold of operations that keep `P` keeps `P`. -/
theorem foldl_keeps {α β : Type} {P : β → Prop} {f : β → α → β} (hf : ∀ b a, P b → P (f b a)) (l : List α) {b : β} (h : P b) :
    P (l.foldl f b) := by
  induction l generalizing b with
  | nil => exact h
  | cons a l ih => exact ih (hf b a h)

/-- A fold of operations that keep a field keeps it. -/
theorem foldl_field {α β γ : Type} (p : β → γ) {f : β → α → β} (hf : ∀ b a, p (f b a) = p b) (l : List α) (b : β) :
    p (l.foldl f b) = p b := by
  induction l generalizing b with
  | nil => rfl
  | cons a l ih => rw [List.foldl_cons, ih, hf]

@[simp] theorem State.ckCopy_mem (s : State) (k : Nat) : (s.ckCopy k).mem = s.mem := rfl
@[simp] theorem State.breakResv_mem (s : State) (a n : Nat) (own : Option (Nat × Nat)) : (s.breakResv a n own).mem = s.mem := rfl

/-- A store writes its bytes and no other. -/
@[simp] theorem State.store_mem (s : State) (a : Nat) (bs : List Byte) (own : Option (Nat × Nat)) :
    (s.store a bs own).mem = writeBytes s.mem a bs := by
  simp only [State.store, State.breakResv_mem]
  split
  · rfl
  · rw [foldl_field State.mem (fun s i => State.ckCopy_mem s _)]

theorem State.store_wf (s : State) (a : Nat) (bs : List Byte) (own : Option (Nat × Nat)) (h : Memory.wf s.mem = true) :
    Memory.wf (s.store a bs own).mem = true := by rw [State.store_mem]; exact wf_writeBytes a bs h

@[simp] theorem State.zero_mem (s : State) (a n : Nat) :
    (s.zero a n).mem = s.mem.filter (fun c => decide (c.1 < a) || decide (a + n ≤ c.1)) := by
  simp only [State.zero, State.breakResv_mem]
  rw [foldl_field State.mem State.ckCopy_mem]

theorem State.zero_wf (s : State) (a n : Nat) (h : Memory.wf s.mem = true) : Memory.wf (s.zero a n).mem = true := by
  rw [State.zero_mem]; exact wf_filter _ h

theorem State.relocate_wf (s : State) (old new : Nat) (h : Memory.wf s.mem = true) : Memory.wf (s.relocate old new).mem = true :=
  wf_movedCells old new h

/-! ## Translation -/

/-- Where a walk ends at a leaf, its address is that of its partition-physical page (R354). -/
theorem walkFrom_page (m : List Host.Cell) (d : Device) (p va l table : Nat) {pg : Page} (h : walkFrom m d p va l table = .page pg) :
    sysAddr d p pg.pp = some pg.addr ∧ 0 < pg.bytes := by
  induction l generalizing table with
  | zero =>
    unfold walkFrom at h
    split at h
    · cases h
    · dsimp only at h
      split at h
      · cases h
      split at h
      · cases h
      split at h
      · split at h
        · cases h
        · cases h; exact ⟨by assumption, Nat.two_pow_pos _⟩
      · cases h
  | succ k ih =>
    unfold walkFrom at h
    split at h
    · cases h
    · dsimp only at h
      split at h
      · cases h
      split at h
      · cases h
      split at h
      · split at h
        · cases h
        · cases h; exact ⟨by assumption, Nat.two_pow_pos _⟩
      · exact ih _ h

theorem Cached.page_cached {d : Device} {p : Nat} {pg : Page} (h : sysAddr d p pg.pp = some pg.addr) (va : W64) :
    (pg.cached va).page d p = some pg := by
  show (sysAddr d p pg.pp).map (fun a => (⟨a, pg.bytes, pg.pp, pg.r, pg.w, pg.x⟩ : Page)) = some pg
  rw [h]; rfl

theorem Page.cached_covers {pg : Page} (h : 0 < pg.bytes) (va : W64) : (pg.cached va).covers va = true := by
  have h1 := Nat.div_mul_le_self va.toNat pg.bytes
  have h2 := Nat.lt_div_mul_add h (a := va.toNat)
  simp [Page.cached, Cached.covers, h1, h2]

/-- Caching a translation changes the cached translations of its partition and nothing else. -/
theorem State.cache_spec (s : State) (p : Nat) (va : W64) : ∃ ps, s.cache p va = { s with parts := ps } ∧
    ∀ q, (Table.get? ps q).map (fun r => { r with tlb := [] }) = (Table.get? s.parts q).map (fun r => { r with tlb := [] }) := by
  unfold State.cache
  split
  · exact ⟨s.parts, rfl, fun _ => rfl⟩
  · split
    · refine ⟨_, rfl, fun q => ?_⟩
      rw [Table.get?_upd]
      split
      · cases Table.get? s.parts q <;> rfl
      · rfl
    · exact ⟨s.parts, rfl, fun _ => rfl⟩

@[simp] theorem State.cache_mem (s : State) (p : Nat) (va : W64) : (s.cache p va).mem = s.mem := by
  obtain ⟨ps, h, _⟩ := State.cache_spec s p va; rw [h]
@[simp] theorem State.cache_dev (s : State) (p : Nat) (va : W64) : (s.cache p va).dev = s.dev := by
  obtain ⟨ps, h, _⟩ := State.cache_spec s p va; rw [h]

/-- A cached translation stands, whatever the tables hold (R356). -/
theorem State.walk_cached {s : State} {p : Nat} {va : W64} {pg : Page} (h : s.cachedPage p va = some pg) : s.walk p va = .page pg := by
  unfold State.walk; rw [h]

/-- Caching the page of an address leaves its translation as it was. -/
theorem State.cache_walk {s : State} {p : Nat} {va : W64} {pg : Page} (h : s.walk p va = .page pg) : (s.cache p va).walk p va = .page pg := by
  unfold State.cache
  split
  · exact h
  · rename_i hc
    have hn : s.cachedPage p va = none := by
      cases hp : s.cachedPage p va with
      | none => rfl
      | some _ => simp [hp] at hc
    have hs : (Table.get? s.parts p).isSome = true := by
      cases hp : Table.get? s.parts p with
      | none => simp [hp] at hc
      | some _ => rfl
    have ht : s.tableWalk p va = .page pg := by unfold State.walk at h; rwa [hn] at h
    rw [ht]
    dsimp only
    obtain ⟨ha, hb⟩ := walkFrom_page _ _ _ _ _ _ ht
    obtain ⟨r, hr⟩ := Option.isSome_iff_exists.1 hs
    apply State.walk_cached
    unfold State.cachedPage State.part
    dsimp only
    rw [Table.get?_upd, if_pos rfl, hr]
    simp [Page.cached_covers hb, Cached.page_cached ha]

end Sys2Proof.Machine
end

