-- ==== Sys2Proof/Tests/Slice0.lean ====
section
/-! SUPPORT. Tests: ill-formed terms that `Instr.wf` refuses, words written out from the encoding tables, one step on small
states with results taken from the spec's worked examples, and for each statement a state that meets its hypotheses. -/

namespace Sys2Proof.Tests

open Sys2Proof Sys2Proof.Machine

set_option Elab.async false

/-! ## Terms -/

def g0 : Guard := ⟨0, false⟩
def fa (d a b c : Nat) : FA := ⟨g0, BitVec.ofNat 8 d, BitVec.ofNat 8 a, BitVec.ofNat 8 b, BitVec.ofNat 8 c, 0, 0, 0, false, false, false⟩
def fi (d a : Nat) (imm : W32) : FI := ⟨g0, BitVec.ofNat 8 d, BitVec.ofNat 8 a, imm, false⟩
def fm (r ar vo disp sz : Nat) : FMg :=
  { g := g0, r := BitVec.ofNat 8 r, ar := BitVec.ofNat 3 ar, vo := BitVec.ofNat 8 vo, disp := BitVec.ofNat 13 disp, la := 0, scope := 0
    ord := 0, lrv := false, lro := false, sz := BitVec.ofNat 3 sz }
def ft (r th rk row ck col : Nat) : FMt :=
  { g := g0, r := BitVec.ofNat 8 r, th := BitVec.ofNat 6 th, rk := BitVec.ofNat 2 rk, row := BitVec.ofNat 10 row, ck := BitVec.ofNat 2 ck
    col := BitVec.ofNat 12 col, lrv := false, lri := false }
def fc (off ra xp : Nat) : FC := ⟨g0, BitVec.ofNat 32 off, BitVec.ofNat 8 ra, BitVec.ofNat 3 xp⟩
def fj (cb th ar sc : Nat) : FJ :=
  { g := g0, cb := BitVec.ofNat 4 cb, th := BitVec.ofNat 6 th, ar := BitVec.ofNat 3 ar, vo := 0, sc := BitVec.ofNat 8 sc, scope := 0, stg := 0
    stgv := false, follow := 0 }
def fs (rd ra num : Nat) : FS := { g := g0, rd := BitVec.ofNat 8 rd, ra := BitVec.ofNat 8 ra, num := BitVec.ofNat 12 num }
def fmode (ty : FTy) : FMode := { ftz := false, rm := .rn, ty := ty }

/-! ## Ill-formed terms (R108 step 3) -/

theorem test_wf_guard : Instr.wf (.smovi { fi 1 0 0 with g := ⟨1, false⟩ }) = false := by decide
theorem test_wf_scalar_number : Instr.wf (.sadd (.a (fa 24 0 0 0))) = false := by decide
theorem test_wf_predicate_number : Instr.wf (.pnot (fa 8 1 0 0)) = false := by decide
theorem test_wf_unread_position : Instr.wf (.popc (fa 1 2 3 0)) = false := by decide
theorem test_wf_mark_on_unread : Instr.wf (.popc { fa 1 2 0 0 with lrb := true }) = false := by decide
theorem test_wf_mark_on_predicate : Instr.wf (.sel { fa 1 2 3 4 with lrc := true }) = true ∧
    Instr.wf (.pand { fa 1 2 3 0 with lrc := true } false false) = false := by decide
theorem test_wf_hold_entry_alone : Instr.wf (.brev { fa 1 2 0 0 with he := 1 }) = false := by decide
theorem test_wf_hold_entry_three : Instr.wf (.brev { fa 1 2 0 0 with hs := 1, he := 3 }) = false := by decide
theorem test_wf_hold_of_unread : Instr.wf (.brev { fa 1 2 0 0 with hs := 2 }) = false := by decide
theorem test_wf_lookahead_of_short : Instr.wf (.iadd (.a { fa 1 2 3 0 with la := 1 }) .s32 false) = false := by decide
theorem test_wf_odd_pair : Instr.wf (.mov (fa 3 4 0 0) true) = false := by decide
theorem test_wf_immediate_type : Instr.wf (.iadd (.i (fi 2 4 1)) .s64 false) = false := by decide
theorem test_wf_shift_count : Instr.wf (.shl (.i (fi 1 2 32))) = false ∧ Instr.wf (.sshl (.i (fi 1 2 32))) = false := by decide
theorem test_wf_wide_saturates : Instr.wf (.imul (.a (fa 2 4 6 0)) .s32 true .wide) = false ∧
    Instr.wf (.imad (fa 2 4 6 8) .s32 true true) = false := by decide
theorem test_wf_iabs_unsigned : Instr.wf (.iabs (fa 1 2 0 0) .n32 false) = false := by decide
theorem test_wf_isad_pair : Instr.wf (.isad (fa 2 4 6 8) .s64) = false := by decide
theorem test_wf_float_immediate : Instr.wf (.fadd (.i (fi 1 2 0)) (fmode .f16x2)) = false := by decide
theorem test_wf_float_rs : Instr.wf (.fsub (fa 1 2 3 0) { fmode .f32 with rm := .rs }) = false := by decide
theorem test_wf_element_of_f32 : Instr.wf (.fcmp (fa 1 2 3 0) .eq .f32 true) = false := by decide
theorem test_wf_cvt : Instr.wf (.cvt g0 1 2 false 0 false { dst := .f32, src := .f16, f := 0, e := 2, ftz := false, sat := false, rm := .rn }) = false ∧
    Instr.wf (.cvt g0 1 2 false 0 false { dst := .f32, src := .f16, f := 0, e := 0, ftz := false, sat := true, rm := .rn }) = false ∧
    Instr.wf (.cvt g0 1 2 false 0 false { dst := .s32, src := .f32, f := 0, e := 0, ftz := false, sat := false, rm := .rs }) = false ∧
    Instr.wf (.cvt g0 1 2 false 0 false { dst := .s64, src := .f32, f := 0, e := 0, ftz := false, sat := false, rm := .rn }) = false ∧
    Instr.wf (.cvt g0 1 2 false 0 false { dst := .e4m3, src := .f32, f := 0, e := 0, ftz := true, sat := false, rm := .rn }) = false := by decide
theorem test_wf_pack : Instr.wf (.pack (fa 1 2 3 0) .f32 false .rn) = false ∧ Instr.wf (.pack (fa 1 2 0 0) .s8 false .rn) = false ∧
    Instr.wf (.pack (fa 1 4 0 0) .s8 false .rs) = false := by decide
theorem test_wf_unpack : Instr.wf (.unpack (fa 1 2 0 0) .f16 false) = false ∧ Instr.wf (.unpack (fa 4 2 0 0) .s8 true) = false := by decide
theorem test_wf_bit_planes : Instr.wf (.bpsplit (fa 1 4 6 0) 0) = false ∧ Instr.wf (.bpjoin (fa 1 250 0 0) 0 6) = false := by decide
theorem test_wf_tag_15 : Instr.wf (.tagset (fa 1 2 0 0) 15) = false ∧ Instr.wf (.ll (fm 2 1 0 0 2) 15) = false := by decide
theorem test_wf_ring : Instr.wf (.shfl (.a (fa 1 2 3 0)) .pair true false) = false := by decide
theorem test_wf_reduction : Instr.wf (.redg (fa 1 2 0 0) .min .f32 .rz) = false ∧ Instr.wf (.redg (fa 1 2 0 0) .xor .f32 .rn) = false ∧
    Instr.wf (.scang (fa 1 2 0 0) false .add .f32 .dyn) = false := by decide
theorem test_wf_scan_predicate : Instr.wf (.scanp (fa 1 2 3 4) .rn false 1) = false := by decide
theorem test_wf_rng_pair : Instr.wf (.rng (fa 1 0 0 0) .getc) = false ∧ Instr.wf (.rng (fa 0 1 0 0) .setc) = false := by decide
theorem test_wf_quantise_pair : Instr.wf (.rquant (fa 1 2 3 0)) = false ∧ Instr.wf (.rdeq (fa 1 3 2 0)) = false := by decide
theorem test_wf_order : Instr.wf (.ld { fm 1 1 0 0 2 with ord := 2 } (.reg false 0)) = false ∧
    Instr.wf (.st { fm 1 1 0 0 2 with ord := 1 } (.reg false)) = false ∧
    Instr.wf (.ld { fm 1 1 0 0 2 with scope := 1 } (.reg false 0)) = false ∧
    Instr.wf (.ld { fm 1 1 0 0 2 with scope := 6, ord := 1 } (.reg false 0)) = false := by decide
theorem test_wf_ordered_prefetch : Instr.wf (.ld { fm 0 1 0 0 2 with scope := 3, ord := 1 } (.reg false 0)) = false := by decide
theorem test_wf_offset_mark : Instr.wf (.ld { fm 1 1 0 0 2 with lro := true } (.reg false 0)) = false := by decide
theorem test_wf_load_registers : Instr.wf (.ld (fm 1 1 0 0 3) (.reg false 0)) = false ∧ Instr.wf (.ld (fm 2 1 0 0 4) (.reg false 0)) = false ∧
    Instr.wf (.ld (fm 1 1 0 0 0) (.reg false 3)) = false ∧ Instr.wf (.ld (fm 8 1 0 0 0) .pred) = false := by decide
theorem test_wf_store_lookahead : Instr.wf (.st { fm 1 1 0 0 2 with la := 1 } (.reg false)) = false := by decide
theorem test_wf_atomics : Instr.wf (.atom (fm 1 1 0 0 1) .add false false) = false ∧ Instr.wf (.atom (fm 1 1 0 0 2) .and true false) = false ∧
    Instr.wf (.cas (fm 252 1 0 0 4)) = false ∧ Instr.wf (.cas (fm 1 1 0 0 2)) = false ∧ Instr.wf (.sc (fm 1 1 0 0 1) 1) = false := by decide
theorem test_wf_fence : Instr.wf (.fence (fm 0 0 0 0 0) false) = false ∧ Instr.wf (.fence { fm 0 0 0 0 0 with ord := 1 } true) = false := by decide
theorem test_wf_sld : Instr.wf (.sld (fm 1 1 0 0 3) false) = false ∧ Instr.wf (.sld (fm 1 1 0 0 2) true) = false ∧
    Instr.wf (.sld (fm 24 1 0 0 2) false) = false := by decide
theorem test_wf_address_registers : Instr.wf (.abind (fa 8 0 2 0)) = false ∧ Instr.wf (.abind (fa 1 1 2 0)) = false ∧
    Instr.wf (.aq (fa 1 2 0 0) 3) = false := by decide
theorem test_wf_identities : Instr.wf (.getid (fa 1 0 0 0) 0 true) = false ∧ Instr.wf (.getid (fa 1 0 0 0) 10 false) = false := by decide
theorem test_wf_stage : Instr.wf (.setstage (fi 0 0 16) false) = false := by decide
theorem test_wf_budget : Instr.wf (.rbtake (fi 0 0 0)) = false ∧ Instr.wf (.rbgive (fi 0 0 29)) = false := by decide
theorem test_wf_transfers : Instr.wf (.call (fc 1 1 0)) = false ∧ Instr.wf (.brx (fc 1 3 0)) = false ∧ Instr.wf (.brx (fc 0 2 0)) = false ∧
    Instr.wf (.callx (fc 1 2 0)) = false ∧ Instr.wf (.ret (fc 1 0 0)) = false ∧ Instr.wf (.braC (fc 1 0 0)) = false := by decide
theorem test_wf_loops : Instr.wf (.loop (fc 1 2 0) true) = false ∧ Instr.wf (.loop (fc 2 2 4) true) = false ∧
    Instr.wf (.loop (fc 2 24 0) false) = false ∧ Instr.wf (.lbrk (fc 0 0 4)) = false := by decide
theorem test_wf_barriers : Instr.wf (.bar (fc 33 0 0)) = false ∧ Instr.wf (.bara (fc 1 16 0)) = false ∧ Instr.wf (.barw (fc 1 0 0)) = false := by decide
theorem test_wf_tiles : Instr.wf (.talloc (fi 0 0 0x400000) false) = false ∧ Instr.wf (.talloc (fi 0 0 0x1E0000) false) = false ∧
    Instr.wf (.talloc (fi 0 0 0x200000) false) = false ∧ Instr.wf (.talloc (fi 64 0 0) false) = false ∧ Instr.wf (.tq (fa 1 2 0 0) 5) = false := by decide
theorem test_wf_tile_index : Instr.wf (.tld (ft 1 0 3 0 0 0) 2 false) = false ∧ Instr.wf (.tld (ft 1 0 1 256 0 0) 2 false) = false ∧
    Instr.wf (.tld (ft 1 0 0 0 2 24) 2 false) = false ∧ Instr.wf (.tst { ft 1 0 0 0 0 0 with lri := true } 2) = false ∧
    Instr.wf (.tld (ft 1 0 0 0 0 0) 2 true) = false := by decide
theorem test_wf_copies : Instr.wf (.cpy { fj 0 1 2 8 with stg := 1 } .g2t false) = false ∧ Instr.wf (.cpy (fj 1 1 2 8) .g2t true) = false ∧
    Instr.wf (.cpy (fj 0 1 2 22) .g2t false) = false ∧ Instr.wf (.cpy { fj 0 1 2 8 with follow := 1 } .t2g false) = false ∧
    Instr.wf (.cpyg (fj 0 1 2 8) 5 false) = false ∧ Instr.wf (.cpys { fj 0 1 2 8 with follow := 1 } 0 false) = false := by decide
theorem test_wf_copy_barriers : Instr.wf (.cbinit (fj 0 1 0 0)) = false ∧ Instr.wf (.cbarr { fj 0 0 0 0 with scope := 2 }) = false ∧
    Instr.wf (.cbwait (fj 0 0 0 1)) = false ∧ Instr.wf (.cbtest { fj 0 0 0 0 with vo := 8 }) = false := by decide
theorem test_wf_collective : Instr.wf (.coll (fj 0 0 0 21) .allreduce .addF32) = false ∧ Instr.wf (.coll (fj 0 0 0 0) .bcast .maxF32) = false := by decide
theorem test_wf_lathe : Instr.wf (.mloadb (fj 0 0 0 23)) = false ∧ Instr.wf (.mswap (fj 0 1 0 0)) = false ∧
    Instr.wf (.mma (fj 0 0 1 0) 0 false) = false ∧ Instr.wf (.autoCfg (fj 1 0 0 0)) = false ∧ Instr.wf (.autoInf (fj 1 0 0 0) false true) = false ∧
    Instr.wf (.autoFence (fj 0 0 0 0)) = false := by decide
theorem test_wf_nodes : Instr.wf (.nodemk (fm 24 0 0 0 0)) = false ∧ Instr.wf (.nodedel (fs 1 0 0)) = false ∧ Instr.wf (.nodeq (fs 0 0 7)) = false ∧
    Instr.wf (.jinit (fm 0 0 0 0 2)) = false ∧ Instr.wf (.jwait (fm 0 0 0 0 3)) = false ∧ Instr.wf (.gcond (fm 0 0 0 0 2)) = false := by decide
theorem test_wf_spawn : Instr.wf (.spawn (fa 1 2 4 0) true false false 0 false) = false ∧ Instr.wf (.spawn (fa 1 2 253 0) false false false 0 false) = false ∧
    Instr.wf (.spawn (fa 1 3 4 0) false false true 0 false) = false ∧ Instr.wf (.spawn (fa 1 2 4 0) false false false 1 false) = false := by decide
theorem test_wf_wills : Instr.wf (.estw (fs 0x10 0 1) 0) = false ∧ Instr.wf (.estw (fs 0x0F 1 1) 0) = false ∧ Instr.wf (.estw (fs 0x10 1 0) 0) = false ∧
    Instr.wf (.estw (fs 0x1F 250 1) 0) = false ∧ Instr.wf (.estf (fs 0 1 0)) = false := by decide
theorem test_wf_checkpoints : Instr.wf (.ckmark (fj 0 0 0 0) false) = false ∧ Instr.wf (.cksnap { fj 0 0 1 0 with scope := 3 } false) = false ∧
    Instr.wf (.ckdrop { fj 0 0 0 0 with scope := 3 } false false true) = false ∧ Instr.wf (.glaunch { fj 0 0 0 0 with scope := 4 } false) = false := by decide
theorem test_wf_system : Instr.wf (.mfsr (fs 0 0 0x007) false) = false ∧ Instr.wf (.mfsr (fs 0 0 0x001) true) = false ∧
    Instr.wf (.mtsr (fs 1 0 0) false) = false ∧ Instr.wf (.trap (fs 0 0 256)) = false ∧ Instr.wf (.eret (fs 0 1 0)) = false ∧
    Instr.wf (.pmap (fs 0 2 3)) = false ∧ Instr.wf (.tlbinv (fs 0 1 0) .all) = false := by decide
/-- R108: an odd pair of a supervisor's form is step 6's, after the privilege of step 5. -/
theorem test_odd_pair_after_privilege : Instr.wf (.pmap (fs 0 1 0)) = true ∧ Instr.oddPair (.pmap (fs 0 1 0)) = true ∧
    preCheck (.pmap (fs 0 1 0)) (useOf (.pmap (fs 0 1 0))) { blk := 0 } = some 0x008 ∧
    preCheck (.pmap (fs 0 1 0)) (useOf (.pmap (fs 0 1 0))) { blk := 0, supervisor := true } = some 0x002 := by decide +kernel
theorem test_wf_half : Instr.wf (.dualWord false (.r .iadd .m0 1 2 3) .nop) = false ∧ Instr.wf (.dualWord false .nop (.i .shl 1 2 32)) = false := by decide
theorem test_wf_pairs : Instr.pairs (.dualWord false (.r .iadd .m1 1 2 3) (.r .iadd .m1 4 6 7)) = false := by decide
theorem test_wf_events : Instr.wf .scrubPass = false := by decide

/-! ## Words, written field by field from R85 to R93 and R106 -/

theorem test_word_exit : decode 0b0_00001000_010_1_00000000000000000000000000000000_00000000_000_00000000 = .ok (.exit { fc 0 0 0 with g := ⟨2, true⟩ }) := by decide +kernel
theorem test_word_bar : decode 0b0_00010001_000_0_00000000000000000000000000000100_00000011_000_00000000 = .ok (.bar (fc 4 3 0)) := by decide +kernel
theorem test_word_vote : decode 0b0_00001110_000_0_00000101_00000011_00000000_00000000_0000_00_00_0_0_0_00000110 = .ok (.vote (fa 5 3 0 0) .bitsV) := by decide +kernel
theorem test_word_getid : decode 0b0_00001111_000_0_00000111_00000000_00000000_00000000_0000_00_00_0_0_0_00001011 = .ok (.getid (fa 7 0 0 0) 11 false) := by decide +kernel
theorem test_word_rbtake : decode 0b0_00010100_0000_00000000_00000000_00000000000000000000000000000101_0_00 = .ok (.rbtake (fi 0 0 5)) := by decide +kernel
theorem test_word_ssub : decode 0b0_00100011_000_0_00000001_00000010_00000011_00000000_0000_00_00_0_0_0_00000000 = .ok (.ssub (fa 1 2 3 0)) := by decide +kernel
theorem test_word_sld : decode 0b0_00101100_0000_00000101_010_00000011_0000000001000_0000_000_00_0_0_001_00001 = .ok (.sld (fm 5 2 3 8 1) true) := by decide +kernel
theorem test_word_sel : decode 0b0_01000010_000_0_00000001_00000010_00000011_00000100_0000_00_00_0_0_0_00000000 = .ok (.sel (fa 1 2 3 4)) := by decide +kernel
theorem test_word_icmp : decode 0b0_01100100_000_0_00000010_00000011_00000100_00000000_0000_00_00_0_0_0_00000010 = .ok (.icmp (.a (fa 2 3 4 0)) .lt false) := by decide +kernel
theorem test_word_pand : decode 0b0_01101000_000_0_00000001_00000010_00000011_00000000_0000_00_00_0_0_0_00000010 = .ok (.pand (fa 1 2 3 0) false true) := by decide +kernel
theorem test_word_fadd : decode 0b0_10000000_000_0_00000001_00000010_00000011_00000000_0000_00_00_0_0_0_00100101 = .ok (.fadd (.a (fa 1 2 3 0)) { ftz := true, rm := .rz, ty := .f16x2 }) := by decide +kernel
theorem test_word_fdiv : decode 0b0_10001001_000_0_00000100_00000101_00000110_00000000_1000_00_00_0_0_0_00000000 = .ok (.fdiv { fa 4 5 6 0 with la := 8 } false .rn) := by decide +kernel
theorem test_word_shfl : decode 0b0_10100000_000_0_00000001_00000010_00000011_00000000_0000_00_00_0_0_0_00001001 = .ok (.shfl (.a (fa 1 2 3 0)) .lag true false) := by decide +kernel
theorem test_word_redg : decode 0b0_10100010_000_0_00000001_00000010_00000000_00000000_0001_00_00_0_0_0_01010000 = .ok (.redg { fa 1 2 0 0 with la := 1 } .add .f32 .ru) := by decide +kernel
theorem test_word_st : decode 0b0_10110001_0000_00001000_001_00000010_1111111111100_0000_000_00_0_1_011_00000 = .ok (.st { fm 8 1 2 8188 3 with lro := true } (.reg false)) := by decide +kernel
theorem test_word_atom : decode 0b0_10110111_0000_00000100_001_00000000_0000000000000_0000_011_11_0_0_010_01001 = .ok (.atom { fm 4 1 0 0 2 with scope := 3, ord := 3 } .min true false) := by decide +kernel
theorem test_word_tld : decode 0b0_10110101_0000_00000011_000010_01_0000000111_00_000000001100_0_1_000000010 = .ok (.tld { ft 3 2 1 7 0 12 with lri := true } 2 false) := by decide +kernel
theorem test_word_talloc : decode 0b0_10110010_0000_00000011_00000000_00000000000000000000000000011111_0_00 = .ok (.talloc (fi 3 0 0x1F) false) := by decide +kernel
theorem test_word_coll : decode 0b0_11000011_0000_0010_000000_001_00000000_00001000_101_0000_0_000_00000011000 = .ok (.coll { fj 2 0 1 8 with scope := 5 } .allreduce .maxF32) := by decide +kernel
theorem test_word_cbwait : decode 0b0_11000001_0000_0011_000000_000_00000000_00000000_000_0000_0_000_00000000000 = .ok (.cbwait (fj 3 0 0 0)) := by decide +kernel
theorem test_word_autoFence : decode 0b0_11100111_0000_0000_000000_000_00000000_00000000_010_0000_0_000_00000000001 = .ok (.autoFence { fj 0 0 0 0 with scope := 2 }) := by decide +kernel
theorem test_word_jwait : decode 0b0_11101101_0000_00000000_001_00000000_0000000010000_0000_101_00_0_0_011_00000 = .ok (.jwait { fm 0 1 0 16 3 with scope := 5 }) := by decide +kernel
theorem test_word_mfsr : decode 0b0_11111010_0000_00000100_00000000_000000000100_000000000000_00000000001 = .ok (.mfsr (fs 4 0 4) true) := by decide +kernel
theorem test_word_trap : decode 0b0_11111000_0000_00000000_00000000_000000100001_000000000000_00000000000 = .ok (.trap (fs 0 0 0x21)) := by decide +kernel

theorem test_word_worked_immediate : decode 0x2200202FFFFFFFE8 = .ok (.iadd (.i (fi 4 5 0xFFFFFFFD)) .s32 false) := by decide +kernel
theorem test_word_worked_branch : decode 0x0087FFFFFFE80000 = .ok (.bra (fc 0xFFFFFFFD 0 0)) := by decide +kernel
theorem test_word_worked_cvt : decode 0x4C00281B19000008 =
    .ok (.cvt g0 5 3 false 0 false { dst := .e4m3, src := .f32, f := 2, e := 0, ftz := false, sat := true, rm := .rn }) := by decide +kernel
theorem test_word_bad_redg : decode 0x510008100000804A = .error .illegalField := by decide +kernel
theorem test_word_not_assigned : decode 0xFF80000000000000 = .ok (.unassignedEncoding 0xFF80000000000000) := by decide +kernel
theorem test_word_ill_paired : decode 0x8102040002101800 = .error .illegalPair := by decide +kernel
theorem test_table_word : decodeTableWord 64 0x2180202830000000 = some (.iadd (.a (fa 4 5 6 0)) .s32 false) := by decide +kernel
theorem test_fields_of_encode : (encode (.pand (fa 1 2 3 0) true true)).toNat % 256 = 3 ∧ opcOf (encode (.movi (fi 1 0 7) .raw)).toNat = 0x41 ∧
    (encode (.movi (fi 1 0 7) .raw)).toNat % 8 = 3 ∧ opcOf (encode (.estf (fs 0 0 0))).toNat = 0xF1 := by decide +kernel

/-! ## Small machines -/

/-- One group of 32 lanes of a block, at 0x10000, all memory of one page readable, writable and executable, a handler at 0x20000. -/
def w0 : State := State.reset.loaded.updPart 0 (fun p => { p with hvec := 0x20000 })
def w (f : Group → Group) : State := w0.updGroup 0 f
def gr (s : State) : Group := (s.group? 0).getD { blk := 99 }
def bk (s : State) : Block := (s.block? 0).getD { part := 99, core := 0, launch := none }
def nx (i : Instr) (s : State) : State := match exec i s with | .next t => t | _ => State.reset
/-- Register `r` of every lane, predicate `p` of the lanes of `m`, lane 0 to 3 alone enabled. -/
def vr (r : Nat) (v : W32) (t : BitVec 4 := 0) (g : Group) : Group := { g with lanes := g.lanes.map (fun x => x.setReg r ⟨v, t⟩) }
def vl (r : Nat) (f : Nat → W32) (t : BitVec 4 := 0) (g : Group) : Group := g.mapLanes 0xFFFFFFFF (fun l x => x.setReg r ⟨f l, t⟩)
def pm (p : Nat) (m : Lanes) (g : Group) : Group := g.mapLanes 0xFFFFFFFF (fun l x => x.setPred p (m.getLsbD l))
def em (m : Lanes) (g : Group) : Group := { g with em := m }
def sr (r : Nat) (v : W32) (g : Group) : Group := g.setS r v
def ab (n : Nat) (base : W64) (g : Group) : Group := { g with a := Sparse.set {} g.a n { base := base, frame := base, limit := 0x10000 } }
def v (s : State) (l r : Nat) : W32 := ((gr s).lane l |>.reg r).val
def tg (s : State) (l r : Nat) : BitVec 4 := ((gr s).lane l |>.reg r).tag
def pr (s : State) (l p : Nat) : Bool := ((gr s).lane l).pred p
def fl (s : State) : W32 := (gr s).fpstat

/-! ## One step each -/

theorem test_nop_advances : (gr (nx .nop w0)).pc = 0x10008 := by decide +kernel
/-- R200's example: byte by byte with clamps, SAT. -/
theorem test_iadd_bytes_saturate :
    let s := nx (.iadd (.a (fa 3 1 2 0)) .s8x4 true) (w (fun g => vr 1 0x7F800102 tagI8x4 (vr 2 0x0180FF01 tagI8x4 g)))
    v s 31 3 = 0x7F800003 ∧ tg s 31 3 = tagI8x4 ∧ fl s = 0x20 := by decide +kernel
theorem test_iadd_wraps : v (nx (.iadd (.a (fa 3 1 1 0)) .n32 false) (w (vr 1 0x80000001 tagN32))) 0 3 = 2 := by decide +kernel
theorem test_isub_pair : let s := nx (.isub (fa 4 2 6 0) .s64 false) (w (fun g => vr 6 1 tagI64 (vr 7 0 tagI64 g)))
    v s 5 4 = 0xFFFFFFFF ∧ v s 5 5 = 0xFFFFFFFF ∧ tg s 5 5 = tagI64 := by decide +kernel
theorem test_isub_dest_source : v (nx (.isub (fa 1 1 2 0) .s32 false) (w (fun g => vr 1 3 tagI32 (vr 2 5 tagI32 g)))) 0 1 = 0xFFFFFFFE := by decide +kernel
theorem test_imul_hi : v (nx (.imul (.a (fa 3 1 2 0)) .s32 false .hi) (w (fun g => vr 1 0xFFFFFFFF tagI32 (vr 2 2 tagI32 g)))) 0 3 = 0xFFFFFFFF ∧
    v (nx (.imul (.a (fa 3 1 2 0)) .n32 false .hi) (w (fun g => vr 1 0xFFFFFFFF tagN32 (vr 2 2 tagN32 g)))) 0 3 = 1 := by decide +kernel
theorem test_imad : v (nx (.imad (fa 4 1 2 3) .s32 false false) (w (fun g => vr 1 3 tagI32 (vr 2 4 tagI32 (vr 3 5 tagI32 g))))) 0 4 = 17 := by decide +kernel
/-- R203: −7 / 2 truncates to −3 and leaves −1. -/
theorem test_idiv_truncates : v (nx (.idiv (fa 3 1 2 0) .s32) (w (fun g => vr 1 0xFFFFFFF9 tagI32 (vr 2 2 tagI32 g)))) 0 3 = 0xFFFFFFFD := by decide +kernel
theorem test_irem_truncates : v (nx (.irem (fa 3 1 2 0) .s32) (w (fun g => vr 1 0xFFFFFFF9 tagI32 (vr 2 2 tagI32 g)))) 0 3 = 0xFFFFFFFF := by decide +kernel
/-- R203: a division by zero gives all ones and DZ. -/
theorem test_idiv_by_zero : let s := nx (.idiv (fa 3 1 2 0) .n32) (w (vr 1 7 tagN32))
    v s 0 3 = 0xFFFFFFFF ∧ fl s = 2 := by decide +kernel
theorem test_imin_signed : v (nx (.imin (fa 3 1 2 0) .s32) (w (fun g => vr 1 0xFFFFFFFF tagI32 (vr 2 1 tagI32 g)))) 0 3 = 0xFFFFFFFF ∧
    v (nx (.imax (fa 3 1 2 0) .n32) (w (fun g => vr 1 0xFFFFFFFF tagN32 (vr 2 1 tagN32 g)))) 0 3 = 0xFFFFFFFF := by decide +kernel
theorem test_isad_bytes : v (nx (.isad (fa 4 1 2 3) .n8x4) (w (fun g => vr 1 0x01020304 tagN8x4 (vr 2 0x04030201 tagN8x4 (vr 3 100 tagN32 g))))) 0 4 = 108 := by decide +kernel
theorem test_andn : v (nx (.andn (fa 3 1 2 0) false) (w (fun g => vr 1 0xFF tagRAW (vr 2 0x0F tagRAW g)))) 0 3 = 0xF0 := by decide +kernel
theorem test_shl_by_32 : v (nx (.shl (.a (fa 3 1 2 0))) (w (fun g => vr 1 1 tagRAW (vr 2 32 tagRAW g)))) 0 3 = 0 ∧
    v (nx (.sar (.a (fa 3 1 2 0))) (w (fun g => vr 1 0x80000000 tagI32 (vr 2 40 tagRAW g)))) 0 3 = 0xFFFFFFFF := by decide +kernel
theorem test_rot_by_33 : v (nx (.rot (.a (fa 3 1 2 0))) (w (fun g => vr 1 0x80000001 tagRAW (vr 2 33 tagRAW g)))) 0 3 = 3 := by decide +kernel
/-- R206's example. -/
theorem test_bfx : v (nx (.bfx (fa 3 1 2 0) false) (w (fun g => vr 1 0xF70 tagRAW (vr 2 0x404 tagRAW g)))) 0 3 = 7 ∧
    v (nx (.bfx (fa 3 1 2 0) false) (w (fun g => vr 1 0xF70 tagRAW (vr 2 0x508 tagRAW g)))) 0 3 = 15 ∧
    v (nx (.bfx (fa 3 1 2 0) true) (w (fun g => vr 1 0xF70 tagRAW (vr 2 0x406 tagRAW g)))) 0 3 = 0xFFFFFFFD := by decide +kernel
theorem test_clz_popc_brev : v (nx (.clz (fa 3 1 0 0)) (w (vr 1 0x00F0 tagRAW))) 0 3 = 24 ∧ v (nx (.popc (fa 3 1 0 0)) (w (vr 1 0x00F1 tagRAW))) 0 3 = 5 ∧
    v (nx (.brev (fa 3 1 0 0)) (w (vr 1 1 tagRAW))) 0 3 = 0x80000000 := by decide +kernel
theorem test_write_to_v0 : v (nx (.movi (fi 0 0 7) .s32) w0) 0 0 = 0 ∧ (gr (nx (.movi (fi 0 0 7) .s32) w0)).pc = 0x10008 := by decide +kernel
theorem test_inactive_lane_keeps : let s := nx (.movi (fi 2 0 7) .s32) (w (em 1))
    v s 0 2 = 7 ∧ v s 1 2 = 0 := by decide +kernel
theorem test_sel : v (nx (.sel (fa 3 1 2 1)) (w (fun g => vr 1 5 tagRAW (vr 2 6 tagI32 (pm 1 1 g))))) 0 3 = 5 ∧
    tg (nx (.sel (fa 3 1 2 1)) (w (fun g => vr 1 5 tagRAW (vr 2 6 tagI32 (pm 1 1 g))))) 1 3 = tagI32 := by decide +kernel
theorem test_icmp_unsigned : pr (nx (.icmp (.a (fa 1 1 2 0)) .ltu false) (w (fun g => vr 1 1 tagI32 (vr 2 0xFFFFFFFF tagI32 g)))) 0 1 = true ∧
    pr (nx (.icmp (.a (fa 1 1 2 0)) .lt false) (w (fun g => vr 1 1 tagI32 (vr 2 0xFFFFFFFF tagI32 g)))) 0 1 = false := by decide +kernel
theorem test_pand_inverts : pr (nx (.pand (fa 1 2 3 0) true false) (w (fun g => pm 2 0 (pm 3 1 g)))) 0 1 = true := by decide +kernel
/-- A source whose tag the form does not accept takes TAG_FAULT, and nothing is written (R117, R365). -/
theorem test_tag_fault : let s := nx (.iadd (.a (fa 3 1 2 0)) .s32 false) (w (vr 1 1 tagF32))
    (gr s).ecause = 0x100 ∧ (gr s).pc = 0x20000 ∧ (gr s).epc = 0x10000 ∧ v s 0 3 = 0 ∧ (gr s).supervisor = true := by decide +kernel
/-- 1 + 2^-24 lies half way and rounds to even (R120). -/
theorem test_fadd_rounds_to_even : let s := nx (.fadd (.a (fa 3 1 2 0)) (fmode .f32)) (w (fun g => vr 1 0x3F800000 tagF32 (vr 2 0x33800000 tagF32 g)))
    v s 0 3 = 0x3F800000 ∧ fl s = 0x10 := by decide +kernel
theorem test_fadd_packed : v (nx (.fadd (.a (fa 3 1 2 0)) (fmode .f16x2)) (w (fun g => vr 1 0x3C004000 tagF16x2 (vr 2 0x3C003C00 tagF16x2 g)))) 0 3 =
    0x40004200 := by decide +kernel
theorem test_ffma_one_rounding : v (nx (.ffma (fa 4 1 2 3) (fmode .f32)) (w (fun g =>
    vr 1 0x3F800001 tagF32 (vr 2 0x3F800001 tagF32 (vr 3 0xBF800002 tagF32 g))))) 0 4 = 0x28800000 := by decide +kernel
theorem test_fdiv_by_zero : let s := nx (.fdiv (fa 3 1 2 0) false .rn) (w (fun g => vr 1 0x3F800000 tagF32 (vr 2 0 tagF32 g)))
    v s 0 3 = 0x7F800000 ∧ fl s = 2 := by decide +kernel
theorem test_fsqrt : v (nx (.fsqrt (fa 3 1 0 0) false .rn) (w (vr 1 0x41100000 tagF32))) 0 3 = 0x40400000 := by decide +kernel
theorem test_fcmp_nan : pr (nx (.fcmp (fa 1 1 2 0) .nan .f32 false) (w (fun g => vr 1 0x7FC00000 tagF32 (vr 2 0 tagF32 g)))) 0 1 = true := by decide +kernel
theorem test_fclass_minus_zero : v (nx (.fclass (fa 3 1 0 0) .f32 false) (w (vr 1 0x80000000 tagF32))) 0 3 = 8 := by decide +kernel
/-- R219's example: CVT.e4m3.f32.rn.sat of 500.0. -/
theorem test_cvt_saturates :
    let s := nx (.cvt g0 5 3 false 0 false { dst := .e4m3, src := .f32, f := 2, e := 0, ftz := false, sat := true, rm := .rn }) (w (fun g => vr 3 0x43FA0000 tagF32 (vr 5 0 tagE4M3x4 g)))
    v s 0 5 = 0x007E0000 ∧ tg s 0 5 = tagE4M3x4 ∧ fl s = 0x30 := by decide +kernel
/-- R225's examples. -/
def shflState : State := w (fun g => vl 4 (fun l => if l ≤ 5 then BitVec.ofNat 32 (10 + l) else 0) tagI32 (em 0xF g))
theorem test_shfl_lead : (List.range 4).map (fun l => v (nx (.shfl (.i g0 5 4 1 false) .lead false false) shflState) l 5) = [11, 12, 13, 13] := by decide +kernel
theorem test_shfl_lead_zf : let s := nx (.shfl (.i g0 5 4 1 false) .lead false true) shflState
    (List.range 4).map (fun l => v s l 5) = [11, 12, 13, 0] ∧ tg s 3 5 = tagRAW := by decide +kernel
theorem test_shfl_lag_ring : (List.range 4).map (fun l => v (nx (.shfl (.i g0 5 4 1 false) .lag true false) shflState) l 5) = [10, 10, 11, 12] := by decide +kernel
/-- R227's example: the tree's roundings. -/
theorem test_redg_tree : let s := nx (.redg (fa 2 1 0 0) .add .f32 .rn) (w (fun g => vl 1 (fun l => if l = 0 then 0x4B800000 else 0x3F800000) tagF32 (em 0xF g)))
    v s 3 2 = 0x4B800001 ∧ fl s = 0x10 := by decide +kernel
theorem test_scang_exclusive : let s := nx (.scang (fa 2 1 0 0) true .add .s32 .rn) (w (vr 1 3 tagI32))
    v s 0 2 = 0 ∧ v s 31 2 = 93 := by decide +kernel
theorem test_rqscale_dest_source : v (nx (.rqscale (fa 3 1 0 3) true) (w (fun g => vr 1 0x3F800000 tagF32 (vr 3 0xFFFFFFF0 tagI32 g)))) 0 3 =
    v (nx (.rqscale (fa 3 1 0 3) false) (w (fun g => vr 1 0x3F800000 tagF32 (vr 3 0xFFFFFFF0 tagI32 g)))) 0 3 := by decide +kernel
theorem test_rng_counter : let s := nx (.rng (fa 1 0 0 0) .n32) (w (em 1))
    ((gr s).lane 0).ctr = 1 ∧ ((gr s).lane 1).ctr = 0 ∧ tg s 0 1 = tagN32 := by decide +kernel
theorem test_sadd_wraps : (gr (nx (.sadd (.i (fi 2 1 1))) (w (sr 1 0xFFFFFFFF)))).sreg 2 = 0 := by decide +kernel
theorem test_smov_lowest_lane : (gr (nx (.smov (fa 2 1 0 0) .sv) (w (fun g => vl 1 (fun l => BitVec.ofNat 32 (l + 7)) 0 (em 0xF0 g))))).sreg 2 = 11 := by decide +kernel
theorem test_vote_bits : v (nx (.vote (fa 2 1 0 0) .bitsV) (w (fun g => pm 1 0xFF (em 0xF0F g)))) 0 2 = 0x0F := by decide +kernel
theorem test_setem_within_path : (gr (nx (.setem (fa 0 1 0 0) .s) (w (fun g => { sr 1 0xFF g with path := 0xF0F, em := 0xF0F, occ := 0xF0F })))).em = 0x0F := by decide +kernel
theorem test_setstage : (gr (nx (.setstage (fi 0 0 15) false) w0)).stage = 15 := by decide +kernel
/-- A word stored low byte first and read back in lane order (R4, R234, R235). -/
theorem test_store_bytes : readBytes (nx (.st (fm 1 1 0 4 2) (.reg false)) (w (fun g => vr 1 0x11223344 0 (ab 1 0x4000 (em 1 g))))).mem 0x4004 4 =
    [0x44, 0x33, 0x22, 0x11] := by decide +kernel
theorem test_store_highest_lane : readNat (nx (.st (fm 1 1 0 0 2) (.reg false)) (w (fun g => vl 1 (fun l => BitVec.ofNat 32 l) 0 (ab 1 0x4000 g)))).mem 0x4000 4 =
    31 := by decide +kernel
theorem test_load_sign : v (nx (.ld (fm 2 1 0 0 0) (.reg true tagI32))
    { w (ab 1 0x4000) with mem := writeBytes w0.mem 0x4000 [0x80] }) 0 2 = 0xFFFFFF80 := by decide +kernel
theorem test_load_misaligned : let s := nx (.ld (fm 2 1 0 2 2) (.reg false 0)) (w (ab 1 0x4000))
    (gr s).ecause = 0x041 ∧ (gr s).eaddr = 0x4002 ∧ (gr s).emaskf = 0xFFFFFFFF := by decide +kernel
/-- R238's example. -/
theorem test_atom_lanes : let s := nx (.atom (fm 2 1 0 0 2) .add false false) { w (fun g => vl 2 (fun l => BitVec.ofNat 32 (l + 1)) tagI32 (ab 1 0x4000 (em 7 g))) with mem := writeBytes w0.mem 0x4000 [10] }
    (List.range 3).map (fun l => v s l 2) = [10, 11, 13] ∧ readNat s.mem 0x4000 4 = 16 := by decide +kernel
theorem test_cas_writes : let s := nx (.cas (fm 2 1 0 0 2)) (w (fun g => vr 2 0 0 (vr 3 9 0 (ab 1 0x4000 (em 1 g)))))
    v s 0 2 = 0 ∧ readNat s.mem 0x4000 4 = 9 := by decide +kernel
theorem test_ll_reserves : ((gr (nx (.ll (fm 2 1 0 0 2) 0) (w (fun g => ab 1 0x4000 (em 1 g))))).lane 0).resv = some 0x400 := by decide +kernel
theorem test_sc_without_reservation : let s := nx (.sc (fm 2 1 0 0 2) 1) (w (fun g => vr 2 9 0 (ab 1 0x4000 (em 1 g))))
    pr s 0 1 = false ∧ readNat s.mem 0x4000 4 = 0 := by decide +kernel
/-- Three lanes go to the target, the rest falls through and runs first (R171, R173). -/
theorem test_bra_divides : let s := nx (.bra { fc 4 0 0 with g := ⟨1, false⟩ }) (w (pm 1 7))
    (gr s).pc = 0x10008 ∧ (gr s).path = 0xFFFFFFF8 ∧ (bk s).stack.map (fun e => (e.wait, e.rpc)) = [(7, 0x10020)] := by decide +kernel
theorem test_bra_backward : (gr (nx (.bra (fc 0xFFFFFFFD 0 0)) w0)).pc = 0xFFE8 := by decide +kernel
theorem test_call_saves_return : let s := nx (.call (fc 4 0 0)) w0
    (gr s).pc = 0x10020 ∧ ((bk s).stack.map (fun e => (e.kind == .call, e.rpc))) = [(true, 0x10008)] := by decide +kernel
theorem test_loop_counts : let s := nx (.loop (fc 2 3 0) true) w0
    ((gr s).loop 0).count = 3 ∧ ((gr s).loop 0).start = 0x10008 ∧ ((gr s).loop 0).stop = 0x10010 ∧ (gr (nx .nop s)).pc = 0x10008 ∧
    ((gr (nx .nop s)).loop 0).count = 2 := by decide +kernel
theorem test_exit_retires : (nx (.exit (fc 0 0 0)) w0).group? 0 = none ∧ (nx (.exit { fc 0 0 0 with g := ⟨1, false⟩ }) (w (pm 1 1))).group? 0 ≠ none := by decide +kernel
theorem test_bar_alone_completes : let s := nx (.bar (fc 0 3 0)) w0
    (gr s).pc = 0x10008 ∧ ((bk s).bar 3).phase = 1 := by decide +kernel
theorem test_bar_waits : (gr (nx (.bar (fc 2 3 0)) w0)).st = .waiting (.named 3 true) := by decide +kernel
theorem test_rbtake_range : (gr (nx (.rbtake (fi 0 0 28)) (w (fun g => { g with budget := 5 })))).ecause = 0x00A := by decide +kernel
theorem test_rbgive_pool : let s := nx (.rbgive (fi 0 0 2)) (w (fun g => { g with budget := 6 }))
    (gr s).budget = 4 ∧ (bk s).pool = 2 := by decide +kernel
theorem test_talloc_shape : ((nx (.talloc (fi 3 0 1) false) w0).tile? 0 3).map (fun t => (t.rows, t.rowBytes, t.quad)) = some (2, 64, false) := by decide +kernel
theorem test_tst_tld : let s := nx (.tst (ft 1 3 0 1 0 2) 2) (nx (.talloc (fi 3 0 1) false) (w (fun g => vr 1 5 0 (em 1 g))))
    v (nx (.tld (ft 2 3 0 1 0 2) 2 false) s) 0 2 = 5 ∧ ((s.tile? 0 3).map (fun t => t.byte 72)) = some 5 := by decide +kernel
theorem test_trap_enters_handler : let s := nx (.trap (fs 0 0 0x21)) w0
    (gr s).ecause = 0x321 ∧ (gr s).epc = 0x10008 ∧ (gr s).pc = 0x20000 ∧ (gr (nx (.eret (fs 0 0 0)) { s with
      groups := Table.upd s.groups 0 (fun g => { g with emaskf := 0 }) })).pc = 0x10008 := by decide +kernel
theorem test_eret_user : (gr (nx (.eret (fs 0 0 0)) w0)).ecause = 0x008 := by decide +kernel
theorem test_mtsr_fpstat : fl (nx (.mtsr (fs 0 1 0x010) false) (w (sr 1 0xFFFFFFFF))) = 0xDFFF := by decide +kernel
theorem test_abind : ((gr (nx (.abind (fa 1 2 4 0)) (w (fun g => sr 2 0x4000 (sr 4 64 g))))).areg 1).limit = 64 := by decide +kernel
theorem test_estw_untabled : (gr (nx (.estw (fs 0x10 4 1) 0) w0)).ecause = 0x185 := by decide +kernel
theorem test_cbarr_uninitialised : let s := nx (.cbarr (fj 1 0 0 4)) w0
    (gr s).ecause = 0x140 ∧ (gr s).einfo = 9 := by decide +kernel
theorem test_cbinit : ((bk (nx (.cbinit (fj 1 0 0 4)) (w (sr 4 64)))).copyBar 1) = { init := true, phase := 1, expect := 64, landed := 0 } := by decide +kernel
theorem test_dual_reads_old : let s := nx (.dualWord false (.u .mov 1 2) (.u .mov 2 1)) (w (fun g => vr 1 5 0 (vr 2 6 0 g)))
    v s 0 1 = 6 ∧ v s 0 2 = 5 := by decide +kernel
theorem test_window_lands_later : let s := nx (.ld { fm 2 1 0 0 2 with la := 2 } (.reg false 0)) { w (ab 1 0x4000) with mem := writeBytes w0.mem 0x4000 [7] }
    v s 0 2 = 0 ∧ v (nx .nop (nx .nop s)) 0 2 = 7 := by decide +kernel
theorem test_reset_cold : State.reset.dev.life = .cold ∧ Memory.wf State.reset.mem = true := by decide +kernel
theorem test_first_step_runs :
    (match step (State.reset.withFetchWord 64 0x2180202830000000) with | .next t => (gr t).pc == 0x10008 && tg t 0 4 == tagI32 | _ => false) = true := by
  decide +kernel
/-- Images as a start brings them. -/
def boot : Boot := { rot := ⟨[1, 2], 5⟩, mp := ⟨[3], 6⟩, found := [.quad 3] }
theorem test_firmware : (nx (.firmwareVerify boot) State.reset).dev.life = if bootSigned boot then .thaw else .cold := by
  show (if State.reset.dev.life = .cold && bootSigned boot then State.reset.enterThaw boot else State.reset).dev.life = _
  cases bootSigned boot <;> decide +kernel

/-! ## Witnesses: for each statement with hypotheses, states and operands that meet them -/

/-- Group `s.cur` issues `i` (Issues), and `P` holds of it. -/
def issP (s : State) (i : Instr) (P : Group → Bool) : Bool :=
  match s.group? s.cur with
  | some g =>
    let r := reachOf s g i
    let act := r.active (useOf i).guard
    Instr.wf i && (!landsAt (s.isSolstice g.blk) i || (firstLanded r.due).isNone) && (preCheck i (useOf i) r).isNone &&
      !pendingIn r act (readsOf i) && (badRead r act i).isNone && decide (tagFails r act (useOf i).srcs = 0) && P g
  | none => false

theorem issues_of_issP {s : State} {i : Instr} {P : Group → Bool} (h : issP s i P = true) : ∃ g, Issues s g i ∧ P g = true := by
  unfold issP at h
  split at h
  · next g hg =>
    simp only [Bool.and_eq_true, Bool.or_eq_true, Bool.not_eq_true', Option.isNone_iff_eq_none, decide_eq_true_eq] at h
    exact ⟨g, ⟨h.1.1.1.1.1.1, hg, fun hl => h.1.1.1.1.1.2.resolve_left (by simp [hl]), h.1.1.1.1.2, h.1.1.1.2, h.1.1.2, h.1.2⟩, h.2⟩
  · exact absurd h (by simp)

def iss (s : State) (i : Instr) : Bool := issP s i (fun _ => true)
/-- `i` issues and no enabled float cause is met. -/
def issNoTrap (s : State) (i : Instr) (f : Group → Nat → Lane → LaneOut) : Bool :=
  issP s i (fun g => (fpCause g.fpstat (allFlags (flagsOf g (actOf g i) (f g)))).isNone)
/-- `i` issues and takes an enabled float cause with a handler. -/
def issTrapOn (s : State) (i : Instr) (fls : Group → List (Nat × FlagSet)) : Bool :=
  issP s i (fun g => (fpCause g.fpstat (allFlags (fls g))).isSome && !g.supervisor && goodVector (s.hvec g))
def issTrap (s : State) (i : Instr) (f : Group → Nat → Lane → LaneOut) : Bool := issTrapOn s i (fun g => flagsOf g (actOf g i) (f g))

theorem test_witness_IntegerFormsComplete :
    [.iadd (.a (fa 3 1 2 0)) .s8x4 true, .iadd (.i (fi 3 1 5)) .n32 false, .isub (fa 4 6 2 0) .s64 true, .imin (fa 3 1 2 0) .s32, .imax (fa 3 1 2 0) .n32,
      .iadd3 (fa 4 1 2 3) .s32, .imul (.a (fa 4 1 2 0)) .n32 false .wide, .imad (fa 4 1 2 6) .s32 false true, .iabs (fa 3 1 0 0) .s8x4 true,
      .isad (fa 4 1 2 3) .n8x4, .idiv { fa 3 1 2 0 with la := 7 } .s32, .irem (fa 3 1 2 0) .n32].all (iss w0) = true ∧
    issNoTrap w0 (.idiv (fa 3 1 2 0) .s32) (laneDiv (fa 3 1 2 0) .s32 false) = true ∧
    issNoTrap w0 (.iadd (.a (fa 3 1 2 0)) .s32 true) (intAI (· + ·) (.a (fa 3 1 2 0)) .s32 true) = true := by decide +kernel

/-- A lane with v1 and v2. -/
def lane2 (a b : W32) : Lane := ({} : Lane).setReg 1 ⟨a, tagI32⟩ |>.setReg 2 ⟨b, tagI32⟩
/-- TDZ, TNV and the other traps of FPSTAT enabled. -/
def trapping (g : Group) : Group := { g with fpstat := 0x1F80 }

theorem test_witness_DivisionTruncates :
    ((lane2 7 2).reg 1).val = 7 ∧ ((lane2 7 2).reg 2).val ≠ 0 ∧
    ((lane2 0x80000000 0xFFFFFFFF).reg 1).val = 0x80000000 ∧ ((lane2 0x80000000 0xFFFFFFFF).reg 2).val = 0xFFFFFFFF ∧
    ((lane2 7 0).reg 2).val = 0 ∧
    issNoTrap (w (fun g => trapping (vr 2 1 tagI32 g))) (.idiv (fa 3 1 2 0) .s32) (laneDiv (fa 3 1 2 0) .s32 false) = true ∧
    issTrap (w trapping) (.idiv (fa 3 1 2 0) .s32) (laneDiv (fa 3 1 2 0) .s32 false) = true ∧
    issTrap (w trapping) (.irem (fa 3 1 2 0) .n32) (laneDiv (fa 3 1 2 0) .n32 true) = true := by decide +kernel

theorem test_witness_MovesCopyValueAndTag :
    [.mov (fa 3 1 0 0) false, .mov (fa 2 4 0 0) true, .movi (fi 1 0 5) .s32, .movi (fi 1 0 5) .n32, .movi (fi 1 0 5) .f32, .movi (fi 1 0 5) .raw,
      .sel (fa 3 1 2 1)].all (iss w0) = true := by decide +kernel

theorem test_witness_LogicAndBitFormsComplete :
    [.and (.a (fa 3 1 2 0)) false, .or (.a (fa 4 2 6 0)) true, .xor (.i (fi 3 1 5)) false, .andn (fa 3 1 2 0) false, .andn (fa 4 2 6 0) true,
      .shl (.a (fa 3 1 2 0)), .shr (.a (fa 3 1 2 0)), .sar (.a (fa 3 1 2 0)), .rot (.a (fa 3 1 2 0)), .shl (.i (fi 3 1 31)), .shr (.i (fi 3 1 31)),
      .sar (.i (fi 3 1 31)), .rot (.i (fi 3 1 31)), .popc (fa 3 1 0 0), .clz (fa 3 1 0 0), .brev (fa 3 1 0 0), .bfx (fa 3 1 2 0) true,
      .bfi (fa 4 1 2 3)].all (iss w0) = true ∧
    fieldPos 0x404 ≤ 5 ∧ 5 < fieldPos 0x404 + fieldLen 0x404 ∧ leadingZeros 1 < 32 ∧ 32 - leadingZeros 1 ≤ 31 := by decide +kernel

theorem test_witness_FormatFormsComplete :
    [.unpack (fa 4 1 0 0) .s8 false, .bpsplit (fa 1 4 8 0) 7, .bpjoin (fa 1 8 0 0) 3 7, .tagset (fa 1 2 0 0) 11, .tagget (fa 1 2 0 0),
      .fclass (fa 1 2 0 0) .f16x2 true].all (iss w0) = true := by decide +kernel

/-- A dual word issues, nothing of its halves is pending, and neither half traps. -/
def issDual (s : State) (ps : Bool) (h0 h1 : Half) : Bool :=
  issP s (.dualWord ps h0 h1) (fun g =>
    let act := actOf g (.dualWord ps h0 h1)
    !pendingIn g act ((halfUse ⟨0, false⟩ h0).srcs ++ (halfUse ⟨0, false⟩ h1).srcs) &&
      [h0, h1].all (fun h => (halfCheck h g act).isNone && (fpCause g.fpstat (allFlags (flagsOf g act (laneHalf h g)))).isNone))

theorem test_witness_DualWordsComplete : issDual w0 true (.r .iadd .m0 1 2 0) (.r .and .m0 4 7 0) = true ∧
    issDual w0 false (.ffma 1 2 3) (.u .popc 4 8) = true ∧ issDual w0 false (.movi 1 5) .nop = true := by decide +kernel

theorem test_witness_PredicatesAreWritten :
    [.icmp (.a (fa 1 1 2 0)) .lt false, .icmp (.a (fa 1 4 2 0)) .ltu true, .icmp (.i g0 1 1 5 false) .eq false, .fcmp (fa 1 1 2 0) .nan .f16x2 true,
      .pand (fa 1 2 3 0) true false, .por (fa 7 2 3 0) false true, .pxor (fa 0 2 3 0) true true, .pnot (fa 1 2 0 0), .pmov (fa 1 2 0 0) .pp,
      .pmov (fa 1 2 0 0) .vp, .pmov (fa 1 2 0 0) .pv].all (iss w0) = true := by decide +kernel

theorem test_witness_FloatFormsComplete :
    [.fadd (.a (fa 3 1 2 0)) (fmode .f32), .fadd (.i (fi 3 1 5)) (fmode .f32), .fsub (fa 3 1 2 0) (fmode .bf16x2), .fmul (.a (fa 3 1 2 0)) (fmode .f16x2),
      .ffma (fa 4 1 2 3) (fmode .f32), .fmin (fa 3 1 2 0) true .f32, .fmax (fa 3 1 2 0) false .f16x2, .frnd (fa 3 1 0 0) (fmode .f32),
      .fdiv { fa 3 1 2 0 with la := 15 } true .dyn, .fsqrt (fa 3 1 0 0) false .ru, .frcp (fa 3 1 0 0), .frsq (fa 3 1 0 0), .fsin (fa 3 1 0 0),
      .fcos (fa 3 1 0 0), .fexp2 (fa 3 1 0 0), .flog2 (fa 3 1 0 0), .ftanh (fa 3 1 0 0), .rdeq (fa 3 2 4 0), .rquant (fa 2 1 3 0)].all (iss w0) = true ∧
    issNoTrap (w trapping) (.fadd (.a (fa 3 1 2 0)) (fmode .f32)) (laneF2 fAdd (.a (fa 3 1 2 0)) (fmode .f32)) = true ∧
    issNoTrap (w trapping) (.fsqrt { fa 3 1 0 0 with la := 3 } false .rn)
      (fun _ _ x => packFloats .f32 [fSqrt .rn false (x.reg 1).val.toNat]) = true := by decide +kernel

/-- The value of a number of binary32: 1, 0, −1. -/
def one : FVal := .fin false 0x800000 (-23)
def zero : FVal := .fin false 0 (-149)
def minusOne : FVal := .fin true 0x800000 (-23)

theorem fin_is (s : Bool) (m : Nat) (e : Int) (x : ℝ) : (FVal.fin s m e).Is x ↔ x = (if s then -1 else 1) * (m : ℝ) * (2 : ℝ)^e :=
  ⟨fun ⟨_, _, _, h, hx⟩ => by cases h; exact hx, fun h => ⟨_, _, _, rfl, h⟩⟩

theorem one_is (x : ℝ) : one.Is x ↔ x = 1 := by rw [one, fin_is]; norm_num
theorem zero_is (x : ℝ) : zero.Is x ↔ x = 0 := by rw [zero, fin_is]; norm_num
theorem minusOne_is (x : ℝ) : minusOne.Is x ↔ x = -1 := by rw [minusOne, fin_is]; norm_num
theorem one_mag : one.Mag false 1 := ⟨_, _, rfl, by norm_num⟩

theorem test_float_values : val fmtF32 (ftzIn fmtF32 false 0x3F800000) = one ∧ val fmtF32 (ftzIn fmtF32 true 0) = zero ∧
    val fmtF32 (ftzIn fmtF32 true 0xBF800000) = minusOne ∧ val fmtF32 0x7FC00000 = .nan ∧ val fmtF32 0x7F800000 = .inf false ∧
    val fmtF32 0xFF800000 = .inf true ∧ 0x7F800000 < 2^fmtF32.bits ∧ val fmtF16 0x3C00 = .fin false 0x400 (-10) := by decide +kernel

theorem test_witness_FloatResultsRoundOnce :
    (∀ u, RMode.rn ≠ .rs u) ∧ one.Mag false 1 ∧ (∀ neg v, ¬ FVal.nan.Mag neg v) ∧ ClashAdd (.inf true) (.inf false) ∧ ClashMul zero (.inf true) ∧
    SumIs .rn one one (.fin false 0x800000 (-22)) ∧ SumIs .rd one minusOne (.fin true 0 0) ∧ ProductIs minusOne one minusOne ∧
    ClashAdd (.inf false) (.inf true) ∧ RoundsOn .rn false 1 1 1 ∧
    (one.Is 1 ∧ zero.Is 0 ∧ minusOne.Is (-1) ∧ (0 : ℝ) < 1 ∧ (-1 : ℝ) < 0) ∧
    (∃ v, (val fmtF32 0x43000000).Is v ∧ 128 ≤ v) ∧ (∃ v, (val fmtF32 0xC3160000).Is v ∧ v ≤ -150) ∧
    ((-150 : ℝ) < 1 ∧ (1 : ℝ) < 128 ∧ (1 : ℝ) = ((1 : ℤ) : ℝ) ∧ (1 : ℝ) = (2 : ℝ)^(0 : ℤ)) := by
  refine ⟨by simp, one_mag, ?_, ⟨true, rfl, rfl⟩, ⟨true, .inl ⟨(zero_is 0).2 rfl, rfl⟩⟩, ?_, ?_, ?_, ⟨false, rfl, rfl⟩, ?_,
    ⟨(one_is 1).2 rfl, (zero_is 0).2 rfl, (minusOne_is _).2 rfl, by norm_num, by norm_num⟩, ?_, ?_, by norm_num⟩
  · rintro _ _ ⟨_, _, h, -⟩; cases h
  · refine ⟨fun ⟨_, h, _⟩ => FVal.noConfusion h, by simp [one], by simp [one], fun x y hx hy => ?_⟩
    rw [one_is] at hx hy
    subst hx hy
    exact ⟨(fin_is ..).2 (by norm_num), fun _ => ⟨fun _ => rfl, fun h => absurd rfl h⟩⟩
  · refine ⟨fun ⟨_, h, _⟩ => FVal.noConfusion h, by simp [one, minusOne], by simp [one, minusOne], fun x y hx hy => ?_⟩
    rw [one_is] at hx
    rw [minusOne_is] at hy
    subst hx hy
    exact ⟨(fin_is ..).2 (by norm_num), fun _ => ⟨fun h => by simp [one, minusOne, FVal.sign] at h, fun _ => by simp [FVal.sign]⟩⟩
  · refine ⟨fun ⟨_, h⟩ => h.elim (fun h => FVal.noConfusion h.2) (fun h => FVal.noConfusion h.1), by simp [one, minusOne], by simp [one, minusOne], fun x y hx hy => ?_⟩
    rw [minusOne_is] at hx
    rw [one_is] at hy
    subst hx hy
    exact ⟨(minusOne_is _).2 (by norm_num), rfl⟩
  · exact ⟨1, by norm_num, by norm_num, by norm_num [takesUpper], by norm_num [takesUpper]⟩
  · exact ⟨128, by rw [show val fmtF32 0x43000000 = .fin false 0x800000 (-16) by decide +kernel, fin_is]; norm_num, le_refl _⟩
  · exact ⟨-150, by rw [show val fmtF32 0xC3160000 = .fin true 0x960000 (-16) by decide +kernel, fin_is]; norm_num, le_refl _⟩

theorem test_witness_ConversionsSaturateAndRound :
    (∀ t ∈ [NTy.f32, .f16, .bf16, .e4m3, .e5m2, .e2m1], t.isFloat = true ∧
      (match val (ntyFmt t) (ntyFmt t).maxPat with | .fin s _ _ => !s | _ => false) = true) ∧
    (NTy.s8.isFloat = false ∧ intOf (ntyInt .s8).1 (ntyInt .s8).2 0xFF = -1 ∧ intOf (ntyInt .n8).1 (ntyInt .n8).2 0 = 0 ∧ ntyInt .n4 = (4, false)) ∧
    (0x7FC00000 < 2^(ntyBits .f32) ∧ val (ntyFmt .f32) 0x7FC00000 = .nan ∧ val (ntyFmt .f16) 0xFC00 = .inf true ∧ val (ntyFmt .e4m3) 0 = .fin false 0 (-9)) ∧
    (val (ntyFmt .f16) 0x3C00).Mag false 1 ∧ RoundsOn .rn false 1 1 1 ∧ ((1 : ℤ) : ℝ) = (if false = true then -1 else 1) ∧
    (NTy.s64.pair = true ∧ NTy.f32.pair = false ∧ NTy.f32.count = 1 ∧ NTy.e4m3.pair = false ∧ NTy.e4m3.count = 4 ∧ NTy.f16.count = 2 ∧ NTy.s4.count = 8) ∧
    (val (ntyFmt .f16) 0x7E00 = .nan ∧ ntyElem .f16 (({} : Lane).setReg 1 ⟨0x7E003C00, tagF16x2⟩) 1 1 = 0x7E00 ∧
      ntyElem .f16 (({} : Lane).setReg 1 ⟨0x7E003C00, tagF16x2⟩) 1 0 = 0x3C00) := by
  refine ⟨by decide +kernel, by decide +kernel, by decide +kernel, ?_, ⟨1, by norm_num, by norm_num, by norm_num [takesUpper], by norm_num [takesUpper]⟩,
    by norm_num, by decide +kernel, by decide +kernel⟩
  exact ⟨0x400, -10, by decide +kernel, by norm_num⟩
theorem test_witness_EnabledFloatFlagTraps :
    issTrap (w (fun g => trapping (vr 1 0x7F800000 tagF32 (vr 2 0xFF800000 tagF32 g)))) (.fadd (.a (fa 3 1 2 0)) (fmode .f32))
      (laneF2 fAdd (.a (fa 3 1 2 0)) (fmode .f32)) = true ∧
    issTrap (w (fun g => trapping (vr 1 0x7F800000 tagF32 (vr 2 0x7F800000 tagF32 g)))) (.fsub (fa 3 1 2 0) (fmode .f32))
      (laneF2 fSub (.a (fa 3 1 2 0)) (fmode .f32)) = true ∧
    issTrap (w (fun g => trapping (vr 1 0x7F7FFFFF tagF32 (vr 2 0x7F7FFFFF tagF32 g)))) (.fmul (.a (fa 3 1 2 0)) (fmode .f32))
      (laneF2 fMul (.a (fa 3 1 2 0)) (fmode .f32)) = true ∧
    issTrap (w (fun g => trapping (vr 1 0x7F800000 tagF32 g))) (.ffma (fa 4 1 2 3) (fmode .f32)) (laneFma (fa 4 1 2 3) (fmode .f32)) = true ∧
    issTrap (w trapping) (.frcp (fa 3 1 0 0)) (laneSfu fRcp (fa 3 1 0 0)) = true ∧
    issTrap (w (fun g => trapping (vr 1 0x7FC00000 tagF32 g)))
      (.cvt g0 3 1 false 0 false { dst := .s32, src := .f32, f := 0, e := 0, ftz := false, sat := false, rm := .rn })
      (laneCvt 3 1 { dst := .s32, src := .f32, f := 0, e := 0, ftz := false, sat := false, rm := .rn }) = true ∧
    issTrap (w (fun g => trapping (vr 1 0x7F7FFFFF tagF32 g))) (.pack (fa 3 1 2 0) .f16 false .rn) (lanePack (fa 3 1 2 0) .f16 false .rn) = true ∧
    issTrap (w (fun g => trapping (vr 1 0x3FC00000 tagF32 g))) (.frnd (fa 3 1 0 0) (fmode .f32))
      (fun _ _ x => packFloats .f32 ((floatElems .f32 (x.reg 1).val).map (fRnd (ftyFmt .f32) .rn false))) = true := by
  decide +kernel

theorem test_witness_EnabledFloatFlagTraps_late :
    issTrap (w trapping) (.fdiv (fa 3 1 2 0) false .rn) (fun _ _ x => packFloats .f32 [fDiv .rn false (x.reg 1).val.toNat (x.reg 2).val.toNat]) = true ∧
    issTrap (w (fun g => trapping (vr 1 0xBF800000 tagF32 g))) (.fsqrt (fa 3 1 0 0) false .rn)
      (fun _ _ x => packFloats .f32 [fSqrt .rn false (x.reg 1).val.toNat]) = true ∧
    [(Instr.frsq (fa 3 1 0 0), fRsq, (0 : W32)), (.fsin (fa 3 1 0 0), fSin, 0x7F800000), (.fcos (fa 3 1 0 0), fCos, 0x7F800000),
      (.fexp2 (fa 3 1 0 0), fExp2, 0x43000000), (.flog2 (fa 3 1 0 0), fLog2, 0)].all (fun x =>
        issTrap (w (fun g => trapping (vr 1 x.2.2 tagF32 g))) x.1 (laneSfu x.2.1 (fa 3 1 0 0))) = true ∧
    issTrap (w (fun g => trapping (vr 3 0x40000000 tagI64 (vr 2 0 tagI64 (vr 4 200 tagI32 g))))) (.rdeq (fa 5 2 4 0)) (laneRdeq (fa 5 2 4 0)) = true ∧
    issTrap (w (fun g => trapping (vr 1 0x3F800000 tagF32 (vr 3 90 tagI32 g)))) (.rquant (fa 4 1 3 0)) (fun _ l x => laneRquant (fa 4 1 3 0) (2 * l) x) = true ∧
    (let s := w (fun g => trapping (vr 1 0x7F7FFFFF tagF32 g))
     issTrapOn s (.redg (fa 3 1 0 0) .add .f32 .rn) (fun g => (reduceTree g.em (redNode .add .f32 .rn) (laneVals g g.em 1)).flags) &&
     issTrapOn s (.scang (fa 3 1 0 0) true .add .f32 .rn) (fun g => (scanTree g.em (redNode .add .f32 .rn) (laneVals g g.em 1)).flags)) = true := by
  decide +kernel

theorem test_witness_DrawingFormsComplete :
    [.rng (fa 3 0 0 0) .n32, .rng (fa 3 0 0 0) .f32, .rng (fa 4 0 0 0) .getc, .rng (fa 0 4 0 0) .setc,
      .cvt g0 3 1 false 0 false { dst := .f16, src := .f32, f := 0, e := 0, ftz := false, sat := false, rm := .rs }, .pack (fa 3 1 2 0) .f16 false .rs].all
      (iss (w trapping)) = true ∧
    issP (w trapping) (.rng (fa 3 0 0 0) .n32) (fun g => (List.range 32).all (fun l => !wraps (g.lane l).ctr 1)) = true ∧
    (match w0.group? 0 with | some g => !fpTwr g.fpstat | none => false) = true := by decide +kernel

theorem test_witness_TreesReduceAndScan :
    [.redg { fa 3 1 0 0 with la := 4 } .add .f32 .rz, .redg (fa 3 1 0 0) .xor .n32 .rn, .scang (fa 3 1 0 0) false .max .s32 .rn,
      .scang (fa 3 1 0 0) true .add .f32 .ru, .scanp (fa 5 1 2 3) .rn true 2, .scanl (fa 5 1 0 3) .dyn false 0].all
      (fun i => issP w0 i (fun g => (actOf g i) != 0 && (fpCause g.fpstat 0).isNone)) = true := by decide +kernel

theorem test_witness_ShuffleAndScaleComplete :
    [.shfl (.a (fa 3 1 2 0)) .lag true false, .shfl (.i g0 3 1 31 false) .lead false true, .rqscale (fa 3 1 0 2) false, .rqscale (fa 3 1 0 2) true].all
      (fun i => issP w0 i (fun g => !g.supervisor)) = true := by decide +kernel

theorem test_witness_ScalarFormsComplete :
    [.smov (fa 1 2 0 0) .ss, .smov (fa 1 2 0 0) .sv, .smov (fa 1 2 0 0) .vs, .smov (fa 1 2 0 0) .sl, .smovi (fi 1 0 5), .sadd (.a (fa 1 2 3 0)),
      .ssub (fa 1 2 3 0), .smul (fa 1 2 3 0), .sand (.a (fa 1 2 3 0)), .sor (.a (fa 1 2 3 0)), .sxor (.a (fa 1 2 3 0)), .sshl (.a (fa 1 2 3 0)),
      .sshr (.a (fa 1 2 3 0)) false, .sshr (.a (fa 1 2 3 0)) true, .sadd (.i (fi 1 2 5)), .sand (.i (fi 1 2 5)), .sor (.i (fi 1 2 5)),
      .sxor (.i (fi 1 2 5)), .sshl (.i (fi 1 2 31)), .sshr (.i (fi 1 2 31)) true, .scmp (.a (fa 1 2 3 0)) .geu, .scmp (.i g0 1 2 5 false) .ne,
      .ssel (fa 23 1 2 3), .aq (fa 1 7 0 0) 0, .aq (fa 1 7 0 0) 1, .aq (fa 1 7 0 0) 2].all (iss w0) = true := by decide +kernel

theorem test_witness_GroupFormsComplete :
    [.getem (fa 1 0 0 0) false, .getem (fa 1 0 0 0) true, .setem (fa 0 1 0 0) .v, .setem (fa 0 1 0 0) .p, .setem (fa 0 1 0 0) .s, .vote (fa 1 2 0 0) .someP,
      .vote (fa 1 2 0 0) .everyP, .vote (fa 1 2 0 0) .someS, .vote (fa 1 2 0 0) .everyS, .vote (fa 1 2 0 0) .bitsV, .vote (fa 1 2 0 0) .bitsS, .nop,
      .fence { fm 0 0 0 0 0 with ord := 3, scope := 4 } true, .yield (fc 0 0 0), .qend (fs 0 0 0)].all (iss w0) = true := by decide +kernel

theorem test_witness_QueriesComplete :
    (w0.block? 0).isSome = true ∧
    [.getid (fa 1 0 0 0) 0 false, .getid (fa 2 0 0 0) 10 false, .getid (fa 1 0 0 0) 15 true, .rbq (fa 1 0 0 0) .own, .rbq (fa 1 0 0 0) .pool,
      .rbq (fa 1 0 0 0) .wait, .tq (fa 1 3 0 0) 4, .nodeq (fs 1 2 6), .estq (fa 1 0 0 0) 7, .mfsr (fs 1 0 0x010) false, 
      .setstage (fi 0 0 15) false, .setstage (fi 0 1 0) true].all (fun i => issP w0 i (fun g => g.blk == 0)) = true ∧
    issP (w (fun g => { g with supervisor := true, hset := g.occ })) (.mfsr (fs 1 0 0x004) true) (fun g => g.blk == 0) = true := by decide +kernel

/-! ## Witnesses: control, barriers, memory -/

def okE {ε α : Type} (x : Except ε α) : Bool := match x with | .ok _ => true | .error _ => false
/-- An entry of group 0 under which its whole path runs: a call, or a branch with the lanes `defl` deferred. -/
def ent (kind : EntryKind) (defl : Lanes) : Entry :=
  { id := 0, parent := none, kind := kind, owner := 0, rpc := 0x10080, full := 0xFFFFFFFF, wait := 0, wen := 0, defl := defl, den := defl, dpc := 0x10040 }
/-- Group 0 runs `path` under its entries, the last of them current. -/
def stacked (es : List Entry) (path : Lanes) (f : Group → Group := id) : State :=
  { (w (fun g => f { g with path := path, em := path, cur := es.getLast?.map (·.id) })).updBlock 0 (fun b => { b with stack := es }) with
    nextEntry := es.length }
def under (e : Entry) (path : Lanes) (f : Group → Group := id) : State := stacked [e] path f
def gd (f : FC) (p : Nat) : FC := { f with g := ⟨BitVec.ofNat 3 p, false⟩ }
def live (n : Nat) (start stop : W64) (count : W32) (nest : List Nat) (g : Group) : Group :=
  { g.setLoop n { live := true, count := count, start := start, stop := stop } with nest := nest }

theorem test_witness_TransfersDivideAndRejoin :
    issP (w (pm 1 7)) (.bra (gd (fc 4 0 2) 1)) (fun g => actOf g (.bra (gd (fc 4 0 2) 1)) != 0) = true ∧
    issP (w (pm 1 7)) (.call (gd (fc 4 0 0) 1)) (fun g => actOf g (.call (gd (fc 4 0 0) 1)) != 0) = true ∧
    [.brx (fc 4 2 0), .callx (fc 0 2 0)].all (fun i => issP (w (vr 2 0x10040)) i (fun g => okE (targetsOf g (actOf g i) 2) && actOf g i != 0)) = true ∧
    [.bra (fc 4 0 0), .brx (fc 4 2 0), .call (fc 4 0 0), .callx (fc 0 2 0), .ret (fc 0 0 0)].all
      (fun i => issP (w (em 0)) i (fun g => actOf g i == 0)) = true ∧
    (let s := under (ent .call 0) 0xFFFFFFFF; issP s (.ret (fc 0 0 0)) (fun g => !g.supervisor && s.ownEntries 0 g == [ent .call 0] &&
      g.cur == some 0 && actOf g (.ret (fc 0 0 0)) == g.path && g.path != 0 && g.path &&& ~~~(ent .call 0).full == 0)) = true := by decide +kernel

/-- RET of three lanes of the path; through two calls, with one return address and with two; inside a branch of a call, of three
lanes and of the path. -/
theorem test_witness_TransfersDivideAndRejoin_ret :
    (let s := under (ent .call 0) 0xFFFFFFFF (pm 1 7); let i : Instr := .ret (gd (fc 0 0 0) 1)
     issP s i (fun g => !g.supervisor && s.ownEntries 0 g == [ent .call 0] && g.path &&& ~~~actOf g i != 0 && g.advance.pc != (ent .call 0).rpc)) = true ∧
    [(0x10040, false), (0x10080, true)].all (fun x =>
      let c1 : Entry := { ent .call 0 with id := 1, full := 0xFF, rpc := x.1, wait := 0xF0 }
      let s := stacked [ent .call 0, c1] 0xF; let i : Instr := .ret (fc 0 0 0)
      issP s i (fun g => !g.supervisor && s.ownEntries 0 g == [ent .call 0, c1] && g.cur == some 1 && actOf g i == g.path && g.path &&& ~~~c1.full == 0 &&
        (c1.wait ||| g.path) &&& ~~~(ent .call 0).full == 0 && g.em &&& ~~~g.path == 0 && (c1.rpc == (ent .call 0).rpc) == x.2)) = true ∧
    (let b : Entry := { ent .br 0xF0 with id := 1, full := 0xFF, rpc := 0x10060 }
     let s := stacked [ent .call 0, b] 0xF (pm 1 7)
     [(Instr.ret (gd (fc 0 0 0) 1), false), (.ret (fc 0 0 0), true)].all (fun x =>
      issP s x.1 (fun g => s.ownEntries 0 g == [ent .call 0, b] && g.cur == some 1 && actOf g x.1 &&& ~~~(ent .call 0).full == 0 &&
        b.full &&& ~~~(ent .call 0).full == 0 && (g.path &&& ~~~actOf g x.1 == 0) == x.2 && g.advance.pc != b.rpc &&
        b.defl &&& ~~~actOf g x.1 != 0 && b.defl &&& ~~~b.full == 0 && b.dpc != b.rpc))) = true := by decide +kernel

theorem test_witness_SplitPushesOneEntry : (∀ e ∈ [ent .br 1], e.id ≠ 7) ∧ (3 : Lanes) &&& ~~~(gr w0).path = 0 ∧ (3 : Lanes) ≠ 0 ∧ (3 : Lanes) ≠ (gr w0).path := by
  decide +kernel

theorem test_witness_LoopsCount :
    issP (w (sr 1 5)) (.sbr (fc 4 1 0) false) (fun g => g.sreg 1 != 0) = true ∧ issP w0 (.sbr (fc 4 1 0) true) (fun g => g.sreg 1 == 0) = true ∧
    issP w0 (.sbr (fc 4 1 0) false) (fun g => g.sreg 1 == 0) = true ∧
    issP w0 (.loop (fc 4 3 0) true) (fun g => !(g.loop 0).live && g.nest.isEmpty) = true ∧
    issP (w (live 1 0x10000 0x10040 2 [1])) (.loop (fc 8 0 0) false)
      (fun g => !(g.loop 0).live && g.nest.all (fun k => decide ((target g 8).toNat ≤ (g.loop k).stop.toNat)) && g.sreg 0 == 0) = true ∧
    issP (w (live 1 0x10000 0x10040 2 [1])) (.lbrk (fc 0 0 1)) (fun g => (g.loop 1).live) = true ∧
    (let g := live 1 0x10000 0x10008 2 [1] (gr w0); (g.loop 1).stop = g.pc + 8 ∧ 1 < (g.loop 1).count.toNat) ∧
    (let g := live 1 0x10000 0x10008 1 [1] (gr w0); (g.loop 1).stop = g.pc + 8 ∧ (g.loop 1).count.toNat ≤ 1) := by decide +kernel

/-- Two groups of block 0. -/
def w2 : State := { w0 with groups := Table.put w0.groups 1 { (gr w0) with grp := 1 } }

theorem test_witness_ExitEndsLanes :
    (let i : Instr := .exit (gd (fc 0 0 0) 1)
     let s := w (pm 1 1)
     issP s i (fun g => actOf g i != 0 && g.path &&& ~~~actOf g i != 0 && (s.block? g.blk).isSome && !g.supervisor &&
       (List.range 32).all (fun l => ((g.lane l).will).isNone) && (s.ownEntries 0 g).isEmpty && g.cur.isNone && g.windows.isEmpty &&
       actOf g i &&& ~~~g.occ == 0 && g.path &&& ~~~g.occ == 0)) = true ∧
    (let i : Instr := .exit (fc 0 0 0)
     issP w2 i (fun g => actOf g i != 0 && g.path &&& ~~~actOf g i == 0 && (w2.block? g.blk).isSome && !g.supervisor &&
       (List.range 32).all (fun l => ((g.lane l).will).isNone) && (w2.ownEntries 0 g).isEmpty && g.cur.isNone && g.windows.isEmpty &&
       actOf g i &&& ~~~g.occ == 0 && g.path &&& ~~~g.occ == 0 && !w2.isSolstice g.blk && !w2.inCompaction 0 g && g.due.isEmpty &&
       (bk w2).compact.isNone && (bk w2).claims.isEmpty)) = true ∧
    (∃ k x, k ≠ w2.cur ∧ w2.group? k = some x ∧ x.blk = 0 ∧ x.st ≠ .retired) :=
  ⟨by decide +kernel, by decide +kernel, ⟨1, { (gr w0) with grp := 1 }, by decide +kernel⟩⟩

def memAt (s : State) (a : Nat) (bs : List Byte) : State := { s with mem := writeBytes s.mem a bs }
/-- Lane 0's work-item names the counter at 0x4000. -/
def joining (x : W64) (g : Group) : Group := g.mapLanes 0xFFFFFFFF (fun l y => if l = 0 then { y with join := some x } else y)

theorem test_witness_JoinCounters :
    (let i : Instr := .exitJ (gd (fc 0 0 0) 1)
     [memAt (w (fun g => pm 1 1 (joining 0x4000 g))) 0x4000 [2], w (fun g => pm 1 1 (joining 0x4000 g))].map (fun s =>
      issP s i (fun g => !g.supervisor && !s.isSolstice g.blk && (s.ownEntries 0 g).isEmpty && g.cur.isNone && g.windows.isEmpty &&
        g.path &&& ~~~actOf g i != 0 && g.path &&& ~~~g.occ == 0 && lanesOf (actOf g i) == [0] && (g.lane 0).join == some 0x4000 &&
        okE (s.checkAddr (s.partOf g) 0x4000 8 .rmw) && !s.busy g 0x4000 8 true && !s.isBad 0x4000 8 && goodVector (s.hvec g)) &&
      readNat s.mem 0x4000 8 != 0)) = [true, false] ∧
    readNat w0.mem 0x4000 8 = 0 ∧
    (let s := w (ab 1 0x4000)
     [(Instr.jinit (fm 2 1 0 0 3), 8), (.gcond { fm 2 1 0 0 2 with ord := 2, scope := 3 }, 4)].all (fun x => issP s x.1 (fun g =>
      !s.isSolstice g.blk && okE (s.checkGroup (s.partOf g) (g.areg 1) (groupAddr g (fm 2 1 0 0 3)) x.2 .store) &&
      !s.busy g (groupAddr g (fm 2 1 0 0 3)) x.2 true && !s.isBadPart 0x4000 x.2))) = true ∧
    (let s := w (ab 1 0x4000); let i : Instr := .jwait { fm 0 1 0 0 3 with scope := 3 }
     [(s, 0), (memAt s 0x4000 [1], 1)].all (fun x => issP x.1 i (fun g => !x.1.isSolstice g.blk &&
      (match x.1.readCounter g.landAll (g.landAll.areg 1) 0x4000 with | .value n => n == x.2 | _ => false) && fetchesLanded g.landAll))) = true := by decide +kernel

def bars (f : Block → Block) (h : Group → Group := id) : State := (w h).updBlock 0 f
def nb (phase arrivals : Nat) (count : Option Nat) (b : Block) : Block := { b with nbs := [(3, { phase := phase, arrivals := arrivals, count := count })] }

theorem test_witness_BarriersComplete :
    issP w0 (.bara (fc 2 3 0)) (fun g => g.converged && (g.barView 3).arrived != some 0) = true ∧
    issP w0 (.bar (fc 1 3 0)) (fun g => g.converged && (g.barView 3).arrived != some 0 && !(g.barView 3).standing && g.windows.isEmpty &&
      decide (phaseCount w0 g {} 1 ≤ 1)) = true ∧
    issP w0 (.bar (fc 2 3 0)) (fun g => decide (0 + 1 < phaseCount w0 g {} 2)) = true ∧
    issP (bars (nb 1 0 none)) (.barw (fc 0 3 0)) (fun g => decide ((g.barView 3).phase < 1) && g.converged && g.windows.isEmpty) = true ∧
    issP w0 (.barw (fc 0 3 0)) (fun g => decide (0 ≤ (g.barView 3).phase) && !w0.isSolstice g.blk) = true := by decide +kernel

theorem test_witness_RegisterBudgets :
    (let s := bars (fun b => { b with pool := 28 }); issP s (.rbtake (fi 0 0 28)) (fun g => decide (g.budget + 28 ≤ 32) && decide (28 ≤ (bk s).pool) &&
      (bk s).claims.isEmpty && !s.isSolstice g.blk && g.windows.isEmpty && g.st == .active && g.sapwood && !g.inReserve &&
      decide (s.ordinaryUsed (s.coreOf g) + 28 ≤ Config.sapwoodBlocks))) = true ∧
    issP (w (fun g => { g with budget := 5 })) (.rbtake (fi 0 0 28)) (fun g => decide (32 < g.budget + 28)) = true ∧
    issP (w (fun g => { g with budget := 6 })) (.rbgive (fi 0 0 2)) (fun g => decide (2 + 4 ≤ g.budget)) = true ∧
    issP w0 (.rbgive (fi 0 0 1)) (fun g => decide (g.budget < 1 + 4) && (bk w0).claims.isEmpty) = true := by decide +kernel

/-- Group 0 of lanes 4 to 7 alone, at the join of a compaction that packed them. -/
def compacted : State :=
  bars (fun b => { b with compact := some { role := 0, pc := 0xFF00, target := 0xFFF0, join := 0x10000, budget := 4, arrived := [(0, 0xF0)], done := true,
                                            snaps := [{ gid := 0, s := [], a := [], lc := [], nest := [], fpstat := 0 }]
                                            places := (List.range 4).map (fun i => ((0, i), (0, i + 4))) } })
    (fun g => { g with occ := 0xF, path := 0xF, em := 0xF })

theorem test_witness_CompactionPacksAndRejoins :
    (let s := w (fun g => { g with occ := 0xF0, path := 0xF0, em := 0xF0 }); let i : Instr := .braC (fc 4 1 0)
     issP s i (fun g => !s.isSolstice g.blk && !g.supervisor && g.converged && g.em == g.occ && g.occ != 0 && g.windows.isEmpty &&
      (List.range 32).all (fun l => (g.lane l).pend.isEmpty) && decide (g.lanes.length ≤ 32) && g.sapwood && !g.inReserve && g.st != .retired &&
      ((s.liveGroups g.blk).filter (fun x => x.2.role == g.role)) == [(s.cur, g)] && (bk s).compact.isNone && decide ((bk s).entries + 2 ≤ 32) &&
      actOf g i == g.occ)) = true ∧
    issP compacted (.rjoin (fc 0 0 0)) (fun g => g.converged && g.em == g.occ && g.st != .retired && !g.inReserve &&
      ((compacted.liveGroups g.blk).filter (fun x => x.2.role == g.role)) == [(compacted.cur, g)] &&
      (match (bk compacted).compact with
       | some c => c.done && c.join == g.pc && c.snaps.map (·.gid) == [0] && c.joined.isEmpty && !c.places.isEmpty &&
          c.places.all (fun x => x.1.1 == 0 && x.2.1 == 0 && decide (x.2.2 < 32) && g.occ.getLsbD x.1.2) && decide ((c.places.map (·.2.2)).Nodup)
       | none => false)) = true := by decide +kernel

theorem test_witness_MisusesTrap :
    [.bar (fc 0 3 0), .bara (fc 0 3 0), .barw (fc 0 3 0)].all (fun i => issP (w (fun g => { g with path := 1, em := 1 })) i
      (fun g => !g.converged && !g.supervisor && goodVector (w0.hvec g))) = true ∧
    issP (bars (nb 0 1 (some 0)) (fun g => g.setBar 3 { arrived := some 0 })) (.bara (fc 0 3 0))
      (fun g => g.converged && (g.barView 3).arrived == some 0) = true ∧
    issP (bars (nb 0 1 (some 4))) (.bara (fc 5 3 0)) (fun g => g.converged && (g.barView 3).arrived != some 0) = true ∧
    issP (w (sr 1 0x1E0000)) (.talloc (fi 3 1 0) true) (fun g => badShape (g.sreg 1).toNat) = true ∧
    (let s := nx (.talloc (fi 3 0 0) false) w0; issP s (.talloc (fi 3 0 0) false) (fun g => !badShape 0 && (s.tile? g.blk 3).isSome)) = true ∧
    issP w0 (.tfree (fi 3 0 0)) (fun g => (w0.tile? g.blk 3).isNone) = true ∧
    (let big := shapeTile 0xFFFF
     let s := w0.updBlock 0 (fun b => { b with tiles := (List.range 8).map (fun k => (k + 8, big)) })
     issP s (.talloc (fi 3 0 0xFFFF) false) (fun g => !badShape 0xFFFF && (s.tile? g.blk 3).isNone && !big.quad &&
      decide (s.freeCore (s.coreOf g) < granulesOf big.rows big.rowBytes))) = true := by decide +kernel

theorem test_witness_AddressesAreChecked :
    (let s := w (ab 1 0x4000); okE (s.access (gr s) 0xFFFFFFFF (fm 2 1 0 0 2) 4 .load)) = true ∧
    [(0x1000000000000000, 0x044), (0x4002, 0x041), (0x80000000, 0x040)].all (fun x =>
      match w0.checkLanes 0 {} [(3, BitVec.ofNat 64 x.1)] 4 .load with | .error t => t.code == x.2 | .ok _ => false) = true ∧
    [((3 : Nat), (0x4002 : W64)), (5, 0x4001), (9, 0x80000002)].Pairwise (fun u v => u.1 < v.1) ∧
    (match w0.checkLanes 0 {} [(3, 0x4002), (5, 0x4001), (9, 0x80000000)] 4 .load with
     | .error t => t.code == 0x041 && t.mask == some 0x28 && t.eaddr == 0x4002
     | .ok _ => false) = true := by decide +kernel

/-- v3 holds 4 times the lane number, a1 is at 0x4000. -/
def lanesApart (g : Group) : Group := vl 3 (fun l => BitVec.ofNat 32 (4 * l)) tagI32 (ab 1 0x4000 g)

theorem test_witness_LoadsComplete :
    issP (w (ab 1 0x4000)) (.ld (fm 0 1 0 0 2) (.reg false 0)) (fun _ => isPrefetch (fm 0 1 0 0 2)) = true ∧
    (let s := w lanesApart
     [((Instr.ld { fm 2 1 3 0 2 with la := 3 } (.reg false 1)), Need.load), (.ld (fm 2 1 3 0 0) .pred, .load), (.ll (fm 2 1 3 0 2) 0, .rmw)].all (fun x =>
      issP s x.1 (fun g => match s.access g (actOf g x.1) (fm 2 1 3 0 2) 4 x.2 with
        | .ok xs => !s.anyBusy g xs 4 false && (s.badLanes xs 4).isNone | .error _ => false))) = true ∧
    (let s := w (ab 1 0x4000); issP s (.sld (fm 2 1 0 0 2) false) (fun g => okE (s.checkGroup (s.partOf g) (g.areg 1) (groupAddr g (fm 2 1 0 0 2)) 4 .load) &&
      !s.busy g 0x4000 4 false && !s.isBad 0x4000 4)) = true := by decide +kernel

def storing (s : State) (i : Instr) (f : FMg) (n : Nat) (need : Need) : Bool :=
  issP s i (fun g => match s.access g (actOf g i) f n need with
    | .ok xs => !s.anyBusy g xs n true && (s.badTrap xs n true).isNone && xs.all (fun x => !s.isBad x.2.2 n) | .error _ => false)
/-- The block runs in Solstice mode. -/
def solst (s : State) : State := s.updBlock 0 (fun b => { b with solstice := true, base := some s.mem })

theorem test_witness_StoresComplete :
    storing (w lanesApart) (.st (fm 2 1 3 0 2) (.reg false)) (fm 2 1 3 0 2) 4 .store = true ∧
    storing (w (ab 1 0x4000)) (.st (fm 2 1 0 0 0) .pred) (fm 2 1 0 0 0) 1 .store = true ∧
    storing (solst (w lanesApart)) (.st (fm 2 1 3 0 2) (.reg false)) (fm 2 1 3 0 2) 4 .store = true ∧
    (w lanesApart).isSolstice 0 = false ∧ (solst (w lanesApart)).isSolstice 0 = true ∧ (bk (solst (w lanesApart))).base.isSome = true := by decide +kernel

theorem test_witness_AtomicsComplete :
    storing (w lanesApart) (.atom (fm 2 1 3 0 2) .add false false) (fm 2 1 3 0 2) 4 .rmw = true ∧
    storing (w (ab 1 0x4000)) (.atom (fm 2 1 0 0 3) .exch false true) (fm 2 1 0 0 3) 8 .rmw = true ∧
    storing (w (ab 1 0x4000)) (.cas (fm 4 1 0 0 4)) (fm 4 1 0 0 4) 16 .rmw = true := by decide +kernel

theorem test_witness_StoreConditionalCompletes :
    storing (nx (.ll (fm 2 1 3 0 2) 0) (w lanesApart)) (.sc (fm 2 1 3 0 2) 1) (fm 2 1 3 0 2) 4 .rmw = true ∧
    ((gr (nx (.ll (fm 2 1 3 0 2) 0) (w lanesApart))).lane 31).resv = some (granule 0x407C) := by decide +kernel

theorem test_witness_MemoryReadsWhatWasWritten : (0x1234 : Nat) < 2^(8 * 2) ∧ Memory.wf w0.mem = true ∧ ([1] : List Byte) ≠ [] ∧
    (let s := nx (.ll (fm 2 1 3 0 2) 0) (w lanesApart); (3 : Nat) < (gr s).lanes.length ∧ s.isSolstice (gr s).blk = false ∧
      ((gr s).lane 3).resv = some 0x400 ∧ ((s.store 0x4000 [1] none).group? 0).isSome = true) ∧
    (fm 2 1 0 0 4).sz = 4 := by decide +kernel

/-! ## Witnesses: tiles, cards, nodes, the system, the step -/

/-- Quad tiles h1 and h2 of 8 rows of 64 bytes, a core tile h3 of 2 rows. -/
def tiled (f : Group → Group := id) : State :=
  (w f).updBlock 0 (fun b => { b with
    tiles := [(1, { rows := 8, rowBytes := 64, quad := true, tag := 0, e2m1 := false }), (2, { rows := 8, rowBytes := 256, quad := true, tag := 0, e2m1 := false }),
      (3, { rows := 2, rowBytes := 64, quad := false, tag := 0, e2m1 := false })]
    cbs := [(1, { init := true, phase := 1, expect := 64, landed := 0 })] })

theorem test_witness_TilesComplete :
    issP w0 (.talloc (fi 3 0 0x4001F) false) (fun g => !badShape 0x4001F && (w0.tile? g.blk 3).isNone &&
      decide (granulesOf (shapeTile 0x4001F).rows (shapeTile 0x4001F).rowBytes ≤ w0.freeCore (w0.coreOf g)) && (w0.block? g.blk).isSome) = true ∧
    issP (w (sr 1 0x10001)) (.talloc (fi 3 1 0) true) (fun g => !badShape (g.sreg 1).toNat && (shapeTile 0x10001).quad &&
      decide (granulesOf (shapeTile 0x10001).rows (shapeTile 0x10001).rowBytes ≤ w0.freeQuad (w0.quadOf g))) = true ∧
    issP tiled (.tfree (fi 3 0 0)) (fun g => (tiled.tile? g.blk 3).isSome && tiled.jobs.isEmpty) = true ∧
    (let s := tiled (vl 4 (fun l => BitVec.ofNat 32 (l % 2)) tagI32)
     let f := ft 2 3 1 4 0 15
     [Instr.tld f 2 false, .tst f 2].all (fun i => issP s i (fun g => match s.tile? g.blk 3 with
      | some t => actOf g i != 0 && t.bad.isEmpty && t.tag == tagRAW && !s.isSolstice g.blk &&
          (tilePlaces f 2 t g (actOf g i)).all (fun p => p.2.2.2 && !s.busyRow g 3 p.2.1 true)
      | none => false))) = true := by decide +kernel

/-- A card whose words are good: `i` issues, its barrier is initialised, the queue has room, the card and its follow-on pass. -/
def cardOk (s : State) (i : Instr) (cb : Option Nat) (c : Group → Except Trap Card) (k : Group → Except Trap (Option Card) := fun _ => .ok none) : Bool :=
  issP s i (fun g => (match cb with | some n => ((s.blockOf g).copyBar n).init | none => true) && !s.queueFull (s.quadOf g) && okE (c g) && okE (k g))

/-- Scalar words of a card from s8 on. -/
def words (xs : List W32) (g : Group) : Group := xs.zipIdx.foldl (fun h x => h.setS (8 + x.2) x.1) (ab 2 0x4000 g)

theorem test_witness_CardsIssue :
    (let s := tiled (words [0, 0x400, 0, 0, 0, 0])
     cardOk s (.cpy (fj 1 1 2 8) .g2t false) (some 1) (fun g => cpyCard s g (fj 1 1 2 8) .g2t) (fun g => s.followCard g (fj 1 1 2 8) 1) &&
     cardOk s (.cpy (fj 0 3 2 8) .t2g true) none (fun g => cpyCard s g (fj 0 3 2 8) .t2g) &&
     cardOk s (.cpyg (fj 1 1 2 10) 0 false) (some 1) (fun g => gatherCard s g (actOf g (.cpyg (fj 1 1 2 10) 0 false)) (fj 1 1 2 10) false 4) &&
     cardOk s (.cpys (fj 1 1 2 10) 0 false) (some 1) (fun g => gatherCard s g (actOf g (.cpys (fj 1 1 2 10) 0 false)) (fj 1 1 2 10) true 4)) = true ∧
    [Instr.cpyg (fj 1 1 2 10) 0 false, .cpys (fj 0 1 2 10) 0 true].all (fun i => issP tiled i (fun g => actOf g i != 0)) = true ∧
    [Instr.cpyg (fj 1 1 2 10) 0 false, .cpys (fj 0 1 2 10) 0 true].all (fun i => issP (w (em 0)) i (fun g => actOf g i == 0)) = true ∧
    (let s := tiled (words [3, 0x400, 0, 7, 0, 0])
     cardOk s (.cpy { fj 1 1 2 8 with follow := 3 } .t2t false) (some 1) (fun g => cpyCard s g { fj 1 1 2 8 with follow := 3 } .t2t)
      (fun g => s.followCard g { fj 1 1 2 8 with follow := 3 } 1)) = true ∧
    (let s := tiled (words [0, 1, 63]); let f := { fj 1 0 2 8 with scope := 3 }
     cardOk s (.ckmark f false) (some 1) (fun g => ckmarkCard g f)) = true ∧
    (let s := tiled (words [0x13F]); let f := { fj 1 0 0 8 with scope := 4 }
     cardOk s (.cksnap f false) (some 1) (fun g => ckCard s g f .cksnap true) &&
     cardOk s (.ckroll f false) (some 1) (fun g => ckCard s g f .ckroll false) &&
     cardOk s (.ckdrop f false true true) (some 1) (fun g => ckCard s g f (fun a b => .ckdrop a b true true) false)) = true ∧
    (let s := tiled (words [0x100]); let f := { fj 1 0 2 8 with scope := 3 }
     issP s (.glaunch f false) (fun g => let va := (g.areg 2).base + (g.sreg 8).signExtend 64
      canonical va && va.toNat % 256 == 0 && ((s.blockOf g).copyBar 1).init)) = true ∧
    (let s := tiled (words [0x10040, 0, 0])
     cardOk s (.mloadb (fj 0 1 0 8)) none (fun g => mloadbCard s g.blk 1 (cardWord g (fj 0 1 0 8) 0) (cardWord g (fj 0 1 0 8) 1) false) &&
     cardOk s (.autoLdx (fj 0 1 0 10)) none (fun g => ldxCard s g.blk 1 (cardWord g (fj 0 1 0 10) 0)) &&
     cardOk s (.autoRd (fj 1 1 0 10) false) (some 1) (fun g => rdwrCard s g.blk 1 (cardWord g (fj 1 1 0 10) 0) (cardWord g (fj 1 1 0 10) 1) false) &&
     cardOk s (.autoWr (fj 0 1 0 10)) none (fun g => rdwrCard s g.blk 1 (cardWord g (fj 0 1 0 10) 0) (cardWord g (fj 0 1 0 10) 1) true) &&
     cardOk s (.autoInf (fj 1 1 0 10) true false) (some 1) (fun g => infCard s g.blk 1 (cardWord g (fj 1 1 0 10) 0) (cardWord g (fj 1 1 0 10) 1) true) &&
     cardOk s (.autoCfg (fj 0 0 2 10)) none (fun g => cfgCard ((g.areg 2).base + (g.sreg 10).signExtend 64)) &&
     iss s (.autoSeed (fj 0 0 0 8))) = true ∧
    (let s := tiled (words [7, 0, 0]); cardOk s (.mswap (fj 0 0 0 8)) none (fun g => mswapCard (cardWord g (fj 0 0 0 8) 0) false)) = true ∧
    (let s := tiled (words [0x30002, 0x1000, 0])
     cardOk s (.autoFb1 (fj 0 0 0 8)) none (fun g => fbCard (cardWord g (fj 0 0 0 8) 0) (cardWord g (fj 0 0 0 8) 1) false) &&
     cardOk s (.autoFb2 (fj 0 0 0 8)) none (fun g => fbCard (cardWord g (fj 0 0 0 8) 0) (cardWord g (fj 0 0 0 8) 1) true)) = true ∧
    (let s := tiled (words [0x70020, 0x200000, 0]); let f := fj 1 1 0 8
     cardOk s (.mma f 1 false) (some 1) (fun g => mmaCard s g.blk 1 (cardWord g f 0) (cardWord g f 1) (cardWord g f 2) 1 false)) = true := by decide +kernel

theorem test_witness_CardsDeclareTheirRegions :
    okE (cpyGlobal tiled 0 1 0x400 0 0x4000 .g2t) = true ∧ okE (mswapCard 7 false) = true ∧ (0xFFFF : Nat) / 65536 % 65536 = 0 ∧
    okE (mmaCard tiled 0 1 0x70220 0x200000 0 1 false) = true ∧ (0x70220 : Nat).testBit 9 = true := by decide +kernel

def cbOf (c : CopyBar) : State := w0.updBlock 0 (fun b => { b with cbs := [(1, c)] })

theorem test_witness_CopyBarriers :
    issP (cbOf {}) (.cbinit (fj 1 0 0 8)) (fun g => (cbOf {}).jobs.isEmpty && g.windows.isEmpty && g.st != .waiting (.copy 1) && !(cbOf {}).isSolstice g.blk) = true ∧
    issP (cbOf { init := true }) (.cbarr (fj 1 0 0 8)) (fun _ => true) = true ∧
    issP (cbOf { init := true }) (.cbtest { fj 1 0 0 0 with vo := 2 }) (fun _ => true) = true ∧
    issP (cbOf { init := true, expect := 8, landed := 8 }) (.cbwait (fj 1 0 0 0)) (fun _ => true) = true ∧
    issP (cbOf { init := true, expect := 8, landed := 7 }) (.cbwait (fj 1 0 0 0)) (fun _ => true) = true ∧
    issP w0 (.autoFence { fj 0 0 0 0 with scope := 3 }) (fun _ => w0.jobs.isEmpty) = true ∧
    (let s := nx (.mswap (fj 0 0 0 8)) (tiled (words [7]))
     issP s (.autoFence { fj 0 0 0 0 with scope := 1 }) (fun _ => s.jobs.any (fun j => j.2.gid == s.cur && j.2.kind.lathe))) = true ∧
    [Instr.cbarr (fj 1 0 0 8), .cbwait (fj 1 0 0 0)].all (fun i => issP w0 i (fun g => !g.supervisor && goodVector (w0.hvec g) && !((bk w0).copyBar 1).init)) = true := by
  decide +kernel

def sup (g : Group) : Group := { g with supervisor := true, hset := g.occ }
/-- A pool of one page of 1 GiB, and a window of first touch above the page that is mapped. -/
def pool (s : State) : State :=
  s.updPart 0 (fun p => { p with ftwbase := 0x40000000, ftwsize := 0x40000000, poolbase := 0x40000000, poolsize := 0x40000000 })

theorem test_witness_SystemFormsComplete :
    issP (w (fun g => sr 2 0x4000 (sr 4 64 g))) (.abind (fa 1 2 4 0)) (fun g => canonical (g.spair 2) &&
      (match w0.walk (w0.partOf g) (g.spair 2) with | .page pg => pg.r | .stop .. => false)) = true ∧
    issP (w (fun g => sr 2 0x80000000 g)) (.abind (fa 1 2 4 0)) (fun g => canonical (g.spair 2) &&
      (match w0.walk (w0.partOf g) (g.spair 2) with | .page _ => false | .stop .. => true)) = true ∧
    issP w0 (.mtsr (fs 0 1 0x020) false) (fun g => sysAccess g.supervisor 0x020 != .rw) = true ∧
    [Instr.mtsr (fs 0 1 0x000) true, .mtsr (fs 0 1 0x000) false, .mtsr (fs 0 1 0x003) false, .mtsr (fs 0 1 0x040) false].all
      (fun i => issP (w sup) i (fun g => sysAccess g.supervisor 0x000 == .rw && sysAccess g.supervisor 0x040 == .rw)) = true ∧
    issP w0 (.mtsr (fs 0 1 0x010) false) (fun g => sysAccess g.supervisor 0x010 == .rw) = true ∧
    (let s := pool (w (fun g => sup (sr 4 0x40000000 g)))
     issP s (.pmap (fs 2 4 0x3A)) (fun g => (s.pmap (s.partOf g) (g.spair 4).toNat 2 0x3A).2 == 0)) = true ∧
    (let s := pool (w (fun g => sup (sr 4 0x40000008 g)))
     issP s (.pmap (fs 2 4 0x3A)) (fun g => (s.pmap (s.partOf g) (g.spair 4).toNat 2 0x3A).2 == 3)) = true ∧
    [Instr.tlbinv (fs 0 2 0) .page, .tlbinv (fs 0 0 0) .all, .tlbinv (fs 0 0 0) .areg].all
      (fun i => issP (w (fun g => sup (ab 1 0x4000 g))) i (fun g => !w0.stagedIn (w0.partOf g))) = true ∧
    (let s := w (fun g => { sup (ab 1 0x4000 g) with staged := [.write [(0x4000, 7)]] })
     issP s (.tlbinv (fs 0 0 0) .all) (fun g => s.stagedIn (s.partOf g) && s.invHit g (fs 0 0 0) .all (g.areg 1))) = true ∧
    (let s := { w (fun g => sup (ab 1 0x4000 g)) with groups := Table.put (w sup).groups 1 { ab 1 0x4000 (gr w0) with grp := 1 } }
     (s.group? 1).isSome && (match s.group? 1 with | some x => s.invHit (gr s) (fs 0 0 0) .all (x.areg 1) && !s.invHit (gr s) (fs 0 2 0) .page { base := 0x80000000 } | none => false)) = true := by
  decide +kernel

/-- In the handler of a software trap, resolved. -/
def handled (m : W32) : State := (nx (.trap (fs 0 0 0x21)) w0).updGroup 0 (fun g => { g with emaskf := m })

theorem test_witness_TrapsAndReturns :
    issP (w (em 0)) (.trap (fs 0 0 255)) (fun g => actOf g (.trap (fs 0 0 255)) == 0 && g.windows.isEmpty) = true ∧
    issP w0 (.trap (fs 0 0 255)) (fun g => actOf g (.trap (fs 0 0 255)) != 0 && !g.supervisor && goodVector (w0.hvec g)) = true ∧
    issP (handled 0) (.eret (fs 0 0 0)) (fun g => g.hseg.isEmpty && g.emaskf == 0 && g.saved.isSome && g.serving.isNone && (handled 0).jobs.isEmpty) = true ∧
    issP (handled 1) (.eret (fs 0 0 0)) (fun g => g.hseg.isEmpty && g.emaskf != 0 && ((handled 1).block? g.blk).isSome) = true := by decide +kernel

theorem test_witness_CausesAreTaken :
    (w0.group? 0).isSome = true ∧ (gr w0).supervisor = false ∧ goodVector (w0.hvec (gr w0)) = true ∧
    (gr (handled 1)).supervisor = true ∧ ({ handled 1 with dev := { (handled 1).dev with attested := true } }).dev.attested = true ∧
    goodVector (State.reset.loaded.hvec (gr State.reset.loaded)) = false ∧ (State.reset.loaded.block? (gr State.reset.loaded).blk).isSome = true := by
  decide +kernel

theorem test_witness_WordsThatDoNotRunTrap :
    assigned 0xFF80000000000000 = false ∧
    (match (memAt w0 0x10000 (bytesOfNat 8 0x2180202830001800)).fetch (gr w0) with | .ok x => x == 0x2180202830001800 | .error _ => false) = true ∧
    decode 0x2180202830001800 = .error .illegalField ∧
    (match (memAt w0 0x10000 (bytesOfNat 8 0x8102040002101800)).fetch (gr w0) with | .ok x => x == 0x8102040002101800 | .error _ => false) = true ∧
    decode 0x8102040002101800 = .error .illegalPair ∧
    canonical (gr w0).pc = true ∧ (match (memAt w0 0x3000 (bytesOfNat 8 0x1B)).walk 0 (gr w0).pc with | .page pg => !pg.x | .stop .. => false) = true ∧
    (gr w0).supervisor = false ∧ [Instr.eret (fs 0 0 0), .pmap (fs 2 4 0x3A), .tlbinv (fs 0 0 0) .all, .mfsr (fs 0 0 0) false, .mtsr (fs 0 1 0x040) true].all
      (fun i => landsAt (w0.isSolstice (gr w0).blk) i && (firstLanded (reachOf w0 (gr w0) i).due).isNone ||
        !landsAt (w0.isSolstice (gr w0).blk) i) = true := by decide +kernel

/-- A descriptor at 0x5000: entry 0x40 bytes on, budget 4, count 2, one payload word RAW, timer 8, timeout 16. -/
def desc : List Byte := bytesOfNat 8 0x40 ++ [4, 2, 0, 1, 0, 0, 0, 0] ++ bytesOfNat 4 8 ++ bytesOfNat 4 16 ++ List.replicate 40 0
/-- A node at index 5, generation 1, made by that descriptor. -/
def nd : Node := { nodeOf desc 0x5000 0 0 1 0 0 with inSlot := true }
def noded (n : Node) (f : Group → Group := id) : State := { (w f) with nodes := [(5, n)] }

theorem test_witness_NodesAndSpawn :
    (let s := memAt (w (ab 1 0x5000)) 0x5000 desc
     issP s (.nodemk (fm 2 1 0 0 0)) (fun g => okE (s.checkGroup 0 (g.areg 1) (groupAddr g (fm 2 1 0 0 0)) 64 .load) && !s.busy g 0x5000 64 false && !s.isBad 0x5000 64 &&
      descFails (readBytes (s.view g) 0x5000 64) 0x5000 == none && decide (s.nodes.length < (s.part 0).nodemax))) = true ∧
    (let s := (memAt (w (ab 1 0x5000)) 0x5000 desc).updPart 0 (fun p => { p with nodemax := 0 })
     issP s (.nodemk (fm 2 1 0 0 0)) (fun _ => decide ((s.part 0).nodemax ≤ s.nodes.length))) = true ∧
    issP (w (ab 1 0x5000)) (.nodemk (fm 2 1 0 0 0)) (fun g => descFails (readBytes (w0.view g) 0x5000 64) 0x5000 == some 8 && !g.supervisor) = true ∧
    issP w0 (.nodedel (fs 0 2 0)) (fun g => (w0.liveNode 0 (g.sreg 2)).isNone) = true ∧
    issP (noded nd (sr 2 0x5001)) (.nodedel (fs 0 2 0)) (fun g => match (noded nd).liveNode 0 (g.sreg 2) with | some n => n.remote.isEmpty | none => false) = true ∧
    issP (w (em 0)) (.spawn (fa 1 2 4 0) false false false 0 false) (fun g => actOf g (.spawn (fa 1 2 4 0) false false false 0 false) == 0) = true ∧
    issP w0 (.spawn (fa 1 2 4 0) false false false 0 false) (fun g => !okE (w0.spawnChecks g g.em (fa 1 2 4 0) false false 0 false)) = true ∧
    (let s := { noded nd (fun g => em 3 (vr 2 0x5001 0 g)) with ticks := 7 }
     issP s (.spawn (fa 1 2 4 0) false false false 0 false) (fun g => okE (s.spawnChecks g 3 (fa 1 2 4 0) false false 0 false) &&
      actOf g (.spawn (fa 1 2 4 0) false false false 0 false) == 3 && decide (s.cur < s.ticks) && !s.isSolstice g.blk)) = true ∧
    (let s := (memAt (w (em 3)) 0x6008 [1]).updBlock 0 (fun b => { b with pgt := some 0x6000 })
     issP s (.spawn (fa 1 2 4 0) false false true 0 false) (fun g => okE (s.spawnChecks g 3 (fa 1 2 4 0) false true 0 false))) = true ∧
    (noded nd).binRoom nd = true ∧ (noded nd).node? 5 = some nd ∧ nd.swapped = false ∧ nd.inSlot = true ∧
    ({ nd with swapped := true }).hasOvf = false := by decide +kernel

/-- Block 0 of launch 3, whose table of wills names tag 0x31. -/
def la : Launch :=
  { part := 0, vf := 0, stream := 0, owner := 0, launchId := 1, seq := 0, gen := 0, solstice := false, quantum := 4096, affinity := 0, nx := 4, ny := 1, nz := 1
    wsize := 32, roles := [{ entry := 0x10000, budget := 4, groups := 1 }], gang := false, k0 := 0, kx := 32, ky := 0, kz := 0, kt := 1, wills := [(0x31, 1)]
    heirs := [], argBase := 0, argSize := 0, seed := 9, spillBase := 0, spillSize := 0, compl := 0x7000, pgt := none, lo := 0, hi := 4, nextBlk := 1
    live := 1, overlap := false, willed := [(0, 0x31, 0)] }
def willing (f : Group → Group := id) : State :=
  { ((w f).updBlock 0 (fun b => { b with launch := some 3, willTags := [0x31] })) with launches := [(3, la)], ticks := 4 }

def will0 : Will := { tag := 0x31, life := 1, first := 4, count := 1 }

/-- The supervisor's and the host's orders (R38, R302, R342). -/
theorem test_orders : ((w0.obey (.ckpool 0 5)).part 0).ckpool = 5 ∧ ((w0.obey (.threshold 3 105)).core 3).threshold = 105 ∧
    ((w0.obey (.threshold 3 106)).core 3).threshold = (w0.core 3).threshold := by decide +kernel
theorem test_host_node : let s := (memAt w0 0x5000 desc).updVf 5 (fun v => { v with bind := 0 })
    (s.obey (.hostNode 5 0x5000)).nodes.map (fun n => (n.2.budget, n.2.count, n.2.entry)) = [(4, 2, 0x5040)] ∧ (s.obey (.hostNode 6 0x5000)).nodes = [] := by
  decide +kernel

theorem test_witness_WillsAreDeclared :
    issP (w (em 0)) (.estw (fs 0x1F 4 0x31) 0) (fun g => actOf g (.estw (fs 0x1F 4 0x31) 0) == 0) = true ∧
    issP willing (.estw (fs 0x1F 4 0x31) 0) (fun g => (willing.blockOf g).willTags.contains 0x31) = true ∧
    issP willing (.estw (fs 0x1F 4 0x32) 0) (fun g => actOf g (.estw (fs 0x1F 4 0x32) 0) != 0 && !(willing.blockOf g).willTags.contains 0x32) = true ∧
    iss w0 (.estf (fs 0 0 0)) = true ∧
    (let s := willing (fun g => pm 1 1 (g.mapLanes 1 (fun _ x => { x with will := some will0 })))
     issP s (.exit (gd (fc 0 0 0) 1)) (fun g => s.launch? 3 == some la && !(bk s).solstice && g.windows.isEmpty &&
      lanesOf (actOf g (.exit (gd (fc 0 0 0) 1))) == [(0 : Nat)] && (g.lane 0).will == some will0 &&
      (g.lane 0).pend.isEmpty && (g.lane 0).badRegs.isEmpty && la.willed.contains (0, 0x31, (g.lane 0).wid) && !g.supervisor && goodVector (s.hvec g))) = true := by
  decide +kernel

/-- The word at the PC of group 0 stands in a page with X, is whole, and decodes to `i`. -/
def fetches (u : State) (i : Instr) : Bool :=
  match u.walk (u.partOf (gr u)) (gr u).pc with
  | .page pg => pg.x && !u.isBad (pg.at (gr u).pc) 8 && (match decode (BitVec.ofNat 64 (readNat u.mem (pg.at (gr u).pc) 8)) with
    | .ok j => j == i
    | .error _ => false)
  | .stop .. => false

theorem test_witness_StepRunsDecoded :
    (let s := memAt w0 0x10000 (bytesOfNat 8 0x2180202830000000)
     let u := s.settleGroup 0
     s.agenda = [] ∧ (gr s).st = .active ∧ s.partRuns (gr s) = true ∧ (gr s).yielded = false ∧ s.quantumUsed (gr s) = false ∧ (gr u).st = .active ∧
     (gr u).due = [] ∧ (gr u).fair < Config.fairness ∧ canonical (gr u).pc = true ∧
     fetches u (.iadd (.a (fa 4 5 6 0)) .s32 false) = true) := by
  decide +kernel

/-- A path is deferred and 256 instructions have passed, while a window is open: the word still issues (R98, R172). -/
theorem test_witness_StepRunsDecoded_switch_due :
    (let s := memAt (under (ent .br 0xFFFFFFFE) 1 (fun g => { g with fair := 256, windows := [{ pc := 0xFFF8, path := 1, left := 3, lands := [] }] })) 0x10000
       (bytesOfNat 8 0x2180202830000000)
     let u := s.settleGroup 0
     s.agenda = [] ∧ (gr s).st = .active ∧ s.partRuns (gr s) = true ∧ (gr s).yielded = false ∧ s.quantumUsed (gr s) = false ∧ (gr u).st = .active ∧
     (gr u).due = [] ∧ ¬ (gr u).fair < Config.fairness ∧ (gr u).windows ≠ [] ∧ u.deferredPaths u.cur (gr u) ≠ [] ∧ canonical (gr u).pc = true ∧
     fetches u (.iadd (.a (fa 4 5 6 0)) .s32 false) = true) := by
  decide +kernel

/-- What the agenda lists first. -/
def listed (t : Turn) (s : State := w0) : State := { s with agenda := [t, .group 0] }
theorem test_witness_StepRunsDecoded_agenda :
    [Turn.event .scrubPass, .group 0, .upset (.memory 0x4000 true), .lost (.estate 2), .order (.threshold 3 80)].all (fun t => (listed t).agenda == [t, .group 0]) = true := by
  decide +kernel

theorem test_witness_DecodeEncode : Instr.wf (.iadd (.a (fa 4 5 6 0)) .s32 false) = true ∧ Instr.isEvent (.iadd (.a (fa 4 5 6 0)) .s32 false) = false ∧
    Instr.pairs (.dualWord true (.r .iadd .m0 1 2 0) (.r .and .m0 4 7 0)) = true ∧ Instr.wf (.unassignedEncoding 0xFF80000000000000) = true ∧
    decode (encode (.spawn (fa 2 4 8 12) false true false 3 true)) = .ok (.spawn (fa 2 4 8 12) false true false 3 true) := by decide +kernel

theorem test_witness_StepKeepsMemoryCanonical :
    Memory.wf w0.mem = true ∧ (match step w0 with | .next t => Memory.wf t.mem | _ => false) = true := by decide +kernel

/-! ## Witnesses: what happens between instructions -/

/-- A window of register v2 of lane 0, closing. -/
def win (left : Nat) : Window := { pc := 0xFFF8, path := 0xFFFFFFFF, left := left, lands := [.vec 0 2 ⟨7, 1⟩, .pred 0 1 true] }
def due1 : Due := { kind := .job, code := 0x050 }
def due0 : Due := { kind := .watchdog, code := 0x141 }
def dueL : Due := { kind := .landed, code := 0x280 }

theorem test_witness_TimersAndLandings :
    (w0.group? 0).isSome = true ∧
    (gr (w (fun g => { g with windows := [win 0, win 1] }))).windows.filter (fun x => x.left == 0) = [win 0] ∧ (win 0).bad = none ∧
    (let s := w (fun g => { g with due := [due1, due0] })
     s.partRuns (gr s) = true ∧ (gr s).canTake = true ∧ (gr s).st = .active ∧ firstDue (gr s).due = some (due0, [due1]) ∧
     goodVector (s.hvec (gr s)) = true ∧ (gr s).windows = []) ∧
    (gr (w sup)).canTake = false ∧
    (let s := w (fun g => { sup g with due := [due0] }); (gr s).supervisor = true ∧ (gr s).due.all (fun d => d.kind != .landed) = true) ∧
    (let s : State := { w (fun g => { sup g with due := [due0, dueL, due1] }) with dev := { w0.dev with attested := true } }
     s.partRuns (gr s) = true ∧ (gr s).supervisor = true ∧ (gr s).st = .active ∧ firstLanded (gr s).due = some (dueL, [due0, due1]) ∧ s.dev.attested = true) ∧
    (solst w0).isSolstice 0 = true ∧
    (let s := bars (fun b => { b with bwdog := 5 })
     (bk s).bwdog ≠ 0 ∧ (bk s).solstice = false ∧ (bk s).gone = false ∧ (bk s).detached = none ∧ s.dev.life ≠ .cold ∧ (s.part (bk s).part).st = .running) ∧
    (bk w0).bwdog = 0 ∧
    (let s := under (ent .br 1) 0xFFFFFFFE (fun g => { g with fair := 256 })
     (gr s).st = .active ∧ s.partRuns (gr s) = true ∧ Config.fairness ≤ (gr s).fair ∧ (gr s).windows = [] ∧ (gr s).supervisor = false ∧
     s.ownEntries 0 (gr s) = [ent .br 1] ∧ (gr s).cur = some (ent .br 1).id ∧ (ent .br 1).defl ≠ 0 ∧ (ent .br 1).defl &&& ~~~(ent .br 1).full = 0 ∧
     (ent .br 1).dpc ≠ (ent .br 1).rpc ∧ (gr s).path ≠ 0) ∧
    (gr w0).fair < Config.fairness := by decide +kernel

/-- v3 of lane 0 is pending. -/
def pending (g : Group) : Group := g.mapLanes 1 (fun _ x => { x with pend := [{ reg := 3, val := ⟨9, 1⟩ }] })

/-- Three groups of a core, by birth: group 1 has the state that `f` gives it, group 2 fills the Sapwood with group 0. -/
def crowd (f h : Group → Group) (n : Nat) : State :=
  let x : Group := { (gr w0) with grp := 1, age := 1 }
  { w (fun g => { g with budget := 8 }) with
    groups := [(0, { (gr w0) with budget := 8 }), (1, f x), (2, h { x with grp := 2, age := 2, budget := n })], ticks := 9 }
def out (g : Group) : Group := { g with st := .parked, sapwood := false, budget := 32 }
def at1 (s : State) (P : Group → Bool) : Bool := match s.group? 1 with | some g => P g && s.rankOf 1 g == 4 | none => false
/-- Group 1 wants to go in, and it is its turn. -/
def inTurn (s : State) (P : Group → Bool) : Bool :=
  at1 s (fun g => s.partRuns g && g.wantsIn && g.movable && (s.onCore (s.coreOf g)).all (fun x => !s.goesFirst 1 g x) && P g)

theorem test_witness_ContextsMove :
    (let s := crowd out id 4; inTurn s (fun g => s.seatFor (s.coreOf g) g.budget false == some (0, false))) = true ∧
    [false, true].all (fun b =>
      let s := crowd out (fun g => if b then { g with windows := [win 1] } else g) 240
      inTurn s (fun g => (s.seatFor (s.coreOf g) g.budget false).isNone && (match s.victim (s.coreOf g) 1 4 with
        | some (k, x) => k == 2 && x.movable == !b && !s.isSolstice x.blk &&
            (b || ((s.moveOut k x).seatFor ((s.moveOut k x).coreOf g) g.budget false).isSome)
        | none => false))) = true ∧
    (let s := crowd out (fun g => { g with st := .retired }) 240
     let t := s.updGroup 0 (fun g => { g with budget := 240 }); inTurn t (fun g => (t.seatFor 0 g.budget false).isNone && (t.victim 0 1 4).isNone)) = true ∧
    (let s := crowd (fun g => { out g with windows := [win 1] }) id 4; at1 s (fun g => g.wantsIn && !g.movable)) = true ∧
    (let s := crowd (fun g => { out g with age := 3 }) out 4; at1 s (fun g => g.wantsIn && (s.onCore (s.coreOf g)).any (s.goesFirst 1 g))) = true ∧
    (w0.partRuns (gr w0) = true ∧ (gr w0).wantsIn = false ∧ (gr w0).inSapwood = true ∧ w0.rankOf 0 (gr w0) < 4) ∧
    [false, true].all (fun b =>
      let s := crowd (fun g => if b then { g with windows := [win 1] } else g) id 4
      at1 s (fun g => s.partRuns g && !g.wantsIn && g.inSapwood && g.movable == !b && !s.isSolstice g.blk)) = true ∧
    (let s := crowd out id 240; s.seatFor 0 4 true = some (4, false) ∧ (s.victim 0 1 1).map (·.1) = some 2 ∧ (s.victim 0 1 4).map (·.1) = some 2 ∧
      s.ordinaryUsed 0 ≤ 248) ∧
    (gr w0).st = .active ∧ w0.estates = [] ∧
    ((gr (w pending)).lane 0).pend.find? (fun p => p.reg == 3) = some { reg := 3, val := ⟨9, 1⟩ } ∧ (bk w0).compact = none ∧
    ([0, 1].all (fun n =>
      let s := memAt (w (fun g => { g with st := .waiting (.jwait 0x4000 1) })) 0x4000 [BitVec.ofNat 8 n]
      s.partRuns (gr s) && !s.isSolstice (gr s).blk && (match s.readCounter (gr s) ((gr s).areg 1) 0x4000 with | .value m => m == n | _ => false))) = true := by decide +kernel

/-- A record for node 5 with one payload word. -/
def rec5 : Rec := { handle := 0x5001, payload := [(7, 0), (0, 0), (0, 0), (0, 0)], ordered := false, key := 0, join := none, origin := 0, quantum := none, rank := 0,
                    fab := true, nth := 0 }
def held (k : W32) : Held := { r := rec5, serial := k }
/-- A SPAWN.b of every lane at the PC of group 0, which waits; the bin of node 5 is full. -/
def spawnWaits : State :=
  memAt (noded { nd with bin := List.replicate Config.binRecords (held 0) } (fun g => { vr 2 0x5001 0 g with st := .waiting (.spawn []) })) 0x10000
    (bytesOfNat 8 (encode (.spawn (fa 0 2 4 0) true false false 0 false)).toNat)

theorem test_witness_NodeEvents :
    (let n := { nd with bin := [held 0], accepted := 1, timerOn := true }; let s := noded n
     s.node? 5 = some n ∧ s.chuckRuns n.part = true ∧ n.timerOn = true ∧ n.remote = [] ∧ n.bin.all (fun h => h.batch.isNone) = true ∧ n.chosen ≠ [] ∧
     n.bin.all n.chosen.contains = true ∧ (s.nodeCore n).isSome = true ∧ s.estates = []) ∧
    (let n := { nd with segments := [(true, [held 0])], accepted := 1, timer := 8 }; let s := noded n
     s.node? 5 = some n ∧ s.chuckRuns n.part = true ∧ n.inSlot = true ∧ n.bin.length < 128 ∧ s.chuckHeld n.homeQuad + 1 ≤ Config.chuckRecords ∧
     (held 0).batch = none ∧ (held 0).place = none ∧ n.timer ≠ 0 ∧ n.owed = false ∧ n.bin.length + 1 < n.count ∧ n.remote = []) ∧
    (let n := { nd with swapped := true, inSlot := false }; let s := noded n
     s.node? 5 = some n ∧ s.chuckRuns n.part = true ∧ n.swapped = true ∧ n.remote = [] ∧ (s.slotted n.homeQuad).length < Config.nodeSlots) ∧
    State.reset.dev.life ≠ .full ∧
    (let n := { nd with bin := List.replicate Config.binRecords (held 0) }
     [n, { n with timeout := 0 }].all (fun n => let s := noded n
      decide (s.dev.life = .full) && nodeIndex rec5.handle == 5 && s.node? 5 == some n && (s.remoteFails 0 rec5).isNone && n.inSlot && !s.binRoom n &&
        !n.hasOvf) = true ∧ n.timeout ≠ 0) ∧
    (let s := w0.updPart 0 (fun p => { p with drbase := 0x9000, drsize := 0x40 })
     s.dev.life = .full ∧ s.remoteFails 0 rec5 = some 0x181 ∧ (s.part 0).drnext.toNat + 64 ≤ (s.part 0).drsize.toNat ∧
     sysAddr s.dev 0 (((s.part 0).drbase + (s.part 0).drnext).toNat % 2^52) = some 0x9000) ∧
    (w0.remoteFails 0 rec5 = some 0x181 ∧ (w0.part 0).drsize.toNat < (w0.part 0).drnext.toNat + 64) ∧
    (let s := noded nd
     s.dev.life = .full ∧ nodeIndex rec5.handle = 5 ∧ s.remoteFails 0 rec5 = none ∧ (s.part 0).st = .running ∧ nd.inSlot = true ∧ nd.swapped = false ∧ s.binRoom nd = true ∧
     nd.timer ≠ 0 ∧ nd.owed = false ∧ nd.bin = [] ∧ nd.bin.length + 1 < nd.count) ∧
    (let n := { nd with bin := List.replicate Config.binRecords (held 0), remote := [rec5] }; let s := noded n
     s.node? 5 = some n ∧ ((s.admitAll 5).node? 5).map (fun m => decide (n.remote.length ≤ m.remote.length)) = some true) ∧
    ((gr spawnWaits).st = .waiting (.spawn []) ∧ spawnWaits.isSolstice (gr spawnWaits).blk = false ∧ (spawnWaits.lacking (spawnWaits.spawnAt (gr spawnWaits))).1 ≠ 0 ∧
     spawnWaits.partRuns (gr spawnWaits) = true ∧ (gr spawnWaits).sapwood = true ∧ (gr spawnWaits).supervisor = false ∧
     goodVector (spawnWaits.hvec (gr spawnWaits)) = true) := by decide +kernel

def jb (k : JobKind) (st : JobState) (total : Nat := 0) : Job :=
  { kind := k, part := 0, quad := 0, gid := 0, blk := 0, pc := 0x10000, stg := none, scope := 0, credit := none, reads := [], writes := [], st := st
    total := total }
def jobbed (j : Job) (s : State := tiled) : State := { s with jobs := [(7, j)], ticks := 8 }
/-- A copy of rows 0 and 1 of tile h1 between it and memory at `a`. -/
def cp (m : CpyMode) (a : Nat) : JobKind := .cpy m 1 0 0 2 0 a 64 64
def mm : JobKind := .mma 1 2 7 0 0 8 0 false false false 1 0 0 0 0 1
def lands1 (x : Landed) : Nat := match x with | .ok .. => 0 | .bad _ => 1 | .fault .. => 2 | .reason _ => 3
def meets (s : State) (P : Job → Bool) : Bool := match s.job? 7 with | some j => s.jobsRun j && P j | none => false

theorem test_witness_JobEvents :
    meets (jobbed (jb (cp .g2t 0x4000) .running)) (fun j => !(jobbed (jb (cp .g2t 0x4000) .running)).ready j) = true ∧
    (let s := jobbed (jb (cp .g2t 0x4000) .queued); meets s (fun j => s.ready j && s.oldestReady j && (s.startReason j).isNone && j.kind.engine != 4)) = true ∧
    (let s := jobbed (jb mm .queued); meets s (fun j => s.ready j && s.oldestReady j && (s.startReason j).isSome)) = true ∧
    (let s := jobbed (jb (.cksnap 3 0) .queued)
     meets s (fun j => s.ready j && s.oldestReady j && (s.startReason j).isNone && !okE (s.ckStart j) && s.jobs.all (fun k => k.2.st != .parked none) &&
      (gr s).blk == j.blk && (gr s).st != .retired)) = true ∧
    (let s := jobbed (jb (.ckmark 0x4000 1 3) .queued)
     meets s (fun j => s.ready j && s.oldestReady j && (s.startReason j).isNone && !j.kind.mma? && okE (s.ckStart j))) = true ∧
    (let s := memAt (jobbed (jb (.autoCfg 0x4000) .running 1)) 0x4000 (List.replicate 64 0xFF)
     meets s (fun j => decide (j.off < j.total) && lands1 (landUnit s 7 j) == 3)) = true ∧
    (let s := { jobbed (jb (cp .g2t 0x4000) .running 0) with
      jobs := [(7, jb (cp .g2t 0x4000) .running 0), (8, { jb (.mswap 0) .following with after := some 7 })], ticks := 9 }
     meets s (fun j => j.finished && s.followOf 7 == some 8 && (s.job? 8).isSome && (s.group? j.gid).isSome)) = true ∧
    [(7, false), (6, true)].all (fun x =>
      let s := { (jobbed (jb mm .running 1)).updQuad 0 (fun q => { q with table := [x.1, 7] }) with jobs := [(6, jb mm .running 1), (7, jb mm .running 1)] }
      meets s (fun j => s.outranked j.quad 7 j.kind.pri == x.2)) = true ∧
    [(0x4000, 0), (0x80000000, 2)].all (fun x => let s := jobbed (jb (cp .g2t x.1) .running 16)
     meets s (fun j => j.st == .running && !j.kind.mma? && decide (j.off < j.total) && lands1 (landUnit s 7 j) == x.2 &&
      !(s.quad j.quad).freeEntries.isEmpty)) = true ∧
    (let s := { jobbed (jb (cp .g2t 0x4000) .running 16) with badCw := [(0x400, false)] }; meets s (fun j => lands1 (landUnit s 7 j) == 1)) = true ∧
    (let s := jobbed (jb (cp .t2g 0x4000) .running 16)
     meets s (fun j => !s.isSolstice j.blk && s.badCw.isEmpty && okE (s.jobAddr j 0x4000 .store) &&
      (match s.tile? 0 1 with | some t => !t.isBad 0 8 | none => false))) = true ∧
    (let s := jobbed (jb (cp .g2t 0x4000) .running 0); meets s (fun j => j.finished && s.jobs.all (fun k => k.2.st != .parked none))) = true ∧
    (let s := (jobbed (jb mm .running 1)).updQuad 0 (fun q => { q with table := [7] })
     meets s (fun j => j.kind.mma? && decide (j.off < j.total) && (s.quad j.quad).table.contains 7 && (s.latheBad j 0).isNone &&
      !s.outranked j.quad 7 j.kind.pri && (match s.tile? j.blk 2 with | some t => decide (256 * (0 + 1) ≤ t.rowBytes) | none => false) &&
      (s.block? j.blk).isSome && (match s.block? 0 with | some b => (Table.get? b.cbs 1).isSome | none => false))) = true ∧
    (let s := (jobbed (jb mm .running 1)).updQuad 0 (fun q => { q with table := [7], lathe := { q.lathe with active := { q.lathe.active with bad := [0] } } })
     meets s (fun j => (s.latheBad j 0).isSome)) = true ∧
    meets (jobbed (jb (.coll .allreduce .addF32 0 4 0x4000 0x4000) .running)) (fun j => j.st == .running && j.result.isNone) = true := by decide +kernel

/-- A packet at 0x8000 with its kernel at 0x9000 (R335, R81), at the head of stream 0 of VF 0. -/
def pkt (kind flags : Nat) : List Byte :=
  [BitVec.ofNat 8 kind, BitVec.ofNat 8 flags, 0, 0, 0, 0, 0, 0] ++ bytesOfNat 8 0x9000 ++ bytesOfNat 4 2 ++ [1, 0, 1, 0, 32, 0, 0, 0] ++ bytesOfNat 4 0 ++
    List.replicate 8 0 ++ bytesOfNat 8 9 ++ List.replicate 16 0 ++ bytesOfNat 8 0x7000 ++ List.replicate 56 0
def marker : List Byte := [3, 0] ++ List.replicate 62 0 ++ bytesOfNat 8 0x7000 ++ List.replicate 56 0
def kdesc : List Byte := bytesOfNat 4 0x4C57465A ++ [1, 0, 0, 1] ++ bytesOfNat 8 0x7000 ++ [4] ++ List.replicate 239 0
/-- A graph of two nodes: a kernel at 0x8000 and the end; its completion word at 0x7100. -/
def graph (k : List Byte) : List Byte :=
  bytesOfNat 4 0x48505347 ++ [1, 0, 2, 0, 0, 0, 0, 0, 0, 0, 0, 0] ++ bytesOfNat 8 0x7100 ++ List.replicate 40 0 ++ k ++ [4] ++ List.replicate 31 0
def kernelNode : List Byte := [1, 0, 0, 0, 1, 0, 0, 0] ++ List.replicate 8 0 ++ bytesOfNat 8 0x8000 ++ List.replicate 8 0
/-- A conditional or while node whose word is at 0x7200: node 1 on 1, node 0 on 0. -/
def condNode (kind maxit : Nat) : List Byte :=
  [BitVec.ofNat 8 kind, 0, 0, 0, 1, 0, 0, 0] ++ bytesOfNat 4 0 ++ bytesOfNat 4 maxit ++ bytesOfNat 8 0x7200 ++ List.replicate 8 0
def hosted (p : List Byte) (d : List Byte := kdesc) : State :=
  { memAt (memAt w0 0x8000 p) 0x9000 d with
    vfs := [(0, { bind := 0, streams := [(0, { base := 0x8000, size := 4, tail := 1 })] })], ticks := 4 }
def headIs (s : State) (P : List Byte → Bool) : Bool := match s.headPacket 0 0 with | some (0, bs) => P bs | _ => false
/-- A launch that waits at its start barrier. -/
def atStart : State := { hosted (pkt 1 0) with launches := [(3, { la with started := false, nmod := 2, arrivals := [0], gen := 5 })] }

/-- A graph that waits at its start barrier. -/
def graphAtStart : State :=
  { hosted (pkt 2 0) with walkers := [(2, { part := 0, vf := 0, stream := 0, owner := 0, desc := 0x9000, node := 0, record := some 0x7000, nmod := 2
                                            gen := 5, arrivals := [0], started := false })] }

theorem test_witness_StreamsRunPackets :
    (State.reset.loaded.vf 0).tdisp = .unlocked ∧ State.reset.loaded.dev.life ≠ .cold ∧
    ((State.reset.loaded.updVf 5 (fun v => { v with tdisp := .run })).vf 5).tdisp ≠ .unlocked ∧
    (let s := hosted (pkt 1 0x80); headIs s (fun bs => s.checkPacket 0 0 0 bs == .refuse 1 1 && s.predecessorDone 0 0)) = true ∧
    (let s := { (hosted (pkt 1 0)).updStream 0 0 (fun r => { r with last := some 3 }) with launches := [(3, la)] }
     headIs s (fun bs => pktKind bs == 1 && !pktOverlap bs && !s.predecessorDone 0 0)) = true ∧
    (let s := hosted (pkt 1 0)
     headIs s (fun bs => pktKind bs == 1 && s.predecessorDone 0 0 && s.checkPacket 0 0 0 bs == .pass && !pktRepl bs && !pktShard bs &&
      decide (0 < descField bs 0x10 4 * descField bs 0x14 2 * descField bs 0x16 2))) = true ∧
    (let s := memAt (hosted (pkt 2 0) (graph (condNode 2 0))) 0x7200 [1]; headIs s (fun bs => pktKind bs == 2 && s.checkPacket 0 0 0 bs == .pass)) = true ∧
    (let s := hosted marker; headIs s (fun bs => pktKind bs == 3 && s.checkPacket 0 0 0 bs == .pass && s.launches.isEmpty)) = true ∧
    (let s := hosted (pkt 2 12); headIs s (fun bs => pktKind bs == 2 && pktRepl bs)) = true ∧
    (let s := graphAtStart; (s.launch? 2).isNone && (match s.walker? 2 with
      | some r => !r.started && s.partActive r.part && decide (s.dev.life = .full) && decide (1 < r.nmod) && decide (1 ∉ r.arrivals) && r.record.isSome
      | none => false)) = true ∧
    (match atStart.launch? 3 with
     | some r => !r.started && !r.finished && atStart.partActive r.part && decide (1 < r.nmod) && decide (1 ∉ r.arrivals) &&
        decide (r.nextBlk < r.hi) && r.gen == 5
     | none => false) = true := by decide +kernel

/-- A graph that a walker runs on stream 0 of VF 192, at its node 0. -/
def walking (node : List Byte) (c : Nat) (counts : List (Nat × Nat) := []) (at' : Nat := 0) : State :=
  let s := memAt (memAt (memAt (memAt w0 0x9000 (graph node)) 0x8000 (pkt 1 0)) 0xA000 kdesc) 0x7200 (bytesOfNat 4 c)
  { memAt s 0x8008 (bytesOfNat 8 0xA000) with
    walkers := [(2, { part := 0, vf := 192, stream := 0, owner := 0, desc := 0x9000, node := at', counts := counts, record := none })], ticks := 4
    vfs := [(192, { streams := [(0, { walker := some 2 })] })] }
def walks (s : State) (kind : Nat) (P : Walker → List Byte → Bool) : Bool := match s.walkerAt 2 kind with | some (r, nd) => P r nd | none => false
/-- Launch 3, about to place its first block, on a machine without another. -/
def placing : State := { w0 with groups := [], blocks := [], launches := [(3, { la with nextBlk := 0, live := 0, willed := [] })], ticks := 4 }

theorem test_witness_PlacementAndGraphs :
    (match placing.launch? 3 with
     | some r => r.started && !r.finished && placing.partActive r.part && placing.estates.isEmpty && r.held.isEmpty && decide (r.nextBlk < r.hi) &&
        (match placing.chosenCore r [] with | some c => (partCores placing.dev r.part).contains c | none => false) && r.groups.length == 1
     | none => false) = true ∧
    ({ la with held := [(2, 0, false), (3, 1, false)] }).held = [(2, 0, false), (3, 1, false)] ∧ (placing.launch? 3).isSome = true ∧
    (let s := jobbed (jb (.glaunch 0x9000) .running) (memAt w0 0x9000 (graph (condNode 2 0)))
     meets s (fun j => (match s.checkGraph (s.jobView j) j.part 0x9000 with | .good _ => true | _ => false) && !s.graphAhead j && (s.freeGraphStream (dieOf j.quad)).isSome &&
      s.jobs.all (fun k => k.2.st != .parked none))) = true ∧
    (let s := jobbed (jb (.glaunch 0x9000) .running); meets s (fun j => match s.checkGraph (s.jobView j) j.part 0x9000 with | .invalid o => o == 0 | _ => false)) = true ∧
    walks (walking kernelNode 0) 1 (fun r nd => (walking kernelNode 0).predecessorDone r.vf r.stream &&
      (match (walking kernelNode 0).virtBytes r.part 2 (pktAddr nd 0x10) 128 with
       | some bs => (walking kernelNode 0).checkNodePacket r bs == .pass && !pktShard bs &&
          decide (0 < descField bs 0x10 4 * descField bs 0x14 2 * descField bs 0x16 2)
       | none => false)) = true ∧
    (let s := memAt (walking kernelNode 0) 0x8000 [2]
     walks s 1 (fun r nd => match s.virtBytes r.part 2 (pktAddr nd 0x10) 128 with | some bs => s.checkNodePacket r bs == .refuse 1 0 | none => false)) = true ∧
    [0, 1].all (fun c => walks (walking (condNode 2 0) c) 2 (fun r nd => (walking (condNode 2 0) c).graphIdle r &&
      (walking (condNode 2 0) c).condition r nd == some c)) = true ∧
    [(0, 3), (1, 3), (1, 1)].all (fun x => walks (walking (condNode 3 x.2) x.1) 3 (fun r nd => (walking (condNode 3 x.2) x.1).graphIdle r &&
      (walking (condNode 3 x.2) x.1).condition r nd == some x.1 && (Sparse.get 0 r.counts r.node + 1 == descField nd 0xC 4) == (x.2 == 1))) = true ∧
    (match graphAtStart.walker? 2 with | some r => !r.started | none => false) = true ∧
    (let s := w0.updBlock 0 (fun b => { b with commits := [{ quantum := 1, ops := [], released := false }] })
     s.graphWaits { part := 0, vf := 192, stream := 0, owner := 0, desc := 0x9000, node := 0, record := none, after := some (0, 1) }) = true ∧
    walks (walking kernelNode 0 [] 1) 4 (fun r _ => (walking kernelNode 0 [] 1).graphIdle r && r.record.isNone) = true ∧
    (let s : State := { walking kernelNode 0 [] 1 with launches := [(3, la)], walkers := [(2, { part := 0, vf := 192, stream := 0, owner := 0, desc := 0x9000, node := 1, launches := [3], record := none })] }
     walks s 4 (fun r _ => !s.graphIdle r)) = true := by decide +kernel

theorem test_witness_MarksAndClocks :
    (w0.core 3).threshold ≤ 95 ∧ 94 < (w0.core 3).threshold ∧
    (w0.core 3).temp + 6 ≤ (w0.core 3).threshold ∧ ((w0.updCore 3 (fun c => { c with temp := 90 })).core 3).threshold < 90 + 6 ∧
    [Order.threshold 3 70, .threshold 3 106, .sensor 3 99].all (fun o => (listed (.order o)).agenda == [.order o, .group 0]) = true ∧
    (let s := { w0 with cores := (List.range 40).map (fun c => (c, { hot := true })) }; (partCores s.dev 0).all (fun c => (s.core c).hot) = true) ∧
    (0 ∈ partCores w0.dev 0 ∧ (w0.core 0).hot = false ∧ (w0.quad (quadOf 0)).droopy = false) ∧ (w0.chosenCore la []).isSome = true ∧
    ((w0.part 0).override = false ∧ ((w0.updQuad 0 (fun q => { q with droopy := true })).quad (quadOf 0)).droopy = true) ∧
    (5 < 160 ∧ 1000 < Sparse.get 1500 w0.dev.clocks 5) ∧ Sparse.get 1500 w0.dev.clocks 5 ≤ 1500 := by decide +kernel

/-- A PCMD value for partition 0 with an operation, a core and a slot. -/
def pcmd (op core slot : Nat) : W64 := BitVec.ofNat 64 (op + 2^16 * core + 2^25 * slot)
def parted (f : Part → Part) (s : State := w0) : State := s.updPart 0 f
/-- Partition 1 borrows from partition 0. -/
def two : State := { w0.updPart 1 id with dev := { w0.dev with pown := (List.range 8).map (fun q => (q, 0)) ++ [(8, 1), (9, 1)] } }

theorem test_witness_PreemptionSavesAndResumes :
    (w0.partActive 0 = true ∧ (Table.get? w0.parts 0).isSome = true) ∧
    (let s := parted (fun p => { p with st := .quiescing })
     (s.part 0).st = .quiescing ∧ s.noFetches (fun g => s.ofPart 0 g.blk) = true ∧ s.jobs = [] ∧ s.ofPart 0 (gr s).blk = true) ∧
    (let s := w (fun g => { g with st := .halted })
     pcmdOp (pcmd 1 0 0) = 1 ∧ s.dev.life ≠ .cold ∧ s.pcmdGroup (pcmd 1 0 0) = some (0, gr s) ∧ pcmdClean (pcmd 1 0 0) = true ∧ (gr s).st = .halted) ∧
    (w0.pcmdGroup (pcmd 1 3 0) = none) ∧
    (pcmdOp (pcmd 2 0 0) = 2 ∧ w0.pcmdGroup (pcmd 2 0 0) = some (0, gr w0) ∧ (w0.block? (gr w0).blk).isSome = true) ∧
    (pcmdOp 3 = 3 ∧ pcmdBare 3 = true ∧ w0.partActive (pcmdPart 3) = true ∧ pcmdBare (pcmd 3 1 0) = false) ∧
    (let s := parted (fun p => { p with st := .saved, savedQuads := w0.quadStates (partQuads w0.dev 0) })
     pcmdOp 4 = 4 ∧ pcmdBare 4 = true ∧ (s.part (pcmdPart 4)).st = .saved ∧ (s.part (pcmdPart 4)).savedQuads.length = (partQuads s.dev (pcmdPart 4)).length) ∧
    (w0.part (pcmdPart 4)).st = .running ∧
    (let s := parted (fun p => { p with slices := [{ id := 1, quads := [] }] }) (bars (fun b => { b with detached := some 1 }))
     pcmdOp 5 = 5 ∧ pcmdClean 5 = true ∧ pcmdCore 5 = 0 ∧ pcmdSlot 5 = 0 ∧
     s.blocks.any (fun x => x.2.part == pcmdPart 5 && (s.part 0).slices.any (fun sl => x.2.detached == some sl.id) && !x.2.gone && pcmdLaunch 5 == 0) = true) ∧
    (let n := 0 + 2^8 * 1 + 2^16 * 2 + 2^24 * 100
     n % 256 = 0 ∧ n / 2^8 % 256 = 1 ∧ n / 2^16 % 256 = 2 ∧ n / 2^24 % 65536 = 100 ∧ two.dev.life = .full ∧ (Table.get? two.parts 0).isSome = true ∧
     (Table.get? two.parts 1).isSome = true ∧ 2 ≤ (lendable two.dev 0).length ∧ (lendable two.dev 0).Nodup ∧ two.onChip 1 = true ∧
     two.partActive 0 = true ∧ 2 + 2 ≤ (partQuads two.dev 0).length ∧ two.estates = [] ∧ two.nodes = [] ∧ two.jobs = [] ∧ (two.part 1).slices = [] ∧
     two.noFetches (fun g => two.partOf g == 0) = true ∧ two.blocks.all (fun x => x.2.part == 0) = true) ∧
    (let l : Loan := { lender := 0, borrower := 1, quads := [0], deadline := 100, slice := 2 }
     let s := { w0 with dev := { w0.dev with loans := [l] }, ticks := 9 }
     s.dev.loans.find? (fun l => l.lender == 0) = some l ∧ s.noFetches (fun g => s.onQuads l.quads g.blk) = true ∧ s.jobs = [] ∧
     s.onQuads l.quads 0 = true ∧ s.onChip 0 = true ∧ l.slice ≠ s.ticks) ∧
    (let s := bars (fun b => { b with detached := some 2 }); (bk s).part = 0 ∧ (bk s).detached = some 2) := by
  decide +kernel

/-- A saved partition whose digest is that of its area, and one whose digest is gone. -/
def savedPart (d : Option Digest) : State :=
  parted (fun p => { p with st := .saved, savedQuads := w0.quadStates (partQuads w0.dev 0), digest := d })
theorem test_witness_PreemptionSavesAndResumes_digest :
    ((savedPart (some (w0.areaDigest 0))).part 0).digest = some ((savedPart (some (w0.areaDigest 0))).areaDigest 0) ∧
    ((savedPart none).part 0).digest ≠ some ((savedPart none).areaDigest 0) ∧ ((savedPart none).part 0).st = .saved :=
  ⟨rfl, (by rw [show ((savedPart none).part 0).digest = none from rfl]; simp), rfl⟩

/-- A block of launch 3 in Solstice mode whose group waits at its quantum end with a staged write. -/
def staged (st : List Staged) : State :=
  { (solst (w (fun g => { g with st := .waiting .quantum, staged := st, qcount := 4096, quantumDone := true }))).updBlock 0 (fun b => { b with root := some 3, launch := some 3 }) with
    launches := [(3, { la with solstice := true, hi := 1, nextBlk := 1 })], ticks := 4 }
/-- A returning atomic of .dev on the counter at 0x4000. -/
def returning : Staged := .rmw .add false false 4 3 0 [(0, 0x4000, 1)]
def withCommit : State :=
  (staged []).updBlock 0 (fun b => { b with ends := 1, commits := [{ quantum := 1, ops := [(0, .write [(0x4000, 7)])], released := false }] })

theorem test_witness_QuantumEnds :
    (let s := solst (w (fun g => { g with qcount := 4096 })); s.partRuns (gr s) = true ∧ s.quantumUsed (gr s) = true ∧ (gr s).st = .active) ∧
    w0.quantumUsed (gr w0) = false ∧
    (let s := staged []
     (bk s).solstice = true ∧ (bk s).gone = false ∧ (bk s).detached = none ∧ s.dev.life ≠ .cold ∧ (s.part 0).st = .running ∧ s.quantumReady 0 (bk s) = true ∧
     s.nodes = [] ∧ (bk s).compact = none ∧ (bk s).claims = [] ∧ s.groups.all (fun x => x.2.staged.isEmpty) = true ∧ s.liveGroups 0 ≠ [] ∧
     (gr s).st = .waiting .quantum) ∧
    [true, false].all (fun first =>
      let s := if first then staged [.write [(0x4000, 7)]] else
        { staged [.write [(0x4000, 7)]] with launches := [(3, { la with solstice := true, hi := 2, nextBlk := 1, held := [(0, 0, false)] })] }
      s.groupsOf 0 == [(0, gr s)] && (gr s).staged == [.write [(0x4000, 7)]] && s.quantumReady 0 (bk s) && (bk s).ancestors.isEmpty && s.nodes.isEmpty &&
        (gr s).st == .waiting .quantum && s.blocks.all (fun x => x.2.commits.isEmpty) && (match s.launch? 3 with | some x => x.live != 0 | none => false) &&
        s.allBefore (bk s).root ((bk s).commitKey ((bk s).ends + 1)) == first) = true ∧
    (let s := ((staged []).updBlock 0 (fun b => { b with retiredCount := 5, endCount := 5 })).updGroup 0 (fun g => { g with quantumDone := false })
     s.liveGroups 0 ≠ [] ∧ (s.liveGroups 0).all (fun x => !x.2.quantumDone) = true ∧ (bk s).retiredCount = (bk s).endCount ∧ (bk s).again = 0) ∧
    (let s := { staged [returning] with launches := [(3, { la with solstice := true, hi := 2, nextBlk := 1, held := [(0, 0, false)] })] }
     returning.returning = true ∧ s.allBefore (bk s).root ((bk s).commitKey ((bk s).ends + 1)) = false) ∧
    (staged []).nextRelease (some 3) = none ∧ withCommit.nextRelease (some 3) = some (0, 1) ∧
    ((bk withCommit).root = some 3 ∧ ((bk withCommit).commits.find? (fun c => c.quantum == 1)).map (·.ops) = some [(0, .write [(0x4000, 7)])] ∧
     (withCommit.launch? 3).map (·.live) = some 1) := by decide +kernel

/-- VF 5 of partition 0, locked when `t` says so. -/
def vfd (t : Tdisp) : State := w0.updVf 5 (fun v => { v with bind := 0, tdisp := t })

theorem test_witness_RegistersOfTheDevice :
    State.reset.dev.life = .cold ∧ w0.lockers (.pf 0x47000) 0 = [] ∧ (vfd .run).lockers (.vf 5 0x1000) 0 = [5] ∧ ((vfd .run).vf 5).tdisp ≠ .unlocked ∧
    (Table.get? w0.parts 0).isSome = true ∧ w0.lockedVfs 0 = [] ∧ ((vfd .unlocked).vfPart 5 = some 0 ∧ (vfd .unlocked).lockedVfs 0 = []) ∧
    (vfd .unlocked).anyResident 0 = true ∧ ({ vfd .unlocked with groups := [], blocks := [] }).anyResident 0 = false ∧
    (0x4000 / Config.blockBytes < Config.blocks ∧ bmapEntry w0.dev (0x4000 / Config.blockBytes) % 256 ≠ 0xFF ∧
      (w0.part (bmapEntry w0.dev (0x4000 / Config.blockBytes) % 256)).hostmem = true ∧ 0x4000 % Config.blockBytes + 64 ≤ Config.blockBytes) ∧
    [(0 : W64), 1].map (fun m => rowAllows { w0.dev with cm := [(92, m)] } 92 0) = [false, true] ∧ bmapEntry w0.dev 40 % 256 = 0xFF ∧
    (parted (fun p => { p with hostmem := false })).dev.life = .full ∧ (Sram.coreTiles 3, 4) ∉ w0.dev.failed := by decide +kernel

/-- A donor of two blocks and a receiver. -/
def donor (c : Option CapMove) : State :=
  { (two.updPart 0 (fun p => { p with bmin := 1 })).updVf 5 (fun v => { v with bind := 0 }) with
    dev := { two.dev with bmap := [(0, 0), (1, 256)], sbmap := [(0, 0), (1, 256)], capmove := c } }
def mv (n : Nat) : CapMove := { donor := 0, receiver := 1, n := n }
def jn (j : Journal) (s : State := w0) : State := { s with dev := { s.dev with journal := j } }

theorem test_witness_LayoutJournal :
    (w0.dev.life ≠ .cold ∧ w0.dev.journal = .done ∧ w0.prepareFails ≠ none) ∧
    (let d := { State.reset.dev with life := .full }; ({ State.reset with dev := d }).prepareFails = none) ∧
    (jn .prepared).dev.journal ≠ .done ∧ (jn .prepared).dev.life ≠ .cold ∧ (jn .prepared).dev.retiring = [] ∧ (jn .prepared).dev.capmove = none ∧
    (jn .flipped).dev.journal = .flipped ∧
    (let s := donor none; s.dev.life = .full ∧ s.dev.capmove = none ∧ s.capFails (mv 1) = none ∧ s.capFails (mv 2) = some 1 ∧
      (Table.get? s.parts 0).isSome = true ∧ (Table.get? s.parts 1).isSome = true) ∧
    (let s := donor (some (mv 1)); s.dev.capmove = some (mv 1) ∧ (s.vf 5).bind = 0 ∧ s.dev.journal = .done ∧ topBlocks s.dev 0 1 = [(1, 1)] ∧
      (s.vfsOf 0).all (fun v => !(s.vf v).capack) = true) ∧
    (donor (some (mv 2))).capFails (mv 2) = some 1 ∧
    [Journal.done, .prepared].all (fun j => decide ((jn j).dev.life = .full ∧ (jn j).dev.journal = j ∧ (jn j).dev.capmove = none)) = true ∧
    (w0.dev.loans.all (fun l => !l.quads.contains 79) = true ∧ failedOn w0.dev (dieOf 79) = 0 ∧ (Table.get? w0.parts (holderOf w0.dev 79)).isSome = false) := by decide +kernel

theorem test_witness_TdispAndLifeCycle :
    ((vfd .unlocked).vf 5).tdisp = .unlocked ∧ ((vfd .unlocked).vfPart 5).isSome = true ∧ ((vfd .locked).vf 5).tdisp = .locked ∧
    ((vfd .run).vf 5).tdisp = .run ∧ (vfd .run).vfPart 5 = some 0 ∧ (vfd .run).lockedVfs 0 = [5] ∧ (vfd .run).launches = [] ∧ (vfd .run).walkers = [] ∧
    State.reset.dev.life = .cold ∧ (nx .lcsGo { w0 with dev := { w0.dev with life := .thaw } }).dev.go = true ∧
    (let s := vfd .run; (s.group? 0).isSome = true ∧ s.partOf (gr s) = 0 ∧ (bk s).part = 0) ∧
    [1, 3, 4, 5].all (fun i => ((vfd .run).measured 5 i).isSome == (i != 1)) = true ∧
    (({ vfd .run with dev := { w0.dev with firmware := some ([], []) } } : State).measured 5 1).isSome = true ∧
    (let s := State.reset.enterThaw boot; s.dev.life = .thaw ∧ (nx .lcsGo s).dev.go = true ∧ (nx .enterFull (nx .lcsGo s)).dev.life = .full) := by
  decide +kernel
/-- A process-group table at 0x5000: one rank, whose identifier has the four bytes given, and one communicator of `n` participants, that rank the first. -/
def pgtMem (n b0 b1 b2 b3 : Byte) : List Host.Cell :=
  [(0x1000, 1), (0x1001, 0x20), (0x2000, 1), (0x2001, 0x30), (0x3000, 0x3B), (0x5006, 1), (0x5008, 1), (0x5010, 0x40), (0x5018, 0x50), (0x5040, b0), (0x5041, b1), (0x5042, b2), (0x5043, b3), (0x5050, 0x60), (0x5058, n)]
def collBase : State := (tiled (words [0, 4, 0, 0x100])).updBlock 0 (fun b => { b with pgt := some 0x5000 })
def collState (n b0 b1 b2 b3 : Byte) : State := { collBase with mem := pgtMem n b0 b1 b2 b3 }

theorem pgt_walk (n b0 b1 b2 b3 : Byte) (va : W64) (h : levelIndex va.toNat 4 = 0 ∧ levelIndex va.toNat 3 = 0 ∧ levelIndex va.toNat 2 = 0) :
    (collState n b0 b1 b2 b3).walk 0 va = .page ⟨0, 2^30, 0, true, true, true⟩ := by
  have d1 : sysAddr collBase.dev 0 0x1000 = some 0x1000 := by decide +kernel
  have d2 : sysAddr collBase.dev 0 0x2000 = some 0x2000 := by decide +kernel
  have d3 : sysAddr collBase.dev 0 0x3000 = some 0x3000 := by decide +kernel
  have d4 : sysAddr collBase.dev 0 0 = some 0 := by decide +kernel
  have m4 : entryMalformed collBase.dev 0 4 0x2001 = false := by decide +kernel
  have m3 : entryMalformed collBase.dev 0 3 0x3001 = false := by decide +kernel
  have m2 : entryMalformed collBase.dev 0 2 0x3B = false := by decide +kernel
  have r4 : readNat (pgtMem n b0 b1 b2 b3) 0x1000 8 = 0x2001 := by simp [pgtMem, readNat, readBytes, readByte, Sparse.get, natOfBytes, memDefault]
  have r3 : readNat (pgtMem n b0 b1 b2 b3) 0x2000 8 = 0x3001 := by simp [pgtMem, readNat, readBytes, readByte, Sparse.get, natOfBytes, memDefault]
  have r2 : readNat (pgtMem n b0 b1 b2 b3) 0x3000 8 = 0x3B := by simp [pgtMem, readNat, readBytes, readByte, Sparse.get, natOfBytes, memDefault]
  have tr : ((collState n b0 b1 b2 b3).part 0).troot.toNat = 0x1000 := by
    show (collBase.part 0).troot.toNat = _
    decide +kernel
  have bits : Nat.testBit 0x2001 0 = true ∧ Nat.testBit 0x2001 1 = false ∧ Nat.testBit 0x3001 0 = true ∧ Nat.testBit 0x3001 1 = false ∧
      Nat.testBit 0x3B 0 = true ∧ Nat.testBit 0x3B 1 = true ∧ Nat.testBit 0x3B 3 = true ∧ Nat.testBit 0x3B 4 = true ∧ Nat.testBit 0x3B 5 = true := by decide
  have e1 : entryAddr 0x2001 = 0x2000 := by decide
  have e2 : entryAddr 0x3001 = 0x3000 := by decide
  have e3 : entryAddr 0x3B = 0 := by decide
  have hm : (collState n b0 b1 b2 b3).mem = pgtMem n b0 b1 b2 b3 := rfl
  have hd : (collState n b0 b1 b2 b3).dev = collBase.dev := rfl
  have ht : ((collState n b0 b1 b2 b3).part 0).tlb = [] := by
    show (collBase.part 0).tlb = _
    decide +kernel
  unfold State.walk State.cachedPage State.tableWalk
  rw [tr, hm, hd, ht]
  simp [walkFrom, h, d1, d2, d3, d4, m4, m3, m2, r4, r3, r2, bits, e1, e2, e3, levelShift]

theorem pgt_read (m b0 b1 b2 b3 : Byte) (va : W64) (n : Nat)
    (h : levelIndex va.toNat 4 = 0 ∧ levelIndex va.toNat 3 = 0 ∧ levelIndex va.toNat 2 = 0) (hc : canonical va = true) (hl : va.toNat < 2^30) :
    (collState m b0 b1 b2 b3).readVirt 0 va n = some (readNat (pgtMem m b0 b1 b2 b3) va.toNat n) := by
  have hm : (collState m b0 b1 b2 b3).mem = pgtMem m b0 b1 b2 b3 := rfl
  simp [State.readVirt, pgt_walk m b0 b1 b2 b3 va h, hc, Page.at, hm]
  rw [Nat.mod_eq_of_lt (by omega)]

theorem pgt_comm (m b0 b1 b2 b3 : Byte) (hm : m = 1#8 ∨ m = 2#8) (hb : natOfBytes [b0, b1, b2, b3] = Config.moduleId.toNat) :
    (collState m b0 b1 b2 b3).tableComm 0 0x5000 0 = some (m.toNat, 0) := by
  have q (va : W64) (n v : Nat) (h : levelIndex va.toNat 4 = 0 ∧ levelIndex va.toNat 3 = 0 ∧ levelIndex va.toNat 2 = 0 ∧ canonical va = true ∧ va.toNat < 2^30)
      (hv : readNat (pgtMem m b0 b1 b2 b3) va.toNat n = v) : (collState m b0 b1 b2 b3).readVirt 0 va n = some v := by
    rw [pgt_read m b0 b1 b2 b3 va n ⟨h.1, h.2.1, h.2.2.1⟩ h.2.2.2.1 h.2.2.2.2, hv]
  have q1 := q (20486#64) 2 1 (by decide) (by simp [pgtMem, readNat, readBytes, readByte, Sparse.get, natOfBytes, memDefault])
  have q2 := q (20504#64) 8 0x50 (by decide) (by simp [pgtMem, readNat, readBytes, readByte, Sparse.get, natOfBytes, memDefault])
  have q3 := q (20560#64) 8 0x60 (by decide) (by simp [pgtMem, readNat, readBytes, readByte, Sparse.get, natOfBytes, memDefault])
  have q4 := q (20568#64) 4 m.toNat (by decide) (by simp [pgtMem, readNat, readBytes, readByte, Sparse.get, natOfBytes, memDefault])
  have q5 := q (20488#64) 4 1 (by decide) (by simp [pgtMem, readNat, readBytes, readByte, Sparse.get, natOfBytes, memDefault])
  have q6 := q (20496#64) 8 0x40 (by decide) (by simp [pgtMem, readNat, readBytes, readByte, Sparse.get, natOfBytes, memDefault])
  have q7 := q (20544#64) 4 (natOfBytes [b0, b1, b2, b3]) (by decide) (by simp [pgtMem, readNat, readBytes, readByte, Sparse.get, natOfBytes, memDefault])
  have q8 := q (20576#64) 2 0 (by decide) (by simp [pgtMem, readNat, readBytes, readByte, Sparse.get, natOfBytes, memDefault])
  rw [hb] at q7
  rcases hm with rfl | rfl <;>
    simp [State.tableComm, State.rankList, State.moduleRank, State.tableRanks, q1, q2, q3, q4, q5, q6, q7, q8, List.range, List.range.loop]

/-- The bytes of the module's identifier. -/
def idByte (k : Nat) : Byte := BitVec.ofNat 8 (Config.moduleId.toNat / 256 ^ k)
theorem idBytes : natOfBytes [idByte 0, idByte 1, idByte 2, idByte 3] = Config.moduleId.toNat := by
  have := Config.moduleId.isLt
  simp [natOfBytes, idByte]
  omega
def collWitness : State := collState 1 (idByte 0) (idByte 1) (idByte 2) (idByte 3)

def collF : FJ := { fj 1 0 2 8 with scope := 3 }
def collInstr : Instr := .coll collF .allreduce .addF32
theorem test_witness_CardsIssue_coll :
    ∃ g c, Issues collWitness g collInstr ∧ (∀ n, some (1 : Nat) = some n → ((collWitness.blockOf g).copyBar n).init = true) ∧
      collWitness.queueFull (collWitness.quadOf g) = false ∧ collCard collWitness g collF .allreduce .addF32 = .ok c := by
  have h : issP collBase collInstr (fun g => ((collBase.blockOf g).copyBar 1).init && !collBase.queueFull (collBase.quadOf g) &&
      decide (cardWord g collF 0 = 0 ∧ cardWord g collF 1 = 4 ∧ (g.areg 2).base = 0x4000 ∧
        g.sreg 10 = 0 ∧ g.sreg 11 = 0x100 ∧ collBase.pgtOf g = some 0x5000 ∧ collBase.partOf g = 0 ∧ collBase.dev.loans = [])) = true := by
    decide +kernel
  obtain ⟨g, hI, hP⟩ := issues_of_issP h
  simp only [Bool.and_eq_true, Bool.not_eq_true', decide_eq_true_eq] at hP
  obtain ⟨⟨h1, h2⟩, w0, w1, ha, h10, h11, hp, hq, hl⟩ := hP
  have hc : collWitness.communicator g 0 = some (1, 0) := by
    have hp' : collWitness.pgtOf g = some 0x5000 := hp
    have hq' : collWitness.partOf g = 0 := hq
    unfold State.communicator
    rw [hp', hq']
    exact pgt_comm 1 _ _ _ _ (.inl rfl) idBytes
  have hl' : collWitness.dev.loans = [] := hl
  refine ⟨g, (collCard collWitness g collF .allreduce .addF32).toOption.getD (.glaunch 0, [], []), ⟨hI.1, hI.2, hI.3, hI.4, hI.5, hI.6, hI.7⟩,
    fun n hn => by cases hn; exact h1, h2, ?_⟩
  have hcol : ∃ c, collCard collWitness g collF .allreduce .addF32 = .ok c := by
    unfold collCard
    simp only [w0, hc]
    have s2 : collF.ar.toNat = 2 := rfl
    have s8 : collF.sc.toNat = 8 := rfl
    have hm : rangesMeet 16384 16 16640 16 = false := by decide
    have hm' : anyOverlap (memRegion (16384#64) 16) (memRegion (16640#64) 16) = false := hm
    simp [w1, s2, s8, ha, h10, h11, hl', collExtents, rangesMeet, hm', rangeFault, canonical]
  obtain ⟨c, hc'⟩ := hcol
  rw [hc']; rfl

/-- A collective of two modules, and one of this module alone, whose parameters are still to be exchanged. -/
def collJob : Job := jb (.coll .barrier .addF32 0 0 0x4000 0x4000) .running
def collRuns (m : Byte) : State := { collState m (idByte 0) (idByte 1) (idByte 2) (idByte 3) with jobs := [(7, collJob)] }
theorem test_witness_JobEvents_coll :
    (∀ m, m = 1#8 ∨ m = 2#8 → ((collRuns m).group? 0).bind (fun g => (collRuns m).communicator g 0) = some (m.toNat, 0)) ∧
    (∀ m, (collRuns m).job? 7 = some collJob ∧ (collRuns m).jobsRun collJob = true ∧ (collRuns m).collAhead collJob 0 = false ∧
      (collRuns m).dev.life = .full ∧ (collRuns m).jobWords collJob 0x4000 (collExtents .barrier 0 m.toNat 0).1 = .ok []) ∧
    (collJob.st = .running ∧ collJob.result = none) ∧
    (let params : List (CollKind × CollOp × Nat) := [(.barrier, .addF32, 0), (.allreduce, .addF32, 0)]
     params.length = 2 ∧ params[1]? = some (.allreduce, .addF32, 0) ∧ (1 : Nat) ≠ 0 ∧ (CollKind.allreduce, CollOp.addF32, (0 : Nat)) ≠ (.barrier, .addF32, 0)) := by
  refine ⟨fun m hm => ?_, fun m => ⟨rfl, ?_, ?_, ?_, rfl⟩, by decide, by decide⟩
  · exact pgt_comm m _ _ _ _ hm idBytes
  · show (collBase.jobsRun collJob) = true
    decide +kernel
  · show (({ collBase with jobs := [(7, collJob)] } : State).collAhead collJob 0) = false
    decide +kernel
  · show collBase.dev.life = .full
    decide +kernel

/-! ## Witnesses of further clauses -/

theorem test_witness_RegisterBudgets_waits :
    [27, 28].all (fun n =>
      let s := (if n = 27 then w0 else (crowd id id 240).updGroup 0 pending).updBlock 0 (fun b => { b with pool := n })
      let k : Nat := if n = 27 then 28 else 24
      issP s (.rbtake (fi 0 0 (BitVec.ofNat 32 k))) (fun g => decide (g.budget + k ≤ 32) && (bk s).claims.isEmpty && !s.isSolstice g.blk && g.windows.isEmpty &&
        g.st == .active && !g.inReserve && (decide ((bk s).pool < k) || s.outgrows g k && !fetchesLanded g))) = true ∧
    (let s := (crowd id id 240).updBlock 0 (fun b => { b with pool := 24 })
     issP s (.rbtake (fi 0 0 24)) (fun g => decide (g.budget + 24 ≤ 32) && fetchesLanded g && g.st == .active && g.sapwood &&
       (bk s).claims.isEmpty && g.windows.isEmpty && decide (Config.sapwoodBlocks < s.ordinaryUsed (s.coreOf g) + 24))) = true := by decide +kernel

/-- a1 bound at 0x4000 in a page of 64 KB. -/
def bound : AddrReg := { base := 0x4000, frame := 0x4000, limit := 0x100, page := 0x10000, canR := true, canW := false }
theorem test_witness_AddressesAreChecked_cached :
    bound.fast w0.dev 0 0x40FC 4 = some 0x40FC ∧ bound.fast w0.dev 0 0x40FD 4 = none ∧ sysAddr w0.dev 0 0x40FC = some 0x40FC ∧
    (match w0.checkVia 0 bound 0x4000 4 .load with | .ok _ => true | .error _ => false) = true ∧
    (match w0.checkVia 0 bound 0x4000 4 .store with | .ok _ => false | .error e => e.code == 0x042) = true ∧
    ((Table.get? w0.parts 0).isSome = true ∧ (w0.cachedPage 0 0x4000).isNone = true ∧ (match w0.tableWalk 0 0x4000 with | .page _ => true | .stop .. => false) = true) ∧
    ((w0.cachedPage 0 0x80000000).isNone = true ∧ (match w0.tableWalk 0 0x80000000 with | .page _ => false | .stop .. => true) = true) := by decide +kernel

theorem test_witness_WordsThatDoNotRunTrap_fetch :
    canonical (gr (w (fun g => { g with pc := 0x1000000000000000 }))).pc = false ∧
    (match w0.walk 0 0x80000000 with | .page _ => false | .stop .. => true) = true ∧ canonical 0x80000000 = true ∧
    (match w0.walk 0 0x10000 with | .page pg => pg.x && ({ w0 with badCw := [(0x1000, false)] }).isBad (pg.at 0x10000) 8 | .stop .. => false) = true := by decide +kernel

theorem full_table (n : Nat × Node) : Config.nodeIndices ≤ (List.replicate Config.nodeIndices n).length := by simp
theorem test_witness_NodesAndSpawn_full : Config.nodeIndices ≤ ({ w0 with nodes := List.replicate Config.nodeIndices (5, nd) } : State).nodes.length ∧
    (let s : State := { memAt (w (ab 1 0x5000)) 0x5000 desc with nodes := List.replicate Config.nodeIndices (5, nd) }
     issP s (.nodemk (fm 2 1 0 0 0)) (fun g => okE (s.checkGroup 0 (g.areg 1) (groupAddr g (fm 2 1 0 0 0)) 64 .load) && !s.busy g 0x5000 64 false && !s.isBad 0x5000 64 &&
      descFails (readBytes (s.view g) 0x5000 64) 0x5000 == none)) = true := ⟨full_table _, by decide +kernel⟩

theorem test_witness_NodesAndSpawn_solstice :
    (let s := solst (noded nd (fun g => em 3 (vr 2 0x5001 0 g))); let i : Instr := .spawn (fa 1 2 4 0) false false false 0 false
     issP s i (fun g => let k := reachOf s g i; k.active (useOf i).guard == 3 && okE (s.spawnChecks k 3 (fa 1 2 4 0) false false 0 false) && s.isSolstice g.blk)) = true ∧
    [true, false].all (fun b => let i : Instr := .spawn (fa (if b then 0 else 1) 2 4 0) b false false 0 false
      issP w0 i (fun g => let k := reachOf w0 g i; k.active (useOf i).guard != 0 && !okE (w0.spawnChecks k (k.active (useOf i).guard) (fa (if b then 0 else 1) 2 4 0) false false 0 false) &&
        !g.supervisor)) = true ∧
    (let n := { nd with swapped := true, inSlot := false }; let s := noded n
     s.node? 5 = some n ∧ n.inSlot = false ∧ n.swapped = true ∧ n.swaps = [] ∧ (held 0).batch = none ∧ s.nodeAway n = false ∧ s.binRoom n = true ∧
       (s.slotted n.homeQuad).length < Config.nodeSlots) ∧
    (let s := { noded nd with dev := { w0.dev with loans := [{ lender := 0, borrower := 1, quads := [nd.homeQuad], deadline := 100, slice := 2 }] } }
     s.node? 5 = some nd ∧ s.nodeAway nd = true ∧ nd.hasOvf = false) := by decide +kernel

/-- An estate of launch 3's block 0: tag 0x31, key 5, v4 = 9, on core 0. -/
def es0 : Estate := { tag := 0x31, wid := 5, part := 0, vf := 0, stream := 0, estgen := 0, life := 1, regs := [(4, ⟨9, tagI32⟩)], core := 0, order := 0
                      launch := 3, blk := 0, captured := false }
/-- Launch 4, the next of the stream, an heir of tag 0x31, about to place its first block. -/
def heir : Launch := { la with seq := 1, heirs := [0x31], wills := [], nextBlk := 0, live := 0, willed := [], affinity := 8 }
def inheriting (es : List Estate) : State := { w0 with groups := [], blocks := [], launches := [(4, heir)], estates := es, ticks := 5 }

theorem test_witness_WillsAreDeclared_capture :
    [4, 40].all (fun first =>
      let i : Instr := .exit (gd (fc 0 0 0) 1)
      let x : Will := { will0 with first := first }
      let s := { willing (fun g => pm 1 1 (g.mapLanes 1 (fun _ y => { y with will := some x }))) with launches := [(3, { la with willed := [] })] }
      issP s i (fun g => lanesOf (actOf g i) == [(0 : Nat)] && (bk s).launch == some 3 && (s.launch? 3).isSome && !(bk s).solstice && !g.supervisor &&
        g.windows.isEmpty && (s.ownEntries s.cur g).isEmpty && g.cur.isNone && actOf g i &&& ~~~g.occ == 0 && g.path &&& ~~~g.occ == 0 &&
        g.path &&& ~~~actOf g i != 0 && (g.lane 0).will == some x && (g.lane 0).pend.isEmpty && (g.lane 0).badRegs.isEmpty &&
        decide (s.reservedBlocks (bk s).core + (s.estatesOn (bk s).core).length / 8 < Config.heartwoodBlocks - Config.nodeReserve) &&
        (if first = 4 then decide (first < 8 * g.budget) else decide (8 * g.budget ≤ first)))) = true := by decide +kernel

/-- The captured will of block 0, which retires, and its state with older estates. -/
def will1 : Estate := { es0 with captured := true }
def older1 : List Estate := [{ es0 with launch := 2, order := 1 }]
def retiring (older : List Estate) : State := { willing (fun g => { g with st := .retired }) with estates := older ++ [will1] }

theorem test_witness_WillsAreDeclared_forms :
    [[], older1].all (fun older =>
      let s := retiring older
      (bk s).launch == some 3 && !(bk s).gone && s.launch? 3 == some la && !la.unplaced.isEmpty && (s.liveGroups 0).isEmpty &&
        s.groups.all (fun x => x.2.staged.isEmpty) && s.jobs.isEmpty && (bk s).later.isEmpty &&
        s.estates.filter (fun x => x.captured && x.blk == 0) == [will1] && s.estates.all (fun x => x.order != will1.order || x == will1) &&
        s.estates.filter (fun x => (!x.captured || x.claimed) && decide (x.part = will1.part ∧ x.tag = will1.tag ∧ x.wid = will1.wid)) == older &&
        s.launches.all (fun x => !x.2.finished) &&
        older.all (fun o => !o.claimed && o.launch != 3 && s.estates.all (fun x => x.order != o.order || x == o) && (s.launch? o.launch).isNone)) = true ∧
    ((retiring []).sliceEntries will1).length < Config.directoryEntries ∧ ((retiring older1).sliceEntries will1).length < Config.directoryEntries :=
  ⟨by decide +kernel, Nat.lt_of_le_of_lt (List.length_filter_le ..) (by decide), Nat.lt_of_le_of_lt (List.length_filter_le ..) (by decide)⟩

theorem test_witness_WillsAreDeclared_expires :
    [0, 128].all (fun size =>
      let gl : Launch := { la with spillBase := 0x4000, spillSize := size }
      let s := { inheriting [es0] with launches := [(3, gl), (4, heir)] }
      s.launch? 4 == some heir && s.launch? 3 == some gl && s.estates.filter (fun x => !x.captured && !x.claimed &&
        decide (x.part = heir.part ∧ x.vf = heir.vf ∧ x.stream = heir.stream ∧ x.launch < 4 ∧ heir.seq = x.estgen + BitVec.ofNat 32 x.life)) == [es0] &&
        (if size = 0 then decide (gl.spillSize < gl.spillNext + 128) else decide (gl.spillNext + 128 ≤ gl.spillSize)) && canonical 0x4000 &&
        (match s.walk 0 0x4000 with | .page pg => pg.w && decide (0x4000 % pg.bytes + 128 ≤ pg.bytes) && !s.isBadPart (pg.at 0x4000) 128 | .stop .. => false)) = true := by
  decide +kernel

theorem test_witness_WillsAreDeclared_inherits :
    [([], 0), ([{ es0 with claimed := true }], 0), ([es0], 0), ([es0], 1)].all (fun x =>
      let s := inheriting x.1
      s.launch? 4 == some heir && heir.heirs.getD 0 0 == (0x31 : BitVec 16) && (List.range 8).all (fun m => m == 0 || heir.heirs.getD m 0 == 0) && heir.key 0 5 == 5 &&
        heir.took.isEmpty && !heir.solstice && s.estates.filter (fun e => !e.captured && !e.waits && e.slice.isNone && decide (e.part = heir.part ∧
          e.vf = heir.vf ∧ e.stream = heir.stream ∧ e.tag = 0x31 ∧ e.wid = 5 ∧ 1 ≤ (heir.seq - e.estgen).toNat ∧ (heir.seq - e.estgen).toNat ≤ e.life)) == x.1 &&
        x.1.all (fun e => decide ((e.regs.map (·.1)).Nodup) && (e.regs.filter (fun y => decide (y.1 < 32))).length == 1)) = true ∧
    es0.core = 0 ∧ es0.core ≠ 1 := by decide +kernel

theorem test_witness_WillsAreDeclared_birth :
    (let s := inheriting [es0]
     s.launch? 4 = some heir ∧ heir.started = true ∧ heir.finished = false ∧ s.partActive 0 = true ∧ (partCores s.dev 0).contains 0 = true ∧ heir.held = [] ∧
     heir.nextBlk < heir.hi ∧ heir.affinity ≠ 0 ∧ heir.groups = [(0, { entry := 0x10000, budget := 4, groups := 1 })] ∧ s.blockEstates heir 0 = [es0] ∧
     s.eligible 0 0 1 heir.need [es0.order] = true ∧ heir.need ≤ s.heartRoom 0 1 ∧ s.onChip 0 = true ∧ heir.wsize ≤ 32 ∧ heir.heirs.length ≤ 8 ∧
     (List.range 32).all (fun j => heir.key 0 j != 5 || j == 5) = true ∧ heir.key 0 5 = 5 ∧ 0 < 4 ∧ 4 < 8 * 4 ∧
     (match exec (.blockPlacement 4 0) s with | .next t => (match t.group? 6 with | some g => ((g.lane 5).reg 4).val == 9 | none => false) | _ => false) = true) := by
  decide +kernel

theorem test_witness_QueriesComplete_codes :
    (let s := nx (.talloc (fi 3 0 1) false) w0; (s.tile? 0 3).isSome = true ∧ (s.tile? 0 4).isNone = true) ∧
    (let s := noded nd
     ((5, nd) : Nat × Node) ∈ s.nodes ∧ nd.live = true ∧ nd.part = 0 ∧ nd.handle 5 = 0x5001 ∧ s.nodes.all (fun m => m == (5, nd)) = true ∧
       s.blocks.all (fun x => x.2.commits.isEmpty) = true ∧ nd.swaps = [] ∧ Table.get? (s.nodesNow 0) 0x5001 ≠ none ∧ Table.get? (s.nodesNow 0) 0x5002 = none) := by
  decide +kernel

theorem test_witness_PredicatesAreWritten_order :
    (0x3F800000 < 2^fmtF32.bits ∧ val fmtF32 0x7FC00000 = .nan ∧ val fmtF32 0xFF800000 = .inf true) ∧
    (val fmtF32 0xFF800000).At ⊥ ∧ (val fmtF32 0x3F800000).At ((1 : ℝ) : EReal) := by
  refine ⟨by decide +kernel, .inl ⟨by decide +kernel, rfl⟩, .inr (.inr ⟨1, ?_, rfl⟩)⟩
  rw [show val fmtF32 0x3F800000 = one by decide +kernel]
  exact (one_is 1).2 rfl

theorem test_witness_FormatFormsComplete_class :
    val fmtF32 0x7FC00000 = .nan ∧ val fmtF32 0x7F800000 = .inf false ∧ (val fmtF32 0x3F800000).Mag false 1 := by
  refine ⟨by decide +kernel, by decide +kernel, ?_⟩
  rw [show val fmtF32 0x3F800000 = one by decide +kernel]
  exact one_mag

theorem test_witness_ContextsMove_lands :
    (let s := w (fun g => { pending g with st := .halted })
     (bk s).compact = none ∧ (bk s).claims = [] ∧ (gr s).st = .halted ∧ s.estates = [] ∧
       ((gr s).lane 0).pend.find? (fun p => p.reg == 3) = some { reg := 3, val := ⟨9, 1⟩ }) ∧
    [0, 1].all (fun n =>
      let s := memAt (w (fun g => ab 1 0x4000 { g with st := .waiting (.jwait 0x14000 1) })) 0x14000 [BitVec.ofNat 8 n]
      let u := if (((gr s).areg 1).fast s.dev 0 0x14000 8).isNone then s.cache 0 0x14000 else s
      s.partRuns (gr s) && !s.isSolstice (gr s).blk && !(u.part 0).tlb.isEmpty &&
        (match u.readCounter (gr s) ((gr s).areg 1) 0x14000 with | .value m => m == n | _ => false)) = true := by decide +kernel

theorem test_witness_JobEvents_solstice :
    (let s := solst (jobbed (jb (cp .g2t 0x80000000) .running 16))
     meets s (fun j => j.st == .running && !j.kind.mma? && decide (j.off < j.total) && lands1 (landUnit s 7 j) == 2 && !(s.quad j.quad).freeEntries.isEmpty &&
       s.isSolstice j.blk)) = true ∧
    [0x4000, 0x80000000].all (fun a => let s := jobbed (jb (cp .g2t a) .running 16)
      meets s (fun j => let v := s.cacheUnit j; lands1 (landUnit v 7 j) == (if a = 0x4000 then 0 else 2))) = true := by decide +kernel

/-- A fault of job 7 that block 0 has yet to see. -/
def later0 : Later := { job := 7, gid := 0, due := some { due1 with job := some 7 } }
/-- A cause of that job which is no translation fault. -/
def later1 : Later := { later0 with due := some due1 }
theorem test_witness_QuantumEnds_later :
    (let s := (staged []).updBlock 0 (fun b => { b with later := [later1] })
     (bk s).later = [later1] ∧ later1.due.isSome = true ∧ s.seesFaults 0 (bk s) = false ∧ s.quantumReady 0 (bk s) = true ∧ (bk s).bwdog = 0 ∧ s.nodes = [] ∧
       (bk s).compact = none ∧ (bk s).claims = [] ∧ s.groups.all (fun x => x.2.staged.isEmpty) = true ∧ s.liveGroups 0 ≠ [] ∧ (gr s).st = .waiting .quantum) ∧
    (let s := ((staged []).updGroup 0 (fun g => { g with st := .waiting (.jwait 0x4000 1), quantumDone := false })).updBlock 0 (fun b => { b with later := [later0] })
     (bk s).solstice = true ∧ (bk s).gone = false ∧ (bk s).detached = none ∧ s.dev.life ≠ .cold ∧ (s.part (bk s).part).st = .running ∧
       s.seesFaults 0 (bk s) = true ∧ (bk s).later = [later0] ∧ (gr s).blk = 0 ∧ (gr s).st ≠ .retired) := by decide +kernel

theorem test_witness_PreemptionSavesAndResumes_slices :
    (let s := parted (fun p => { p with slices := [{ id := 1, quads := [] }] }) { w0 with estates := [{ es0 with slice := some 1 }] }
     pcmdOp 5 = 5 ∧ pcmdBare 5 = true ∧ s.dev.life ≠ .cold ∧ (Table.get? s.parts (pcmdPart 5)).isSome = true ∧ (s.part (pcmdPart 5)).slices ≠ [] ∧
       s.blocks.all (fun x => x.2.detached.isNone) = true) := by decide +kernel

theorem test_witness_RegistersOfTheDevice_failed :
    (Sram.heartwood 3, 4) ∉ w0.dev.failed ∧ sramStruct (.heartwood 3) = some 6 ∧ (sramQuad (.heartwood 3)).isSome = true ∧
    (partCores w0.dev 0 ≠ [] ∧ (Table.get? w0.parts 0).isSome = true) := by decide +kernel

end Sys2Proof.Tests
end

section
/-! SUPPORT. The marks of cores and quads, the clocks and the port (R2, R342, R409): what each event and order does, case by case, and
the proof of O55. -/

namespace Sys2Proof.Machine

section
variable (s : State)

/-! ## Marks and the choice of a core -/

@[simp] theorem State.endOverrides_core (c : Nat) : s.endOverrides.core c = s.core c := rfl
@[simp] theorem State.endOverrides_quad (q : Nat) : s.endOverrides.quad q = s.quad q := rfl

theorem State.coreMarked_iff (c : Nat) :
    s.coreMarked c = true ↔ (s.core c).hot = true ∨ (s.quad (Machine.quadOf c)).droopy = true := by
  simp [State.coreMarked]

theorem State.marked_eq (p c : Nat) : s.marked p c = (!(s.part p).override && s.coreMarked c) := rfl

theorem State.marked_of_override {p : Nat} (h : (s.part p).override = true) (c : Nat) : s.marked p c = false := by
  simp [State.marked_eq, h]

theorem State.marked_of_coreMarked {p c : Nat} (ho : (s.part p).override = false) (hc : s.coreMarked c = true) :
    s.marked p c = true := by
  simp [State.marked_eq, ho, hc]

theorem State.not_marked_of_eligible {p c n need : Nat} {own : List Nat} (h : s.eligible p c n need own = true) :
    s.marked p c = false := by
  simp only [State.eligible, Bool.and_eq_true, Bool.not_eq_true'] at h
  exact h.1.1

/-- R341's choice among listed cores is one of them. -/
theorem State.mem_of_fewest {cs : List Nat} {c : Nat} (h : s.fewest cs = some c) : c ∈ cs := by
  induction cs generalizing c with
  | nil => simp [State.fewest] at h
  | cons a r ih =>
    cases hr : s.fewest r with
    | none =>
      have hac : a = c := by simpa [State.fewest, hr] using h
      exact hac ▸ List.mem_cons_self
    | some d =>
      have hcd : (if (s.onCore d).length < (s.onCore a).length then some d else some a) = some c := by
        simpa only [State.fewest, hr] using h
      split at hcd
      · exact List.mem_cons_of_mem _ (ih (hr.trans hcd))
      · exact Option.some.inj hcd ▸ List.mem_cons_self

/-- The core that R341 chooses for a block serves the launch's partition and can take the block. -/
theorem State.chosenCore_eligible {r : Launch} {own : List Nat} {c : Nat} (h : s.chosenCore r own = some c) :
    c ∈ partCores s.dev r.part ∧ s.eligible r.part c r.groups.length r.need own = true :=
  List.mem_filter.mp (s.mem_of_fewest h)

/-! ## The events of R342, case by case -/

theorem exec_coreHotMark_of_reached {c t : Nat} (h : (s.core c).threshold ≤ t) :
    exec (.coreHotMark c t) s = .next (s.updCore c (fun r => { r with hot := true, temp := max r.temp t })) :=
  congrArg _ (if_pos h)

theorem exec_coreHotMark_of_below {c t : Nat} (h : t < (s.core c).threshold) : exec (.coreHotMark c t) s = .next s :=
  congrArg _ (if_neg (Nat.not_le.mpr h))

theorem exec_coreHotClear_of_cooled {c : Nat} (h : (s.core c).temp + 6 ≤ (s.core c).threshold) :
    exec (.coreHotClear c) s = .next (s.updCore c (fun r => { r with hot := false })).endOverrides :=
  congrArg _ (if_pos h)

theorem exec_coreHotClear_of_warm {c : Nat} (h : (s.core c).threshold < (s.core c).temp + 6) :
    exec (.coreHotClear c) s = .next s :=
  congrArg _ (if_neg (Nat.not_le.mpr h))

theorem exec_droopDetect (q : Nat) :
    exec (.droopDetect q) s = .next (s.updQuad q (fun r => { r with droopy := true })) := rfl

theorem exec_droopMarkExpiry (q : Nat) :
    exec (.droopMarkExpiry q) s = .next (s.updQuad q (fun r => { r with droopy := false })).endOverrides := rfl

theorem exec_thermalMarkOverride (p : Nat) :
    exec (.thermalMarkOverride p) s = .next
      (if !(partCores s.dev p).isEmpty && (partCores s.dev p).all s.coreMarked && (Table.get? s.parts p).isSome then
        s.updPart p (fun r => { r with override := true }) else s) := rfl

theorem exec_thermalMarkOverride_of_all {p : Nat} (hp : (Table.get? s.parts p).isSome = true) (hne : partCores s.dev p ≠ [])
    (hall : ∀ c ∈ partCores s.dev p, s.coreMarked c = true) :
    exec (.thermalMarkOverride p) s = .next (s.updPart p (fun r => { r with override := true })) := by
  have ha : (partCores s.dev p).all s.coreMarked = true := List.all_eq_true.mpr hall
  rw [exec_thermalMarkOverride, if_pos (by simp [hne, ha, hp])]

theorem exec_thermalMarkOverride_of_unmarked {p c : Nat} (hc : c ∈ partCores s.dev p) (hm : s.coreMarked c = false) :
    exec (.thermalMarkOverride p) s = .next s := by
  have ha : (partCores s.dev p).all s.coreMarked = false := List.all_eq_false.mpr ⟨c, hc, by simp [hm]⟩
  rw [exec_thermalMarkOverride, if_neg (by simp [ha])]

/-! ## Clocks and the port -/

theorem exec_clockLowering_of_lower {i mhz : Nat} (hi : i < 160) (h : mhz < Sparse.get 1500 s.dev.clocks i) :
    exec (.clockLowering i mhz) s = .next { s with dev := { s.dev with clocks := Sparse.set 1500 s.dev.clocks i mhz } } :=
  congrArg _ (if_pos (by simp [islands, nominalMhz, hi, h]))

theorem exec_clockLowering_of_not_lower {i mhz : Nat} (h : Sparse.get 1500 s.dev.clocks i ≤ mhz) :
    exec (.clockLowering i mhz) s = .next s :=
  congrArg _ (if_neg (fun hlt => by simp [nominalMhz, h.not_gt] at hlt))

theorem exec_linkTraining_of_mode {rate width : Nat} (hr : rate = 128 ∨ rate = 64 ∨ rate = 32)
    (hw : width = 16 ∨ width = 8 ∨ width = 4) :
    exec (.linkTraining rate width) s = .next { s with dev := { s.dev with linkRate := rate, linkWidth := width } } :=
  congrArg _ (if_pos (by simp [hr, hw]))

/-! ## Orders -/

theorem step_of_order {x : Order} {r : List Turn} (h : s.agenda = .order x :: r) :
    step s = .next ({ s with agenda := r }.obey x) := by
  simp only [step, h]

theorem State.agenda_setThreshold (c t : Nat) : (s.setThreshold c t).agenda = s.agenda := by
  unfold State.setThreshold
  split <;> rfl

theorem State.threshold_setThreshold (c t : Nat) :
    ((s.setThreshold c t).core c).threshold = if 70 ≤ t ∧ t ≤ 105 then t else (s.core c).threshold := by
  unfold State.setThreshold
  split <;> simp

theorem State.temp_obey_sensor (c t : Nat) : ((s.obey (.sensor c t)).core c).temp = t := by
  simp [State.obey]

theorem State.hot_obey_sensor (c t : Nat) : ((s.obey (.sensor c t)).core c).hot = (s.core c).hot := by
  simp [State.obey]

end

/-! ## O55 -/

/-- Settles O55: each clause from the rule of its event or order above, the fields read off by the laws of the state; the core
chosen for a block is unmarked since it is an eligible one (`State.chosenCore_eligible`). -/
theorem marksAndClocks : Obligations.MarksAndClocks := by
  unfold Obligations.MarksAndClocks
  intro s
  refine ⟨?hotMark, fun c t => exec_coreHotMark_of_below s, ?hotClear, fun c => exec_coreHotClear_of_warm s, ?threshold, ?sensor, ?droop,
    ?override, ?noOverride, ?chosen, ?marked, ?clock, fun i mhz => exec_clockLowering_of_not_lower s,
    fun rate width => exec_linkTraining_of_mode s⟩
  case hotMark =>
    intro c t h
    exact ⟨_, exec_coreHotMark_of_reached s h, by simp, fun k hk => by simp [hk], by simp, by simp, rfl, rfl⟩
  case hotClear =>
    intro c h
    exact ⟨_, exec_coreHotClear_of_cooled s h, by simp, fun k hk => by simp [hk], rfl, rfl⟩
  case threshold =>
    intro c t r h
    exact ⟨_, step_of_order s h, State.agenda_setThreshold _ c t, State.threshold_setThreshold _ c t⟩
  case sensor =>
    intro c t r h
    exact ⟨_, step_of_order s h, rfl, State.temp_obey_sensor _ c t, State.hot_obey_sensor _ c t⟩
  case droop =>
    intro q
    constructor
    · exact ⟨_, exec_droopDetect s q, by simp, fun k hk => by simp [hk]⟩
    · exact ⟨_, exec_droopMarkExpiry s q, by simp, fun k hk => by simp [hk]⟩
  case override =>
    intro p hp hne hall
    have hset : ((s.updPart p (fun r => { r with override := true })).part p).override = true := by simp
    exact ⟨_, exec_thermalMarkOverride_of_all s hp hne (fun c hc => (s.coreMarked_iff c).mpr (hall c hc)), hset, rfl,
      State.marked_of_override _ hset⟩
  case noOverride =>
    intro p c hc hhot hdroopy
    exact exec_thermalMarkOverride_of_unmarked s hc (by simp [State.coreMarked, hhot, hdroopy])
  case chosen =>
    intro r own c h
    obtain ⟨hc, he⟩ := s.chosenCore_eligible h
    exact ⟨s.not_marked_of_eligible he, hc⟩
  case marked =>
    intro p c ho h
    exact s.marked_of_coreMarked ho ((s.coreMarked_iff c).mpr h)
  case clock =>
    intro i mhz hi h
    exact ⟨_, exec_clockLowering_of_lower s hi h, Sparse.get_set_same .., fun k hk => Sparse.get_set_ne _ _ _ hk, rfl⟩

end Sys2Proof.Machine
end
section
/-! SUPPORT. Words and their fields (R82 to R93, R101 to R103): what the parser reads back from a word that the encoder lays out,
format by format and row by row, and the proof of O46. -/

namespace Sys2Proof

/-! ## A field of a word is a digit of its number -/

theorem testBit_eq_of_digit {n k : Nat} {b : Bool} (h : n / 2^k % 2 = b.toNat) : n.testBit k = b := by
  rw [Nat.testBit_eq_decide_div_mod_eq, h]
  cases b <;> rfl

theorem ofNat_eq_of_digit {n w : Nat} {x : BitVec w} (h : n % 2^w = x.toNat) : BitVec.ofNat w n = x :=
  BitVec.eq_of_toNat_eq ((BitVec.toNat_ofNat n w).trans h)

/-! ## Codes of the closed lists: each code is read back, and fits its field -/

theorem SetemKind.ofCode_eq {n : Nat} {x : SetemKind} (h : n = x.code) : SetemKind.ofCode n = some x := by subst h; cases x <;> rfl
theorem SetemKind.code_lt (x : SetemKind) : x.code < 4 := by cases x <;> decide
theorem VoteKind.ofCode_eq {n : Nat} {x : VoteKind} (h : n = x.code) : VoteKind.ofCode n = some x := by subst h; cases x <;> rfl
theorem VoteKind.code_lt (x : VoteKind) : x.code < 16 := by cases x <;> decide
theorem RbqSel.ofCode_eq {n : Nat} {x : RbqSel} (h : n = x.code) : RbqSel.ofCode n = some x := by subst h; cases x <;> rfl
theorem RbqSel.code_lt (x : RbqSel) : x.code < 4 := by cases x <;> decide
theorem SmovKind.ofCode_eq {n : Nat} {x : SmovKind} (h : n = x.code) : SmovKind.ofCode n = some x := by subst h; cases x <;> rfl
theorem SmovKind.code_lt (x : SmovKind) : x.code < 4 := by cases x <;> decide
theorem Cc.ofCode_eq {n : Nat} {x : Cc} (h : n = x.code) : Cc.ofCode n = some x := by subst h; cases x <;> rfl
theorem Cc.code_lt (x : Cc) : x.code < 16 := by cases x <;> decide
theorem MoviTy.ofCode_eq {n : Nat} {x : MoviTy} (h : n = x.code) : MoviTy.ofCode n = some x := by subst h; cases x <;> rfl
theorem MoviTy.code_lt (x : MoviTy) : x.code < 4 := by cases x <;> decide
theorem ITy.ofCode_eq {n : Nat} {x : ITy} (h : n = x.code) : ITy.ofCode n = some x := by subst h; cases x <;> rfl
theorem ITy.code_lt (x : ITy) : x.code < 8 := by cases x <;> decide
theorem MulPart.ofCode_eq {n : Nat} {x : MulPart} (h : n = x.code) : MulPart.ofCode n = some x := by subst h; cases x <;> rfl
theorem MulPart.code_lt (x : MulPart) : x.code < 4 := by cases x <;> decide
theorem PmovKind.ofCode_eq {n : Nat} {x : PmovKind} (h : n = x.code) : PmovKind.ofCode n = some x := by subst h; cases x <;> rfl
theorem PmovKind.code_lt (x : PmovKind) : x.code < 4 := by cases x <;> decide
theorem Rm.ofCode_eq {n : Nat} {x : Rm} (h : n = x.code) : Rm.ofCode n = some x := by subst h; cases x <;> rfl
theorem Rm.code_lt (x : Rm) : x.code < 8 := by cases x <;> decide
theorem FTy.ofCode_eq {n : Nat} {x : FTy} (h : n = x.code) : FTy.ofCode n = some x := by subst h; cases x <;> rfl
theorem FTy.code_lt (x : FTy) : x.code < 4 := by cases x <;> decide
theorem Fcc.ofCode_eq {n : Nat} {x : Fcc} (h : n = x.code) : Fcc.ofCode n = some x := by subst h; cases x <;> rfl
theorem Fcc.code_lt (x : Fcc) : x.code < 16 := by cases x <;> decide
theorem NTy.ofCode_eq {n : Nat} {x : NTy} (h : n = x.code) : NTy.ofCode n = some x := by subst h; cases x <;> rfl
theorem NTy.code_lt (x : NTy) : x.code < 16 := by cases x <;> decide
theorem ShflRule.ofCode_eq {n : Nat} {x : ShflRule} (h : n = x.code) : ShflRule.ofCode n = some x := by subst h; cases x <;> rfl
theorem ShflRule.code_lt (x : ShflRule) : x.code < 4 := by cases x <;> decide
theorem RedOp.ofCode_eq {n : Nat} {x : RedOp} (h : n = x.code) : RedOp.ofCode n = some x := by subst h; cases x <;> rfl
theorem RedOp.code_lt (x : RedOp) : x.code < 8 := by cases x <;> decide
theorem RedTy.ofCode_eq {n : Nat} {x : RedTy} (h : n = x.code) : RedTy.ofCode n = some x := by subst h; cases x <;> rfl
theorem RedTy.code_lt (x : RedTy) : x.code < 4 := by cases x <;> decide
theorem RngKind.ofCode_eq {n : Nat} {x : RngKind} (h : n = x.code) : RngKind.ofCode n = some x := by subst h; cases x <;> rfl
theorem RngKind.code_lt (x : RngKind) : x.code < 4 := by cases x <;> decide
theorem AtomOp.ofCode_eq {n : Nat} {x : AtomOp} (h : n = x.code) : AtomOp.ofCode n = some x := by subst h; cases x <;> rfl
theorem AtomOp.code_lt (x : AtomOp) : x.code < 8 := by cases x <;> decide
theorem CpyMode.ofCode_eq {n : Nat} {x : CpyMode} (h : n = x.code) : CpyMode.ofCode n = some x := by subst h; cases x <;> rfl
theorem CpyMode.code_lt (x : CpyMode) : x.code < 4 := by cases x <;> decide
theorem CollKind.ofCode_eq {n : Nat} {x : CollKind} (h : n = x.code) : CollKind.ofCode n = some x := by subst h; cases x <;> rfl
theorem CollKind.code_lt (x : CollKind) : x.code < 8 := by cases x <;> decide
theorem CollOp.ofCode_eq {n : Nat} {x : CollOp} (h : n = x.code) : CollOp.ofCode n = some x := by subst h; cases x <;> rfl
theorem CollOp.code_lt (x : CollOp) : x.code < 8 := by cases x <;> decide
theorem TlbKind.ofCode_eq {n : Nat} {x : TlbKind} (h : n = x.code) : TlbKind.ofCode n = some x := by subst h; cases x <;> rfl
theorem TlbKind.code_lt (x : TlbKind) : x.code < 4 := by cases x <;> decide
theorem HalfMode.ofCode_eq {n : Nat} {x : HalfMode} (h : n = x.code) : HalfMode.ofCode n = some x := by subst h; cases x <;> rfl
theorem HalfMode.code_lt (x : HalfMode) : x.code < 4 := by cases x <;> decide

/-! ## Full words (R85) -/

theorem fullWord_lt {k : Nat} {g : Guard} {body : Nat} (hk : k < 256) (hb : body < 2^51) : fullWord k g body < 2^63 := by
  have := g.pn.toNat_lt
  simp only [fullWord]
  omega

theorem opcOf_fullWord {k : Nat} {g : Guard} {body : Nat} (hk : k < 256) (hb : body < 2^51) : opcOf (fullWord k g body) = k := by
  have := g.pn.toNat_lt
  simp only [fullWord, opcOf]
  omega

theorem Guard.ofNat_fullWord {k : Nat} {g : Guard} {body : Nat} (hb : body < 2^51) : Guard.ofNat (fullWord k g body) = g := by
  have := g.pn.toNat_lt
  have hp : fullWord k g body / 2^52 % 2^3 = g.pg.toNat := by simp only [fullWord]; omega
  have hn : fullWord k g body / 2^51 % 2 = g.pn.toNat := by simp only [fullWord]; omega
  rw [Guard.ofNat, ofNat_eq_of_digit hp, testBit_eq_of_digit hn]

theorem opcAssigned_lt {k : Nat} (h : opcAssigned k = true) : k < 256 := by
  by_contra hk
  simp only [opcAssigned, Bool.or_eq_true, Bool.and_eq_true, decide_eq_true_eq] at h
  omega

/-- The part of `parse` for the words of one opcode. -/
def parserOf (k : Nat) : Nat → Option Instr :=
  if k < 0x20 then parseControl
  else if k < 0x40 then parseScalar
  else if k < 0x80 then parseVector
  else if k < 0xB0 then parseFloat
  else if k < 0xD0 then parseMemory
  else if k < 0xE8 then parseLathe
  else parseSystem

theorem parse_of_full {n : Nat} (h : n.testBit 63 = false) : parse n = parserOf (opcOf n) n := by
  unfold parse parserOf
  rw [h, if_neg (by simp)]
  split_ifs <;> rfl

/-- The word of `i` spells it: it fits 64 bits, its opcode or op6 codes are assigned, and the parser gives `i` back. -/
structure Instr.Spelled (i : Instr) : Prop where
  lt : i.wordNat < 2^64
  assigned : assigned i.wordNat = true
  parsed : parse i.wordNat = some i

/-- Decoding accepts the word that spells a well-formed instruction. -/
theorem Instr.Spelled.decode_encode {i : Instr} (h : i.Spelled) (hw : i.wf = true) (hp : i.pairs = true) : decode (encode i) = .ok i := by
  have hn : (encode i).toNat = i.wordNat := by rw [encode, BitVec.toNat_ofNat, Nat.mod_eq_of_lt h.lt]
  simp [decode, hn, h.assigned, h.parsed, hw, hp]

/-- A full word spells its instruction once the parser of its opcode reads it. -/
theorem Instr.spelled_of_full {i : Instr} {k : Nat} {g : Guard} {body : Nat} (hw : i.wordNat = fullWord k g body)
    (ha : opcAssigned k = true) (hb : body < 2^51) (hp : parserOf k (fullWord k g body) = some i) : i.Spelled := by
  have hk := opcAssigned_lt ha
  have hlt := fullWord_lt (g := g) hk hb
  have h63 : (fullWord k g body).testBit 63 = false := Nat.testBit_lt_two_pow hlt
  refine ⟨by omega, ?_, ?_⟩
  · rw [hw, assigned, h63, opcOf_fullWord hk hb]
    exact ha
  · rw [hw, parse_of_full h63, opcOf_fullWord hk hb, hp]

/-! ## The formats (R87 to R93)

For each format: its fields are read back, its low bits are SUB, and so its word spells every instruction that the parser of its opcode
makes of these. -/

/-- `w` is a full word of opcode `k` from which `ofNat` reads the operands `f`, with `sub` below them. -/
def Lays {F : Type} (ofNat : Nat → F) (m k : Nat) (f : F) (sub w : Nat) : Prop :=
  ∃ g body, body < 2^51 ∧ w = fullWord k g body ∧ ofNat w = f ∧ w % m = sub

/-- So the word spells every instruction that the parser `p` of its opcode makes of these. -/
theorem Lays.spelled {F : Type} {ofNat : Nat → F} {m k : Nat} {f : F} {sub w : Nat} {i : Instr} (h : Lays ofNat m k f sub w)
    (p : Nat → Option Instr) (hw : i.wordNat = w) (hp : ∀ n, opcOf n = k → ofNat n = f → n % m = sub → p n = some i)
    (hk : parserOf k = p := by rfl) (ha : opcAssigned k = true := by decide) : i.Spelled := by
  obtain ⟨g, body, hb, rfl, hf, hm⟩ := h
  subst hk
  exact Instr.spelled_of_full hw ha hb (hp _ (opcOf_fullWord (opcAssigned_lt ha) hb) hf hm)

theorem FA.lays (f : FA) {k sub : Nat} (hs : sub < 256 := by omega) : Lays FA.ofNat 256 k f sub (f.word k sub) := by
  have := f.g.pn.toNat_lt
  have := f.lra.toNat_lt
  have := f.lrb.toNat_lt
  have := f.lrc.toNat_lt
  refine ⟨f.g, _, by omega, rfl, FA.mk.injEq .. ▸ ⟨
    Guard.ofNat_fullWord (by omega), ofNat_eq_of_digit ?_, ofNat_eq_of_digit ?_, ofNat_eq_of_digit ?_, ofNat_eq_of_digit ?_,
    ofNat_eq_of_digit ?_, ofNat_eq_of_digit ?_, ofNat_eq_of_digit ?_, testBit_eq_of_digit ?_, testBit_eq_of_digit ?_,
    testBit_eq_of_digit ?_⟩, ?_⟩
  all_goals simp only [FA.word, fullWord]; omega

theorem FI.lays (f : FI) {k sub : Nat} (hs : sub < 4 := by omega) : Lays FI.ofNat 4 k f sub (f.word k sub) := by
  have := f.g.pn.toNat_lt
  have := f.lra.toNat_lt
  refine ⟨f.g, _, by omega, rfl, FI.mk.injEq .. ▸ ⟨
    Guard.ofNat_fullWord (by omega), ofNat_eq_of_digit ?_, ofNat_eq_of_digit ?_, ofNat_eq_of_digit ?_,
    testBit_eq_of_digit ?_⟩, ?_⟩
  all_goals simp only [FI.word, fullWord]; omega

theorem FMg.lays (f : FMg) {k sub : Nat} (hs : sub < 32 := by omega) : Lays FMg.ofNat 32 k f sub (f.word k sub) := by
  have := f.g.pn.toNat_lt
  have := f.lrv.toNat_lt
  have := f.lro.toNat_lt
  refine ⟨f.g, _, by omega, rfl, FMg.mk.injEq .. ▸ ⟨
    Guard.ofNat_fullWord (by omega), ofNat_eq_of_digit ?_, ofNat_eq_of_digit ?_, ofNat_eq_of_digit ?_, ofNat_eq_of_digit ?_,
    ofNat_eq_of_digit ?_, ofNat_eq_of_digit ?_, ofNat_eq_of_digit ?_, testBit_eq_of_digit ?_, testBit_eq_of_digit ?_,
    ofNat_eq_of_digit ?_⟩, ?_⟩
  all_goals simp only [FMg.word, fullWord]; omega

theorem FMt.lays (f : FMt) {k sub : Nat} (hs : sub < 512 := by omega) : Lays FMt.ofNat 512 k f sub (f.word k sub) := by
  have := f.g.pn.toNat_lt
  have := f.lrv.toNat_lt
  have := f.lri.toNat_lt
  refine ⟨f.g, _, by omega, rfl, FMt.mk.injEq .. ▸ ⟨
    Guard.ofNat_fullWord (by omega), ofNat_eq_of_digit ?_, ofNat_eq_of_digit ?_, ofNat_eq_of_digit ?_, ofNat_eq_of_digit ?_,
    ofNat_eq_of_digit ?_, ofNat_eq_of_digit ?_, testBit_eq_of_digit ?_, testBit_eq_of_digit ?_⟩, ?_⟩
  all_goals simp only [FMt.word, fullWord]; omega

theorem FC.lays (f : FC) {k sub : Nat} (hs : sub < 256 := by omega) : Lays FC.ofNat 256 k f sub (f.word k sub) := by
  have := f.g.pn.toNat_lt
  refine ⟨f.g, _, by omega, rfl, FC.mk.injEq .. ▸ ⟨
    Guard.ofNat_fullWord (by omega), ofNat_eq_of_digit ?_, ofNat_eq_of_digit ?_, ofNat_eq_of_digit ?_⟩, ?_⟩
  all_goals simp only [FC.word, fullWord]; omega

theorem FJ.lays (f : FJ) {k sub : Nat} (hs : sub < 2^11 := by omega) : Lays FJ.ofNat (2^11) k f sub (f.word k sub) := by
  have := f.g.pn.toNat_lt
  have := f.stgv.toNat_lt
  refine ⟨f.g, _, by omega, rfl, FJ.mk.injEq .. ▸ ⟨
    Guard.ofNat_fullWord (by omega), ofNat_eq_of_digit ?_, ofNat_eq_of_digit ?_, ofNat_eq_of_digit ?_, ofNat_eq_of_digit ?_,
    ofNat_eq_of_digit ?_, ofNat_eq_of_digit ?_, ofNat_eq_of_digit ?_, testBit_eq_of_digit ?_, ofNat_eq_of_digit ?_⟩, ?_⟩
  all_goals simp only [FJ.word, fullWord]; omega

theorem FS.lays (f : FS) {k sub : Nat} (hs : sub < 2^23 := by omega) : Lays FS.ofNat (2^23) k f sub (f.word k sub) := by
  have := f.g.pn.toNat_lt
  refine ⟨f.g, _, by omega, rfl, FS.mk.injEq .. ▸ ⟨
    Guard.ofNat_fullWord (by omega), ofNat_eq_of_digit ?_, ofNat_eq_of_digit ?_, ofNat_eq_of_digit ?_⟩, ?_⟩
  all_goals simp only [FS.word, fullWord]; omega

/-- SCMP and ICMP with an immediate: the condition lies above it (R194, R207). -/
theorem OpCmp.lays_i {g : Guard} {d a : BitVec 8} {x : BitVec 28} {lra : Bool} {k cc : Nat} (hc : cc < 16) :
    Lays (fun n => (cmpI n, n / 2^31 % 16)) 1 k (.i g d a x lra, cc) 0
      (fullWord k g (d.toNat * 2^43 + a.toNat * 2^35 + (cc * 2^28 + x.toNat) * 2^3 + lra.toNat * 2^2)) := by
  have := g.pn.toNat_lt
  have := lra.toNat_lt
  refine ⟨g, _, by omega, rfl, Prod.mk.injEq .. ▸ ⟨OpCmp.i.injEq .. ▸ ⟨Guard.ofNat_fullWord (by omega), ofNat_eq_of_digit ?_,
    ofNat_eq_of_digit ?_, ofNat_eq_of_digit ?_, testBit_eq_of_digit ?_⟩, ?_⟩, Nat.mod_one _⟩
  all_goals simp only [fullWord]; omega

/-- CVT's word is read back whole (R217). -/
theorem lays_cvtWord (g : Guard) (d a : BitVec 8) (hsA : Bool) (he : BitVec 2) (lra : Bool) (k : CvtCtl) :
    Lays parseCvt 1 0x98 (some (.cvt g d a hsA he lra k)) 0 (cvtWord g d a hsA he lra k) := by
  have := g.pn.toNat_lt
  have := hsA.toNat_lt
  have := lra.toNat_lt
  have := k.ftz.toNat_lt
  have := k.sat.toNat_lt
  have := k.dst.code_lt
  have := k.src.code_lt
  have := k.rm.code_lt
  refine ⟨g, _, by omega, rfl, ?_, Nat.mod_one _⟩
  rw [parseCvt, cvtWord, Guard.ofNat_fullWord (by omega), NTy.ofCode_eq (x := k.dst), NTy.ofCode_eq (x := k.src),
    Rm.ofCode_eq (x := k.rm)]
  · refine congrArg some (Instr.cvt.injEq .. ▸ ⟨rfl, ofNat_eq_of_digit ?_, ofNat_eq_of_digit ?_, testBit_eq_of_digit ?_,
      ofNat_eq_of_digit ?_, testBit_eq_of_digit ?_, CvtCtl.mk.injEq .. ▸ ⟨rfl, rfl, ofNat_eq_of_digit ?_, ofNat_eq_of_digit ?_,
      testBit_eq_of_digit ?_, testBit_eq_of_digit ?_, rfl⟩⟩)
    all_goals simp only [fullWord]; omega
  all_goals simp only [fullWord]; omega

/-! ## Modifiers read together -/

theorem FMode.sub_lt (m : FMode) : m.sub < 64 := by
  have := m.ftz.toNat_lt
  have := m.rm.code_lt
  have := m.ty.code_lt
  simp only [FMode.sub]
  omega

theorem parseFMode_eq {n : Nat} {m : FMode} (h : n % 64 = m.sub) : parseFMode n = some m := by
  have := m.ftz.toNat_lt
  have := m.rm.code_lt
  have := m.ty.code_lt
  simp only [FMode.sub] at h
  simp (disch := omega) only [parseFMode, Rm.ofCode_eq (x := m.rm), FTy.ofCode_eq (x := m.ty), testBit_eq_of_digit (b := m.ftz)]

theorem ITy.code_lt_of_w32 {t : ITy} (h : t.w32 = true) : t.code < 2 := by
  cases t with
  | s32 | n32 => decide
  | _ => cases h

theorem ityI_eq {n : Nat} {t : ITy} (h : t.w32 = true) (hn : n % 2 = t.code) : ityI n = t := by
  rw [ityI, Nat.testBit_zero, hn]
  cases t with
  | s32 | n32 => rfl
  | _ => cases h

theorem Rm.code_lt_of_static {rm : Rm} (h : rm.static = true) : rm.code < 4 := by
  cases rm with
  | rn | rz | ru | rd => decide
  | _ => cases h

/-! ## The rows of R106, table by table -/

/-- The tables of R106, by the parser that reads their words: control and groups, the scalar pipe, vector integers and predicates, float
and conversions, memory and copies, the Lathe, the system. Dual words stand apart, and rows without a word are bare. -/
inductive OpcTable where
  | dual | control | scalar | vector | float | memory | lathe | system | bare

/-- The table of an instruction's row. -/
def Instr.table : Instr → OpcTable
  | .dualWord .. => .dual
  | .nop | .bra .. | .braC .. | .brx .. | .call .. | .callx .. | .ret .. | .rjoin .. | .exit .. | .loop .. | .lbrk ..
  | .yield .. | .getem .. | .setem .. | .vote .. | .getid .. | .setstage .. | .bar .. | .bara .. | .barw .. | .rbtake ..
  | .rbgive .. | .rbq .. => .control
  | .smov .. | .smovi .. | .sadd .. | .ssub .. | .smul .. | .sand .. | .sor .. | .sxor .. | .sshl .. | .sshr .. | .scmp ..
  | .ssel .. | .sld .. | .sbr .. | .abind .. | .aq .. => .scalar
  | .mov .. | .movi .. | .sel .. | .iadd .. | .iadd3 .. | .isub .. | .imul .. | .imad .. | .idiv .. | .irem .. | .imin ..
  | .imax .. | .iabs .. | .isad .. | .and .. | .or .. | .xor .. | .andn .. | .shl .. | .shr .. | .sar .. | .rot .. | .popc ..
  | .clz .. | .brev .. | .bfx .. | .bfi .. | .icmp .. | .pand .. | .por .. | .pxor .. | .pnot .. | .pmov .. => .vector
  | .fadd .. | .fsub .. | .fmul .. | .ffma .. | .fmin .. | .fmax .. | .fcmp .. | .fclass .. | .frnd .. | .fdiv .. | .fsqrt ..
  | .frcp .. | .frsq .. | .fsin .. | .fcos .. | .fexp2 .. | .flog2 .. | .ftanh .. | .cvt .. | .pack .. | .unpack ..
  | .bpsplit .. | .bpjoin .. | .tagset .. | .tagget .. | .shfl .. | .redg .. | .scang .. | .rng .. | .rqscale .. | .rquant ..
  | .rdeq .. => .float
  | .ld .. | .st .. | .atom .. | .cas .. | .ll .. | .sc .. | .fence .. | .talloc .. | .tfree .. | .tq .. | .tld .. | .tst ..
  | .cpy .. | .cpyg .. | .cpys .. | .cbinit .. | .cbarr .. | .cbwait .. | .cbtest .. | .coll .. => .memory
  | .mloadb .. | .mswap .. | .mma .. | .scanl .. | .scanp .. | .autoCfg .. | .autoSeed .. | .autoLdx .. | .autoInf ..
  | .autoFb1 .. | .autoFb2 .. | .autoRd .. | .autoWr .. | .autoFence .. => .lathe
  | .exitJ .. | .nodemk .. | .nodedel .. | .nodeq .. | .spawn .. | .jinit .. | .jwait .. | .estw .. | .estq .. | .estf ..
  | .ckmark .. | .cksnap .. | .ckroll .. | .ckdrop .. | .glaunch .. | .gcond .. | .qend .. | .trap .. | .eret .. | .mfsr ..
  | .mtsr .. | .pmap .. | .tlbinv .. => .system
  | _ => .bare

theorem Instr.spelled_control {i : Instr} (ht : i.table = .control) : i.Spelled := by
  cases i with
  | nop =>
    exact (FC.lays ⟨⟨0, false⟩, 0, 0, 0⟩ (k := 0) (sub := 0)).spelled parseControl (by simp [Instr.wordNat, FC.word, fullWord])
      fun n ho _ _ => by simp only [parseControl, ho]
  | bra f | braC f | brx f | call f | callx f | ret f | rjoin f | exit f | lbrk f | yield f | bar f | bara f | barw f
  | rbtake f | rbgive f =>
    exact f.lays.spelled parseControl rfl fun n ho hf _ => by simp only [parseControl, ho, hf]
  | loop f b | getem f b | setstage f b =>
    have := b.toNat_lt
    exact f.lays.spelled parseControl rfl fun n ho hf hs => by
      simp (disch := omega) only [parseControl, ho, hf, testBit_eq_of_digit (b := b)]
  | setem f k =>
    have := k.code_lt
    exact f.lays.spelled parseControl rfl fun n ho hf hs => by
      simp (disch := omega) only [parseControl, ho, hf, SetemKind.ofCode_eq (x := k), Option.map_some]
  | vote f k =>
    have := k.code_lt
    exact f.lays.spelled parseControl rfl fun n ho hf hs => by
      simp (disch := omega) only [parseControl, ho, hf, VoteKind.ofCode_eq (x := k), Option.map_some]
  | getid f id toS =>
    have := toS.toNat_lt
    exact f.lays.spelled parseControl rfl fun n ho hf hs => by
      simp (disch := omega) only [parseControl, ho, hf, ofNat_eq_of_digit (x := id), testBit_eq_of_digit (b := toS)]
  | rbq f k =>
    have := k.code_lt
    exact f.lays.spelled parseControl rfl fun n ho hf hs => by
      simp (disch := omega) only [parseControl, ho, hf, RbqSel.ofCode_eq (x := k), Option.map_some]
  | _ => cases ht

theorem Instr.spelled_scalar {i : Instr} (ht : i.table = .scalar) : i.Spelled := by
  cases i with
  | smov f k =>
    have := k.code_lt
    exact f.lays.spelled parseScalar rfl fun n ho hf hs => by
      simp (disch := omega) only [parseScalar, ho, hf, SmovKind.ofCode_eq (x := k), Option.map_some]
  | smovi f | ssub f | smul f | ssel f | abind f =>
    exact f.lays.spelled parseScalar rfl fun n ho hf _ => by simp only [parseScalar, ho, hf]
  | sadd o | sand o | sor o | sxor o | sshl o =>
    cases o with
    | a f => exact f.lays.spelled parseScalar rfl fun n ho hf _ => by simp only [parseScalar, ho, hf]
    | i f => exact f.lays.spelled parseScalar rfl fun n ho hf _ => by simp only [parseScalar, ho, hf]
  | sshr o b =>
    have := b.toNat_lt
    cases o with
    | a f =>
      exact f.lays.spelled parseScalar rfl fun n ho hf hs => by
        simp (disch := omega) only [parseScalar, ho, hf, testBit_eq_of_digit (b := b)]
    | i f =>
      exact f.lays.spelled parseScalar rfl fun n ho hf hs => by
        simp (disch := omega) only [parseScalar, ho, hf, testBit_eq_of_digit (b := b)]
  | scmp o cc =>
    cases o with
    | a f =>
      have := cc.code_lt
      exact f.lays.spelled parseScalar rfl fun n ho hf hs => by
        simp (disch := omega) only [parseScalar, ho, hf, Cc.ofCode_eq (x := cc), Option.map_some]
    | i g d a x lra =>
      exact (OpCmp.lays_i cc.code_lt).spelled parseScalar rfl fun n ho hf _ => by
        obtain ⟨hx, hc⟩ := Prod.mk.inj hf
        simp only [parseScalar, ho, hx, Cc.ofCode_eq hc, Option.map_some]
  | sld f b | sbr f b =>
    have := b.toNat_lt
    exact f.lays.spelled parseScalar rfl fun n ho hf hs => by
      simp (disch := omega) only [parseScalar, ho, hf, testBit_eq_of_digit (b := b)]
  | aq f x =>
    exact f.lays.spelled parseScalar rfl fun n ho hf hs => by
      simp (disch := omega) only [parseScalar, ho, hf, ofNat_eq_of_digit (x := x)]
  | _ => cases ht

theorem Instr.spelled_vector {i : Instr} (ht : i.table = .vector) (hw : i.wf = true) : i.Spelled := by
  cases i with
  | mov f b | andn f b | bfx f b =>
    have := b.toNat_lt
    exact f.lays.spelled parseVector rfl fun n ho hf hs => by
      simp (disch := omega) only [parseVector, ho, hf, testBit_eq_of_digit (b := b)]
  | movi f t =>
    have := t.code_lt
    exact f.lays.spelled parseVector rfl fun n ho hf hs => by
      simp (disch := omega) only [parseVector, ho, hf, MoviTy.ofCode_eq (x := t), Option.map_some]
  | sel f | popc f | clz f | brev f | bfi f | pnot f =>
    exact f.lays.spelled parseVector rfl fun n ho hf _ => by simp only [parseVector, ho, hf]
  | iadd o t sat =>
    have := t.code_lt
    have := sat.toNat_lt
    cases o with
    | a f =>
      exact f.lays.spelled parseVector rfl fun n ho hf hs => by
        simp (disch := omega) only [parseVector, ho, hf, ITy.ofCode_eq (x := t), testBit_eq_of_digit (b := sat), Option.map_some]
    | i f =>
      obtain ⟨_, h32⟩ : _ ∧ t.w32 = true := by simpa only [Instr.wf, Bool.and_eq_true] using hw
      have := t.code_lt_of_w32 h32
      exact f.lays.spelled parseVector rfl fun n ho hf hs => by
        simp (disch := omega) only [parseVector, ho, hf, ityI_eq h32, testBit_eq_of_digit (b := sat)]
  | iadd3 f t | idiv f t | irem f t | imin f t | imax f t | isad f t =>
    have := t.code_lt
    exact f.lays.spelled parseVector rfl fun n ho hf hs => by
      simp (disch := omega) only [parseVector, ho, hf, ITy.ofCode_eq (x := t), Option.map_some]
  | isub f t sat | iabs f t sat =>
    have := t.code_lt
    have := sat.toNat_lt
    exact f.lays.spelled parseVector rfl fun n ho hf hs => by
      simp (disch := omega) only [parseVector, ho, hf, ITy.ofCode_eq (x := t), testBit_eq_of_digit (b := sat), Option.map_some]
  | imul o t sat part =>
    have := t.code_lt
    have := sat.toNat_lt
    have := part.code_lt
    cases o with
    | a f =>
      exact f.lays.spelled parseVector rfl fun n ho hf hs => by
        simp (disch := omega) only [parseVector, ho, hf, ITy.ofCode_eq (x := t), MulPart.ofCode_eq (x := part),
          testBit_eq_of_digit (b := sat)]
    | i f =>
      obtain ⟨⟨_, h32⟩, rfl⟩ : (_ ∧ t.w32 = true) ∧ part = .lo := by simpa only [Instr.wf, Bool.and_eq_true, beq_iff_eq] using hw
      have := t.code_lt_of_w32 h32
      exact f.lays.spelled parseVector rfl fun n ho hf hs => by
        simp (disch := omega) only [parseVector, ho, hf, ityI_eq h32, testBit_eq_of_digit (b := sat)]
  | imad f t sat wide =>
    have := t.code_lt
    have := sat.toNat_lt
    have := wide.toNat_lt
    exact f.lays.spelled parseVector rfl fun n ho hf hs => by
      simp (disch := omega) only [parseVector, ho, hf, ITy.ofCode_eq (x := t), testBit_eq_of_digit (b := sat),
        testBit_eq_of_digit (b := wide), Option.map_some]
  | and o b64 | or o b64 | xor o b64 =>
    have := b64.toNat_lt
    cases o with
    | a f =>
      exact f.lays.spelled parseVector rfl fun n ho hf hs => by
        simp (disch := omega) only [parseVector, ho, hf, testBit_eq_of_digit (b := b64)]
    | i f =>
      obtain ⟨_, rfl⟩ : _ ∧ b64 = false := by simpa only [Instr.wf, Bool.and_eq_true, Bool.not_eq_true'] using hw
      exact f.lays.spelled parseVector rfl fun n ho hf _ => by simp only [parseVector, ho, hf]
  | shl o | shr o | sar o | rot o =>
    cases o with
    | a f => exact f.lays.spelled parseVector rfl fun n ho hf _ => by simp only [parseVector, ho, hf]
    | i f => exact f.lays.spelled parseVector rfl fun n ho hf _ => by simp only [parseVector, ho, hf]
  | icmp o cc b64 =>
    cases o with
    | a f =>
      have := cc.code_lt
      have := b64.toNat_lt
      exact f.lays.spelled parseVector rfl fun n ho hf hs => by
        simp (disch := omega) only [parseVector, ho, hf, Cc.ofCode_eq (x := cc), testBit_eq_of_digit (b := b64), Option.map_some]
    | i g d a x lra =>
      obtain ⟨_, rfl⟩ : _ ∧ b64 = false := by simpa only [Instr.wf, Bool.and_eq_true, Bool.not_eq_true'] using hw
      exact (OpCmp.lays_i cc.code_lt).spelled parseVector rfl fun n ho hf _ => by
        obtain ⟨hx, hc⟩ := Prod.mk.inj hf
        simp only [parseVector, ho, hx, Cc.ofCode_eq hc, Option.map_some]
  | pand f na nb | por f na nb | pxor f na nb =>
    have := na.toNat_lt
    have := nb.toNat_lt
    exact f.lays.spelled parseVector rfl fun n ho hf hs => by
      simp (disch := omega) only [parseVector, ho, hf, testBit_eq_of_digit (b := na), testBit_eq_of_digit (b := nb)]
  | pmov f k =>
    have := k.code_lt
    exact f.lays.spelled parseVector rfl fun n ho hf hs => by
      simp (disch := omega) only [parseVector, ho, hf, PmovKind.ofCode_eq (x := k), Option.map_some]
  | _ => cases ht

theorem Instr.spelled_float {i : Instr} (ht : i.table = .float) (hw : i.wf = true) : i.Spelled := by
  cases i with
  | fadd o m | fmul o m =>
    have := m.sub_lt
    cases o with
    | a f =>
      exact f.lays.spelled parseFloat rfl fun n ho hf hs => by
        simp (disch := omega) only [parseFloat, ho, hf, parseFMode_eq (m := m), Option.map_some]
    | i f =>
      obtain ⟨ftz, rm, ty⟩ := m
      obtain ⟨⟨_, rfl⟩, rfl⟩ : (_ ∧ rm = .rn) ∧ ty = .f32 := by simpa only [Instr.wf, Bool.and_eq_true, beq_iff_eq] using hw
      have := ftz.toNat_lt
      exact (f.lays (sub := ftz.toNat)).spelled parseFloat rfl fun n ho hf hs => by
        simp (disch := omega) only [parseFloat, ho, hf, testBit_eq_of_digit (b := ftz)]
  | fsub f m | ffma f m | frnd f m =>
    have := m.sub_lt
    exact f.lays.spelled parseFloat rfl fun n ho hf hs => by
      simp (disch := omega) only [parseFloat, ho, hf, parseFMode_eq (m := m), Option.map_some]
  | fmin f ftz ty | fmax f ftz ty =>
    have := ftz.toNat_lt
    have := ty.code_lt
    exact f.lays.spelled parseFloat rfl fun n ho hf hs => by
      simp (disch := omega) only [parseFloat, ho, hf, FTy.ofCode_eq (x := ty), testBit_eq_of_digit (b := ftz), Option.map_some]
  | fcmp f cc ty e1 =>
    have := cc.code_lt
    have := ty.code_lt
    have := e1.toNat_lt
    exact f.lays.spelled parseFloat rfl fun n ho hf hs => by
      simp (disch := omega) only [parseFloat, ho, hf, Fcc.ofCode_eq (x := cc), FTy.ofCode_eq (x := ty), testBit_eq_of_digit (b := e1)]
  | fclass f ty e1 =>
    have := ty.code_lt
    have := e1.toNat_lt
    exact f.lays.spelled parseFloat rfl fun n ho hf hs => by
      simp (disch := omega) only [parseFloat, ho, hf, FTy.ofCode_eq (x := ty), testBit_eq_of_digit (b := e1), Option.map_some]
  | fdiv f ftz rm | fsqrt f ftz rm =>
    have := ftz.toNat_lt
    have := rm.code_lt
    exact f.lays.spelled parseFloat rfl fun n ho hf hs => by
      simp (disch := omega) only [parseFloat, ho, hf, Rm.ofCode_eq (x := rm), testBit_eq_of_digit (b := ftz), Option.map_some]
  | frcp f | frsq f | fsin f | fcos f | fexp2 f | flog2 f | ftanh f | tagget f | rquant f | rdeq f =>
    exact f.lays.spelled parseFloat rfl fun n ho hf _ => by simp only [parseFloat, ho, hf]
  | cvt g d a hsA he lra k =>
    exact (lays_cvtWord g d a hsA he lra k).spelled parseFloat rfl fun n ho hf _ => by simp only [parseFloat, ho, hf]
  | pack f t sat rm =>
    have := t.code_lt
    have := rm.code_lt
    have := sat.toNat_lt
    exact f.lays.spelled parseFloat rfl fun n ho hf hs => by
      simp (disch := omega) only [parseFloat, ho, hf, NTy.ofCode_eq (x := t), Rm.ofCode_eq (x := rm), testBit_eq_of_digit (b := sat)]
  | unpack f t h =>
    have := t.code_lt
    have := h.toNat_lt
    exact f.lays.spelled parseFloat rfl fun n ho hf hs => by
      simp (disch := omega) only [parseFloat, ho, hf, NTy.ofCode_eq (x := t), testBit_eq_of_digit (b := h), Option.map_some]
  | bpsplit f x | tagset f x =>
    exact f.lays.spelled parseFloat rfl fun n ho hf hs => by simp (disch := omega) only [parseFloat, ho, hf, ofNat_eq_of_digit (x := x)]
  | bpjoin f q k1 =>
    exact f.lays.spelled parseFloat rfl fun n ho hf hs => by
      simp (disch := omega) only [parseFloat, ho, hf, ofNat_eq_of_digit (x := q), ofNat_eq_of_digit (x := k1)]
  | shfl o rule ring zf =>
    have := rule.code_lt
    have := ring.toNat_lt
    have := zf.toNat_lt
    cases o with
    | a f =>
      exact f.lays.spelled parseFloat rfl fun n ho hf hs => by
        simp (disch := omega) only [parseFloat, ho, hf, ShflRule.ofCode_eq (x := rule), testBit_eq_of_digit (b := ring),
          testBit_eq_of_digit (b := zf), Option.map_some]
    | i g d a x lra =>
      exact (FI.lays _).spelled parseFloat rfl fun n ho hf hs => by
        simp only [FI.ofNat, FI.mk.injEq] at hf
        obtain ⟨hg, hd, ha, hx, hl⟩ := hf
        have hx := congrArg BitVec.toNat hx
        simp only [BitVec.toNat_ofNat] at hx
        simp (disch := omega) only [parseFloat, ho, hg, hd, ha, hl, ShflRule.ofCode_eq (x := rule), ofNat_eq_of_digit (x := x),
          testBit_eq_of_digit (b := ring), testBit_eq_of_digit (b := zf), Option.map_some]
  | redg f op ty rm =>
    obtain ⟨⟨⟨_, hst⟩, _⟩, _⟩ : ((_ ∧ rm.static = true) ∧ _) ∧ _ := by simpa only [Instr.wf, Bool.and_eq_true] using hw
    have := op.code_lt
    have := ty.code_lt
    have := Rm.code_lt_of_static hst
    exact f.lays.spelled parseFloat rfl fun n ho hf hs => by
      simp (disch := omega) only [parseFloat, ho, hf, RedOp.ofCode_eq (x := op), RedTy.ofCode_eq (x := ty), Rm.ofCode_eq (x := rm)]
  | scang f excl op ty rm =>
    obtain ⟨⟨⟨_, hst⟩, _⟩, _⟩ : ((_ ∧ rm.static = true) ∧ _) ∧ _ := by simpa only [Instr.wf, Bool.and_eq_true] using hw
    have := op.code_lt
    have := ty.code_lt
    have := excl.toNat_lt
    have := Rm.code_lt_of_static hst
    exact f.lays.spelled parseFloat rfl fun n ho hf hs => by
      simp (disch := omega) only [parseFloat, ho, hf, RedOp.ofCode_eq (x := op), RedTy.ofCode_eq (x := ty), Rm.ofCode_eq (x := rm),
        testBit_eq_of_digit (b := excl)]
  | rng f k =>
    have := k.code_lt
    exact f.lays.spelled parseFloat rfl fun n ho hf hs => by
      simp (disch := omega) only [parseFloat, ho, hf, RngKind.ofCode_eq (x := k), Option.map_some]
  | rqscale f b =>
    have := b.toNat_lt
    exact f.lays.spelled parseFloat rfl fun n ho hf hs => by
      simp (disch := omega) only [parseFloat, ho, hf, testBit_eq_of_digit (b := b)]
  | _ => cases ht

theorem Instr.spelled_memory {i : Instr} (ht : i.table = .memory) (hw : i.wf = true) : i.Spelled := by
  cases i with
  | ld f k =>
    cases k with
    | reg x tag =>
      have := x.toNat_lt
      have htag : tag.toNat ≠ 15 := fun h => by
        obtain rfl : tag = 15 := BitVec.eq_of_toNat_eq h
        simp [Instr.wf] at hw
      exact f.lays.spelled parseMemory rfl fun n ho hf hs => by
        simp (disch := omega) only [parseMemory, ho, hf, if_neg, testBit_eq_of_digit (b := x), ofNat_eq_of_digit (x := tag)]
    | pred => exact f.lays.spelled parseMemory rfl fun n ho hf hs => by simp only [parseMemory, ho, hf, hs, if_true]
  | st f k =>
    cases k with
    | reg x =>
      have := x.toNat_lt
      exact f.lays.spelled parseMemory rfl fun n ho hf hs => by
        simp (disch := omega) only [parseMemory, ho, hf, if_neg, testBit_eq_of_digit (b := x)]
    | pred => exact f.lays.spelled parseMemory rfl fun n ho hf hs => by simp only [parseMemory, ho, hf, hs, if_true]
  | atom f op u nr =>
    have := op.code_lt
    have := u.toNat_lt
    have := nr.toNat_lt
    exact f.lays.spelled parseMemory rfl fun n ho hf hs => by
      simp (disch := omega) only [parseMemory, ho, hf, AtomOp.ofCode_eq (x := op), testBit_eq_of_digit (b := u),
        testBit_eq_of_digit (b := nr), Option.map_some]
  | cas f | tfree f | cbinit f | cbarr f | cbwait f | cbtest f =>
    exact f.lays.spelled parseMemory rfl fun n ho hf _ => by simp only [parseMemory, ho, hf]
  | ll f x | sc f x | tq f x | tst f x =>
    exact f.lays.spelled parseMemory rfl fun n ho hf hs => by
      simp (disch := omega) only [parseMemory, ho, hf, ofNat_eq_of_digit (x := x)]
  | fence f b | talloc f b =>
    have := b.toNat_lt
    exact f.lays.spelled parseMemory rfl fun n ho hf hs => by
      simp (disch := omega) only [parseMemory, ho, hf, testBit_eq_of_digit (b := b)]
  | tld f sz signed =>
    have := signed.toNat_lt
    exact f.lays.spelled parseMemory rfl fun n ho hf hs => by
      simp (disch := omega) only [parseMemory, ho, hf, ofNat_eq_of_digit (x := sz), testBit_eq_of_digit (b := signed)]
  | cpy f mode nb =>
    have := mode.code_lt
    have := nb.toNat_lt
    exact f.lays.spelled parseMemory rfl fun n ho hf hs => by
      simp (disch := omega) only [parseMemory, ho, hf, CpyMode.ofCode_eq (x := mode), testBit_eq_of_digit (b := nb), Option.map_some]
  | cpyg f e nb | cpys f e nb =>
    have := nb.toNat_lt
    exact f.lays.spelled parseMemory rfl fun n ho hf hs => by
      simp (disch := omega) only [parseMemory, ho, hf, ofNat_eq_of_digit (x := e), testBit_eq_of_digit (b := nb)]
  | coll f kind op =>
    have := kind.code_lt
    have := op.code_lt
    exact f.lays.spelled parseMemory rfl fun n ho hf hs => by
      simp (disch := omega) only [parseMemory, ho, hf, CollKind.ofCode_eq (x := kind), CollOp.ofCode_eq (x := op)]
  | _ => cases ht

theorem Instr.spelled_lathe {i : Instr} (ht : i.table = .lathe) : i.Spelled := by
  cases i with
  | mloadb f | mswap f | autoCfg f | autoLdx f | autoFb1 f | autoFb2 f | autoWr f =>
    exact f.lays.spelled parseLathe rfl fun n ho hf _ => by simp only [parseLathe, ho, hf]
  | mma f pri nb =>
    have := nb.toNat_lt
    exact f.lays.spelled parseLathe rfl fun n ho hf hs => by
      simp (disch := omega) only [parseLathe, ho, hf, ofNat_eq_of_digit (x := pri), testBit_eq_of_digit (b := nb)]
  | scanl f rm rv pr | scanp f rm rv pr =>
    have := rm.code_lt
    have := rv.toNat_lt
    exact f.lays.spelled parseLathe rfl fun n ho hf hs => by
      simp (disch := omega) only [parseLathe, ho, hf, Rm.ofCode_eq (x := rm), testBit_eq_of_digit (b := rv),
        ofNat_eq_of_digit (x := pr), Option.map_some]
  | autoSeed f =>
    exact f.lays.spelled parseLathe rfl fun n ho hf hs => by
      have h0 : n.testBit 0 = false := testBit_eq_of_digit (by rw [Bool.toNat_false]; omega)
      simp only [parseLathe, ho, hf, h0, Bool.false_eq_true, if_false]
  | autoInf f train nb =>
    have := train.toNat_lt
    have := nb.toNat_lt
    exact f.lays.spelled parseLathe rfl fun n ho hf hs => by
      simp (disch := omega) only [parseLathe, ho, hf, testBit_eq_of_digit (b := train), testBit_eq_of_digit (b := nb)]
  | autoRd f b =>
    have := b.toNat_lt
    exact f.lays.spelled parseLathe rfl fun n ho hf hs => by
      simp (disch := omega) only [parseLathe, ho, hf, testBit_eq_of_digit (b := b)]
  | autoFence f =>
    exact f.lays.spelled parseLathe rfl fun n ho hf hs => by
      have h0 : n.testBit 0 = true := testBit_eq_of_digit (by rw [Bool.toNat_true]; omega)
      simp only [parseLathe, ho, hf, h0, if_true]
  | _ => cases ht

theorem Instr.spelled_system {i : Instr} (ht : i.table = .system) : i.Spelled := by
  cases i with
  | exitJ f | nodemk f | nodedel f | nodeq f | jinit f | jwait f | estf f | gcond f | qend f | trap f | eret f | pmap f =>
    exact f.lays.spelled parseSystem rfl fun n ho hf _ => by simp only [parseSystem, ho, hf]
  | spawn f b o remote aj j =>
    have := b.toNat_lt
    have := o.toNat_lt
    have := remote.toNat_lt
    have := j.toNat_lt
    exact f.lays.spelled parseSystem rfl fun n ho hf hs => by
      simp (disch := omega) only [parseSystem, ho, hf, testBit_eq_of_digit (b := b), testBit_eq_of_digit (b := o),
        testBit_eq_of_digit (b := remote), ofNat_eq_of_digit (x := aj), testBit_eq_of_digit (b := j)]
  | estw f x | estq f x =>
    exact f.lays.spelled parseSystem rfl fun n ho hf hs => by
      simp (disch := omega) only [parseSystem, ho, hf, ofNat_eq_of_digit (x := x)]
  | ckmark f b | cksnap f b | ckroll f b | glaunch f b | mfsr f b | mtsr f b =>
    have := b.toNat_lt
    exact f.lays.spelled parseSystem rfl fun n ho hf hs => by
      simp (disch := omega) only [parseSystem, ho, hf, testBit_eq_of_digit (b := b)]
  | ckdrop f nb all unmark =>
    have := nb.toNat_lt
    have := all.toNat_lt
    have := unmark.toNat_lt
    exact f.lays.spelled parseSystem rfl fun n ho hf hs => by
      simp (disch := omega) only [parseSystem, ho, hf, testBit_eq_of_digit (b := nb), testBit_eq_of_digit (b := all),
        testBit_eq_of_digit (b := unmark)]
  | tlbinv f k =>
    have := k.code_lt
    exact f.lays.spelled parseSystem rfl fun n ho hf hs => by
      simp (disch := omega) only [parseSystem, ho, hf, TlbKind.ofCode_eq (x := k), Option.map_some]
  | _ => cases ht

/-! ## Dual words (R101 to R103) -/

theorem HalfR.ofCode_code (op : HalfR) : Op6.ofCode op.code = some (.r op) := by cases op <;> rfl
theorem HalfI.ofCode_code (op : HalfI) : Op6.ofCode op.code = some (.i op) := by cases op <;> rfl
theorem HalfU.ofCode_code (op : HalfU) : Op6.ofCode op.code = some (.u op) := by cases op <;> rfl
theorem HalfR.code_lt (op : HalfR) : op.code < 2^6 := by cases op <;> decide
theorem HalfI.code_lt (op : HalfI) : op.code < 2^6 := by cases op <;> decide
theorem HalfU.code_lt (op : HalfU) : op.code < 2^6 := by cases op <;> decide

theorem halfWord_digits {op d s x : Nat} (hop : op < 2^6) (hd : d < 2^7) (hs : s < 2^8) (hx : x < 2^10) :
    halfWord op d s x < 2^31 ∧ halfWord op d s x / 2^25 % 64 = op ∧ halfWord op d s x / 2^18 % 2^7 = d ∧
      halfWord op d s x / 2^10 % 2^8 = s ∧ halfWord op d s x % 2^10 = x := by
  simp only [halfWord]
  omega

/-- A half's word fits 31 bits, has an assigned op6 code on top, and is read back. -/
structure Half.Spelled (h : Half) : Prop where
  lt : h.encode < 2^31
  assigned : (Op6.ofCode (h.encode / 2^25 % 64)).isSome = true
  parsed : Half.parse h.encode = some h

theorem Half.spelled_of_digits {h : Half} {op d s x : Nat} {c : Op6} (he : h.encode = halfWord op d s x) (hop : op < 2^6)
    (hd : d < 2^7) (hs : s < 2^8) (hx : x < 2^10) (hc : Op6.ofCode op = some c)
    (hp : ∀ n, n / 2^25 % 64 = op → n / 2^18 % 2^7 = d → n / 2^10 % 2^8 = s → n % 2^10 = x → Half.parse n = some h) :
    h.Spelled := by
  obtain ⟨hlt, dop, dd, ds, dx⟩ := halfWord_digits hop hd hs hx
  rw [← he] at hlt dop dd ds dx
  exact ⟨hlt, by rw [dop, hc]; rfl, hp _ dop dd ds dx⟩

theorem Half.spelled (h : Half) : h.Spelled := by
  cases h with
  | nop => exact ⟨by decide, by decide, rfl⟩
  | r op m d s t =>
    have := m.code_lt
    have hc := op.ofCode_code
    exact Half.spelled_of_digits rfl op.code_lt d.isLt s.isLt (by omega) hc fun n hop hd hs hx => by
      simp (disch := omega) only [Half.parse, hop, hc, ofNat_eq_of_digit hd, ofNat_eq_of_digit hs, HalfMode.ofCode_eq (x := m),
        ofNat_eq_of_digit (x := t), Option.map_some]
  | i op d s k =>
    have hc := op.ofCode_code
    exact Half.spelled_of_digits rfl op.code_lt d.isLt s.isLt k.isLt hc fun n hop hd hs hx => by
      simp only [Half.parse, hop, hc, ofNat_eq_of_digit hd, ofNat_eq_of_digit hs, ofNat_eq_of_digit hx]
  | u op d s =>
    have hc := op.ofCode_code
    exact Half.spelled_of_digits rfl op.code_lt d.isLt s.isLt (by decide) hc fun n hop hd hs _ => by
      simp only [Half.parse, hop, hc, ofNat_eq_of_digit hd, ofNat_eq_of_digit hs]
  | movi d k =>
    exact Half.spelled_of_digits (c := .movi) rfl (by decide) d.isLt (by decide) k.isLt rfl fun n hop hd _ hx => by
      simp only [Half.parse, hop, Op6.ofCode, ofNat_eq_of_digit hd, ofNat_eq_of_digit hx]
  | ffma d s t =>
    exact Half.spelled_of_digits (c := .ffma) rfl (by decide) d.isLt s.isLt (by omega) rfl fun n hop hd hs hx => by
      simp (disch := omega) only [Half.parse, hop, Op6.ofCode, ofNat_eq_of_digit hd, ofNat_eq_of_digit hs, ofNat_eq_of_digit (x := t)]

theorem Instr.spelled_dual (ps : Bool) (h0 h1 : Half) : (Instr.dualWord ps h0 h1).Spelled := by
  obtain ⟨hlt0, ho0, hp0⟩ := h0.spelled
  obtain ⟨hlt1, ho1, hp1⟩ := h1.spelled
  have := ps.toNat_lt
  generalize hw : (Instr.dualWord ps h0 h1).wordNat = n
  have hn : 2^63 + ps.toNat * 2^62 + h0.encode * 2^31 + h1.encode = n := hw
  have h63 : n.testBit 63 = true := testBit_eq_of_digit (by rw [Bool.toNat_true]; omega)
  have h62 : n.testBit 62 = ps := testBit_eq_of_digit (by omega)
  have hup : n / 2^31 % 2^31 = h0.encode := by omega
  have hlow : n % 2^31 = h1.encode := by omega
  have hop0 : n / 2^56 % 64 = h0.encode / 2^25 % 64 := by omega
  have hop1 : n / 2^25 % 64 = h1.encode / 2^25 % 64 := by omega
  constructor <;> rw [hw]
  · omega
  · simp only [assigned, h63, hop0, hop1, ho0, ho1, if_true, Bool.and_self]
  · simp only [parse, h63, hup, hlow, hp0, hp1, h62, if_true]

/-! ## O46 -/

theorem Instr.event_or_word {i : Instr} (ht : i.table = .bare) : i.isEvent = true ∨ ∃ w, i = .unassignedEncoding w := by
  cases i with
  | unassignedEncoding w => exact .inr ⟨w, rfl⟩
  | _ => first | exact .inl rfl | cases ht

/-- The word of a well-formed instruction spells it. -/
theorem Instr.spelled_of_wf {i : Instr} (hw : i.wf = true) (he : i.isEvent = false) (hu : ∀ w, i ≠ .unassignedEncoding w) : i.Spelled := by
  cases hp : i.table with
  | dual =>
    cases i with
    | dualWord ps h0 h1 => exact Instr.spelled_dual ps h0 h1
    | _ => cases hp
  | control => exact Instr.spelled_control hp
  | scalar => exact Instr.spelled_scalar hp
  | vector => exact Instr.spelled_vector hp hw
  | float => exact Instr.spelled_float hp hw
  | memory => exact Instr.spelled_memory hp hw
  | lathe => exact Instr.spelled_lathe hp
  | system => exact Instr.spelled_system hp
  | bare =>
    rcases Instr.event_or_word hp with hi | ⟨w, hi⟩
    · exact absurd (he.symm.trans hi) Bool.false_ne_true
    · exact absurd hi (hu w)

/-- Settles O46: an instruction's word spells it (`Instr.spelled_of_wf`), and decoding accepts a word that spells a well-formed
instruction; a word that names no instruction is handed on as it is. -/
theorem decodeEncode : Obligations.DecodeEncode := by
  unfold Obligations.DecodeEncode
  intro i hw he hp hu
  by_cases h : ∃ w, i = .unassignedEncoding w
  · obtain ⟨w, rfl⟩ := h
    have hw : encode (.unassignedEncoding w) = w := by simp [encode, Instr.wordNat]
    simp [decode, hw, hu w rfl]
  · exact (Instr.spelled_of_wf hw he (fun w hi => h ⟨w, hi⟩)).decode_encode hw hp

end Sys2Proof
end

section
/-! SUPPORT. The words of the spec's worked examples (R82, R84 to R93), with the proof of O45. -/

namespace Sys2Proof

/-- Settles O45: each word is a literal, and the decoder runs on it. -/
theorem wordsDecode : Obligations.WordsDecode := by
  unfold Obligations.WordsDecode
  refine ⟨rfl, rfl, rfl, rfl, rfl, rfl, rfl, rfl, rfl, rfl, rfl, rfl, rfl⟩

end Sys2Proof
end

section
/-! SUPPORT. Dual words (R101 to R105): what a half's full form does, and a dual word that completes, with the proof of O7. -/

namespace Sys2Proof.Machine

/-! ## Forms that raise no flag -/

theorem allFlags_quiet (g : Group) (m : Lanes) (f : Nat → Lane → List Reg) : allFlags (flagsOf g m (fun l x => quiet (f l x))) = 0 := by
  unfold allFlags flagsOf
  induction lanesOf m with
  | nil => rfl
  | cons l ls ih => simpa [quiet] using ih

theorem fpSet_zero (fp : W32) : fpSet fp 0 = fp := by simp [fpSet]

theorem fpCause_zero (fp : W32) : fpCause fp 0 = none := by simp [fpCause, fpCauses]

/-- A form without flags is a form that raises none. -/
theorem vecBody_quiet (d : Nat) (f : Group → Nat → Lane → List Reg) :
    vecBody d (fun g l x => quiet (f g l x)) = fun s g act => .done (s.setGroup s.cur (pureBody d f g act)) := by
  funext s g act
  simp only [vecBody, withFlags, allFlags_quiet, fpCause_zero, fpSet_zero]
  rfl

/-! ## The full form of a half (R102, R103) -/

theorem toNat_halfDst (d : BitVec 7) : (d.setWidth 8).toNat = d.toNat := BitVec.toNat_setWidth_of_le (by decide)

/-- The full form that an R-kind op6 code names. -/
def fullR (op : HalfR) (f : FA) : Instr :=
  match op with
  | .iadd => .iadd (.a f) .s32 false
  | .isub => .isub f .s32 false
  | .imin => .imin f .s32
  | .imax => .imax f .s32
  | .and => .and (.a f) false
  | .or => .or (.a f) false
  | .xor => .xor (.a f) false
  | .andn => .andn f false
  | .shl => .shl (.a f)
  | .shr => .shr (.a f)
  | .sar => .sar (.a f)
  | .fadd => .fadd (.a f) halfMode
  | .fsub => .fsub f halfMode
  | .fmul => .fmul (.a f) halfMode
  | .fmin => .fmin f false .f32
  | .fmax => .fmax f false .f32
  | .imul => .imul (.a f) .s32 false .lo

/-- R102: the operands of the full form are those of the half's mode. -/
theorem fullOf_r (op : HalfR) (m : HalfMode) (d : BitVec 7) (s t : BitVec 8) :
    fullOf (.r op m d s t) = fullR op (halfFA d (halfOrder m d s t).1 (halfOrder m d s t).2 0) := by
  cases m <;> cases op <;> rfl

theorem exec_fullR (op : HalfR) (f : FA) (s : State) :
    exec (fullR op f) s = run (fullR op f) (vecBody f.d.toNat (laneHalfR op f)) s := by
  cases op with
  | and | or | xor | andn | shl | shr | sar => exact congrArg (run _ · s) (vecBody_quiet ..).symm
  | _ => rfl

/-- R103: a half computes what its full form does. -/
theorem exec_fullOf {h : Half} (hn : h ≠ .nop) (s : State) : exec (fullOf h) s = run (fullOf h) (vecBody (halfDst h) (laneHalf h)) s := by
  cases h with
  | nop => exact absurd rfl hn
  | r op m d s t => rw [fullOf_r, exec_fullR, halfDst, ← toNat_halfDst d]; rfl
  | i op d s k =>
    rw [halfDst, ← toNat_halfDst d]
    cases op with
    | iadd => rfl
    | _ => exact congrArg (run _ · _) (vecBody_quiet ..).symm
  | u op d s =>
    rw [halfDst, ← toNat_halfDst d]
    cases op <;> exact congrArg (run _ · _) (vecBody_quiet ..).symm
  | movi d k =>
    rw [halfDst, ← toNat_halfDst d]
    exact congrArg (run _ · _) (vecBody_quiet ..).symm
  | ffma d s t =>
    rw [halfDst, ← toNat_halfDst d]
    rfl

theorem useOf_fullOf (h : Half) : useOf (fullOf h) = halfUse ⟨0, false⟩ h := by
  cases h with
  | nop => rfl
  | r op m d s t =>
    simp only [halfUse, ← toNat_halfDst d]
    cases m <;> cases op <;> rfl
  | i op d s k =>
    simp only [halfUse, ← toNat_halfDst d]
    cases op <;> rfl
  | u op d s =>
    simp only [halfUse, ← toNat_halfDst d]
    cases op <;> rfl
  | movi d k =>
    simp only [halfUse, ← toNat_halfDst d]
    rfl
  | ffma d s t =>
    simp only [halfUse, ← toNat_halfDst d]
    rfl

theorem landsAt_fullOf (h : Half) (sol : Bool) : landsAt sol (fullOf h) = false := by
  cases h with
  | r op m d s t => rw [fullOf_r]; cases op <;> rfl
  | i op d s k => cases op <;> rfl
  | u op d s => cases op <;> rfl
  | nop | movi d k | ffma d s t => rfl

theorem length_laneHalf (h : Half) (g : Group) (l : Nat) (x : Lane) : (laneHalf h g l x).1.length ≤ 1 := by
  cases h with
  | nop => exact Nat.zero_le 1
  | r op m d s t => cases op <;> exact Nat.le_refl 1
  | i op d s k => cases op <;> exact Nat.le_refl 1
  | u op d s => cases op <;> exact Nat.le_refl 1
  | movi d k | ffma d s t => exact Nat.le_refl 1

/-- NOP completes and writes nothing (R173). -/
theorem computes_nop (s : State) (g : Group) : Computes s g .nop 0 (laneHalf .nop g) := by
  intro hi _
  refine completes_done (g' := g) (fun _ => rfl) hi rfl rfl (Steady.refl g) (Same.refl _ g) (fun h sm => ⟨?_, ?_⟩)
  · intro l k x _ _ hx
    simp [laneHalf] at hx
  · have h0 : allFlags (flagsOf g (actOf g .nop) (laneHalf .nop g)) = 0 := allFlags_quiet g _ (fun _ _ => [])
    rw [h0, fpSet_zero]
    exact sm.flags id

theorem computes_fullOf (s : State) (g : Group) (h : Half) : Computes s g (fullOf h) (halfDst h) (laneHalf h g) := by
  by_cases hn : h = .nop
  · subst hn
    exact computes_nop s g
  · have hd : (halfDst h, 1) ∈ (useOf (fullOf h)).dst := by
      rw [useOf_fullOf]
      cases h with
      | nop => exact absurd rfl hn
      | _ => exact List.mem_singleton_self _
    exact computes_of (f := laneHalf h) (landsAt_fullOf h) (exec_fullOf hn s) hd (length_laneHalf h g)

/-! ## The dual word (R105) -/

section
variable {s : State} {g : Group} {ps : Bool} {h0 h1 : Half} {act : Lanes}

/-- The flags that a half raises in the lanes of a set (R128). -/
def halfFlags (h : Half) (g : Group) (act : Lanes) : FlagSet := allFlags (flagsOf g act (laneHalf h g))

/-- The group with flags raised (R128). -/
def Group.raise (g : Group) (f : FlagSet) : Group := { g with fpstat := fpSet g.fpstat f }

theorem Group.raise_same (g : Group) (f : FlagSet) : Same { flags := True } g (g.raise f) := Same.of_flags g f

/-- The group once both halves have written: half 1 after half 0, each of the registers as they stood. -/
def dualGroup (h0 h1 : Half) (g : Group) (act : Lanes) : Group :=
  ((g.raise (halfFlags h0 g act)).raise (halfFlags h1 g act)).mapLanes act (fun l x =>
    (x.setRegs (halfDst h0) (laneHalf h0 g l x).1).setRegs (halfDst h1) (laneHalf h1 g l x).1)

/-- What a half writes in the lanes of a set. -/
def halfTouch (h : Half) (g : Group) (act : Lanes) (l r : Nat) : Prop :=
  act.getLsbD l = true ∧ halfDst h ≤ r ∧ r < halfDst h + (laneHalf h g l (g.lane l)).1.length

/-- With nothing pending, no check failed and no float trap enabled, both halves write. -/
theorem bodyDual_done (hp : pendingIn g act ((halfUse ⟨0, false⟩ h0).srcs ++ (halfUse ⟨0, false⟩ h1).srcs) = false)
    (hc : ∀ h, h = h0 ∨ h = h1 → halfCheck h g act = none ∧ fpCause g.fpstat (halfFlags h g act) = none) :
    bodyDual ps h0 h1 s g act = .done (s.setGroup s.cur (dualGroup h0 h1 g act)) := by
  obtain ⟨c0, f0⟩ := hc h0 (.inl rfl)
  obtain ⟨c1, f1⟩ := hc h1 (.inr rfl)
  unfold halfFlags at f0 f1
  simp only [bodyDual, hp, Bool.false_eq_true, if_false, c0, c1, halfTrap, f0, f1, Option.map_none]
  rfl

/-- A register outside `[d, d + n)` is not written. -/
theorem Lane.reg_setRegs_outside (x : Lane) {d r : Nat} {vs : List Reg} (h : r < d ∨ d + vs.length ≤ r) : (x.setRegs d vs).reg r = x.reg r := by
  rw [Lane.reg_setRegs]
  split
  · rw [List.getElem?_eq_none (by omega)]
    rfl
  · rfl

/-- A register inside holds the value for it. -/
theorem Lane.reg_setRegs_inside (x : Lane) {d k : Nat} {vs : List Reg} {v : Reg} (hv : vs[k]? = some v) (hz : d + k ≠ 0) :
    (x.setRegs d vs).reg (d + k) = v := by
  rw [Lane.reg_setRegs, if_pos ⟨Nat.le_add_right d k, hz⟩, Nat.add_sub_cancel_left, hv]
  rfl

theorem dualGroup_lane {l : Nat} (hl : l < 32) (ha : act.getLsbD l = true) : (dualGroup h0 h1 g act).lane l =
    ((g.lane l).setRegs (halfDst h0) (laneHalf h0 g l (g.lane l)).1).setRegs (halfDst h1) (laneHalf h1 g l (g.lane l)).1 := by
  rw [dualGroup, Group.lane_mapLanes _ _ _ _ hl, if_pos ha]
  rfl

/-- The registers of a half hold its results: half 1's everywhere, half 0's where half 1 writes nothing. -/
theorem dualGroup_reg {h : Half} {l k : Nat} {x : Reg} (hl : l < 32) (ha : act.getLsbD l = true)
    (hx : (laneHalf h g l (g.lane l)).1[k]? = some x) (hz : halfDst h + k ≠ 0)
    (hh : h = h1 ∨ h = h0 ∧ (halfDst h + k < halfDst h1 ∨ halfDst h1 + (laneHalf h1 g l (g.lane l)).1.length ≤ halfDst h + k)) :
    ((dualGroup h0 h1 g act).lane l).reg (halfDst h + k) = x := by
  rw [dualGroup_lane hl ha]
  rcases hh with rfl | ⟨rfl, hout⟩
  · exact Lane.reg_setRegs_inside _ hx hz
  · rw [Lane.reg_setRegs_outside _ hout]
    exact Lane.reg_setRegs_inside _ hx hz

/-- Two writes of a lane are one write after the other, both of the registers as they stood. -/
theorem Group.mapLanes_setRegs_setRegs (g : Group) (m : Lanes) (d e : Nat) (u v : Nat → Lane → List Reg) :
    g.mapLanes m (fun l x => (x.setRegs d (u l x)).setRegs e (v l x)) =
      (g.mapLanes m (fun l x => x.setRegs d (u l x))).mapLanes m (fun l x => x.setRegs e (v l (g.lane l))) := by
  conv_rhs => unfold Group.mapLanes
  refine congrArg (fun ls => { g with lanes := ls }) (List.map_congr_left fun l hl => ?_)
  have hl : (g.mapLanes m (fun l x => x.setRegs d (u l x))).lane l = _ := Group.lane_mapLanes _ _ _ _ (List.mem_range.mp hl)
  unfold Group.mapLanes at hl
  rw [hl]
  split <;> rfl

theorem dualGroup_same : Same { vec := fun l r => halfTouch h0 g act l r ∨ halfTouch h1 g act l r, flags := True } g
    (dualGroup h0 h1 g act) := by
  have w0 := Same.of_setRegs ((g.raise (halfFlags h0 g act)).raise (halfFlags h1 g act)) act (halfDst h0) (fun l x => (laneHalf h0 g l x).1)
  refine ((Group.raise_same g (halfFlags h0 g act)).mono _).trans (((Group.raise_same _ (halfFlags h1 g act)).mono _).trans ?_)
  rw [dualGroup, Group.mapLanes_setRegs_setRegs]
  exact (w0.mono _ (vec := fun _ _ => Or.inl)).trans
    ((Same.of_setRegs _ act (halfDst h1) (fun l _ => (laneHalf h1 g l (g.lane l)).1)).mono _ (vec := fun _ _ => Or.inr))

end

/-! ## O7 -/

/-- Settles O7: a half's full form has the half's use and body (`useOf_fullOf`, `exec_fullOf`); a dual word whose halves pass their checks
leaves `dualGroup`, whose registers and flags are read off lane by lane. -/
theorem dualWordsComplete : Obligations.DualWordsComplete := by
  unfold Obligations.DualWordsComplete
  refine ⟨fun s g h => ⟨computes_fullOf s g h, ?_, ?_⟩, ?_⟩
  · rw [useOf_fullOf]
  · rw [useOf_fullOf]
  · intro s g ps h0 h1 act fl out hact hfl hout hi hp hc
    obtain rfl : fl = fun h => halfFlags h g act := funext hfl
    obtain rfl : out = fun h l => (laneHalf h g l (g.lane l)).1 := funext fun h => funext (hout h)
    subst hact
    refine completes_done (fun _ => rfl) hi rfl (bodyDual_done hp hc) ⟨rfl, rfl, rfl, rfl⟩ (dualGroup_same.mono _ (vec := ?_)) (fun t sm => ⟨?_, ?_⟩)
    · rintro l r (⟨ha, hr⟩ | ⟨ha, hr⟩)
      · exact ⟨ha, h0, .inl rfl, hr⟩
      · exact ⟨ha, h1, .inr rfl, hr⟩
    · exact sm.flags id
    · intro h l k x hl ha hx hz hn hh
      rw [sm.vec l _ hl ?_]
      · exact dualGroup_reg hl ha hx hz hh
      · rintro (h1 | h1 | ⟨_, h1, _⟩)
        · cases h1
        · exact hn h1
        · cases h1

end Sys2Proof.Machine
end

section
/-! SUPPORT. Words that do not run (R108, R109, R83, R308): what a refused word, a refused fetch and a refused privilege come to, with
the proof of O41. -/

namespace Sys2Proof.Machine

section
variable {s : State} {g : Group}

/-! ## Words that name no instruction -/

theorem exec_unassignedEncoding (w : W64) (h : s.group? s.cur = some g) :
    exec (.unassignedEncoding w) s = .next (s.take s.cur { code := 0x001 } g.pc w) := by
  show execUnassignedEncoding w s = _
  unfold execUnassignedEncoding
  rw [h]

theorem decode_unassigned {w : W64} (h : assigned w.toNat = false) : decode w = .ok (.unassignedEncoding w) := by
  simp [decode, h]

/-! ## The fetch (R83) -/

/-- A fetch that is refused ends the turn with its cause. -/
theorem fetchReady_of_fetch_error {t : Trap} (h : s.fetch g = .error t) :
    s.fetchReady s.cur g = .over ((s.cache (s.partOf g) g.pc).take s.cur t g.pc (t.einfo.getD 0)) := by
  simp only [State.fetchReady, h]

theorem fetchReady_of_illegalField {w : W64} (h : s.fetch g = .ok w) (hd : decode w = .error .illegalField) :
    s.fetchReady s.cur g = .over ((s.cache (s.partOf g) g.pc).take s.cur { code := 0x002 } g.pc w) := by
  simp only [State.fetchReady, h, hd]

theorem fetchReady_of_illegalPair {w : W64} (h : s.fetch g = .ok w) (hd : decode w = .error .illegalPair) :
    s.fetchReady s.cur g = .over ((s.cache (s.partOf g) g.pc).take s.cur { code := 0x003 } g.pc w) := by
  simp only [State.fetchReady, h, hd]

theorem fetch_noncanonical (h : canonical g.pc = false) :
    s.fetch g = .error { code := 0x044, eaddr := g.pc, einfo := some (addrInfo 7 false 3) } := by
  simp [State.fetch, h]

theorem fetch_unmapped {l : Nat} {mal : Bool} (h : canonical g.pc = true) (hw : s.walk (s.partOf g) g.pc = .stop l mal) :
    s.fetch g = .error { code := 0x040, eaddr := g.pc, einfo := some (addrInfo l mal 3) } := by
  simp [State.fetch, h, hw]

theorem fetch_notExecutable {pg : Page} (h : canonical g.pc = true) (hw : s.walk (s.partOf g) g.pc = .page pg) (hx : pg.x = false) :
    s.fetch g = .error { code := 0x042, eaddr := g.pc, einfo := some (addrInfo 7 false 3) } := by
  simp [State.fetch, h, hw, hx]

theorem fetch_bad {pg : Page} (h : canonical g.pc = true) (hw : s.walk (s.partOf g) g.pc = .page pg) (hx : pg.x = true)
    (hb : s.isBad (pg.at g.pc) 8 = true) : s.fetch g = .error { code := 0x280, eaddr := g.pc, einfo := some 8 } := by
  simp [State.fetch, h, hw, hx, hb]

/-! ## A check before the meaning acts (R108, steps 5 to 8) -/

/-- The count of an issue that does not retire, of the state in which the instruction is reached. -/
theorem State.countIssue_reached (h : s.group? s.cur = some g) (i : Instr) : (s.reached g i).countIssue s.cur =
    (s.clearYields s.cur g).setGroup s.cur ((reachOf s g i).countIssue (s.isSolstice g.blk)) := by
  obtain ⟨-, -, hblk, -⟩ : (reachOf s g i).pc = g.pc ∧ _ ∧ (reachOf s g i).blk = g.blk ∧ _ := Group.reach_steady g _ i
  have hsol : (s.reached g i).isSolstice (reachOf s g i).blk = s.isSolstice g.blk := by
    unfold State.isSolstice
    rw [State.blocks_reached, hblk]
  unfold State.countIssue
  rw [State.group?_reached h]
  dsimp only
  rw [hsol, State.clearYields_blk _ _ hblk, State.clearYields_setGroup]
  unfold State.reached
  split
  · rw [State.clearYields_setGroup, State.setGroup_setGroup]
  · rfl

/-- With no error among the results that land first, an instruction issues where it is reached. -/
theorem run_eq_issueAt {i : Instr} (h : s.group? s.cur = some g)
    (hl : landsAt (s.isSolstice g.blk) i = true → firstLanded (reachOf s g i).due = none) (body : State → Group → Lanes → Res) :
    run i body s = .next ((s.reached g i).issueAt s.cur (reachOf s g i) i body) := by
  unfold run
  rw [h]
  unfold reachOf at hl ⊢
  unfold State.issue State.reached Group.reach
  unfold Group.reach at hl
  by_cases hla : landsAt (s.isSolstice g.blk) i = true
  · simp only [hla, if_true] at hl ⊢
    rw [hl trivial]
  · simp only [hla, Bool.false_eq_true, if_false]

/-- An instruction that fails a check, other than R184's convergence, takes the check's cause and counts as issued. -/
theorem run_of_preCheck {i : Instr} {c : Nat} (h : s.group? s.cur = some g)
    (hl : landsAt (s.isSolstice g.blk) i = true → firstLanded (reachOf s g i).due = none)
    (hc : preCheck i (useOf i) (reachOf s g i) = some c) (hn : c ≠ 0x004) (body : State → Group → Lanes → Res) :
    run i body s = .next (((s.clearYields s.cur g).setGroup s.cur ((reachOf s g i).countIssue (s.isSolstice g.blk))).take s.cur
      { code := c, einfo := none } g.pc (encode i)) := by
  have hpc : (reachOf s g i).pc = g.pc := (Group.reach_steady g _ i).1
  rw [run_eq_issueAt h hl, ← State.countIssue_reached h]
  unfold State.issueAt
  dsimp only
  rw [hc]
  dsimp only
  rw [if_neg (by simp [hn]), hpc]

/-! ## The privilege (R24, R308) -/

theorem preCheck_of_privFails {i : Instr} (h : privFails g i = true) : preCheck i (useOf i) g = some 0x008 := if_pos h

/-- At user level an instruction that only a supervisor may run takes PRIV. -/
theorem run_of_privFails {i : Instr} (h : s.group? s.cur = some g) (hu : g.supervisor = false)
    (hl : landsAt (s.isSolstice g.blk) i = true → firstLanded (reachOf s g i).due = none)
    (hp : ∀ k : Group, k.supervisor = false → privFails k i = true) (body : State → Group → Lanes → Res) :
    run i body s = .next (((s.clearYields s.cur g).setGroup s.cur ((reachOf s g i).countIssue (s.isSolstice g.blk))).take s.cur
      { code := 0x008, einfo := none } g.pc (encode i)) :=
  have hk : (reachOf s g i).supervisor = false := (Group.reach_steady g _ i).2.1.trans hu
  run_of_preCheck h hl (preCheck_of_privFails (hp _ hk)) (by decide) body

theorem privFails_of_sup {i : Instr} (hi : privFails g i = ((useOf i).sup && !g.supervisor)) (hs : (useOf i).sup = true)
    (hu : g.supervisor = false) : privFails g i = true := by simp [hi, hs, hu]

theorem privFails_mfsr {f : FS} {hi : Bool} (hf : f.num = 0x000) (hu : g.supervisor = false) : privFails g (.mfsr f hi) = true := by
  simp [privFails, hf, hu, sysAccess]

theorem privFails_mtsr {f : FS} {hi : Bool} (hf : f.num = 0x040) (hu : g.supervisor = false) : privFails g (.mtsr f hi) = true := by
  simp [privFails, hf, hu, sysAccess]

end

/-! ## O41 -/

/-- Settles O41: a word without an instruction by the decoder's first test; the fetch by the case in which it is refused; the
supervisor's forms by the first of the checks before the meaning acts (`run_of_privFails`). -/
theorem wordsThatDoNotRunTrap : Obligations.WordsThatDoNotRunTrap := by
  unfold Obligations.WordsThatDoNotRunTrap
  intro s g w h
  refine ⟨exec_unassignedEncoding w h, decode_unassigned, ?_, ?_⟩
  · rintro _ rfl
    refine ⟨fetchReady_of_illegalField, fetchReady_of_illegalPair, ?_⟩
    rintro code x (⟨hc, rfl, rfl⟩ | ⟨l, mal, hc, hw, rfl, rfl⟩ | ⟨pg, hc, hw, ⟨hx, rfl, rfl⟩ | ⟨hx, hb, rfl, rfl⟩⟩)
    · exact fetchReady_of_fetch_error (fetch_noncanonical hc)
    · exact fetchReady_of_fetch_error (fetch_unmapped hc hw)
    · exact fetchReady_of_fetch_error (fetch_notExecutable hc hw hx)
    · exact fetchReady_of_fetch_error (fetch_bad hc hw hx hb)
  · rintro f i (rfl | rfl | ⟨k, rfl⟩ | ⟨hi, rfl, hf⟩ | ⟨hi, rfl, hf⟩) hu hl
    · exact run_of_privFails h hu hl (fun _ hk => privFails_of_sup rfl rfl hk) (bodyEret f)
    · exact run_of_privFails h hu hl (fun _ hk => privFails_of_sup rfl rfl hk) (bodyPmap f)
    · exact run_of_privFails h hu hl (fun _ hk => privFails_of_sup rfl rfl hk) (bodyTlbinv f k)
    · exact run_of_privFails h hu hl (fun _ hk => privFails_mfsr hf hk) _
    · exact run_of_privFails h hu hl (fun _ hk => privFails_mtsr hf hk) (bodyMtsr f hi)

end Sys2Proof.Machine
end

section
/-! SUPPORT. Enabled float flags (R127 to R129, R365): a body that raises its flags before it writes takes the highest-ranked enabled
cause; with the proof of O12. -/

namespace Sys2Proof.Machine

/-! ## Entering a handler -/

/-- The open results land, and nothing else is written. -/
theorem Group.landAll_same (g : Group) : Same (windowTouches g.windows) g g.landAll :=
  (foldl_land_same g.windows g).trans (Same.of_eq _ (by simp [Group.landAll]))

/-- A predicate register beyond p7 does not exist. -/
theorem Lane.pred_of_ge (x : Lane) {p : Nat} (h : 8 ≤ p) : x.pred p = false := by
  have hp : p ≠ 0 := by omega
  simp [Lane.pred, hp, BitVec.getLsbD_of_ge x.preds p h]

/-- A handler begins with the registers and predicates of the group, reservations apart, its open results landed (R365). -/
theorem Group.lane_enter (g : Group) (t : Trap) (epc evec info : W64) (l : Nat) (hl : l < 32) :
    (∀ r, ¬ landsV g l r → ((g.enter t epc evec info).lane l).reg r = (g.lane l).reg r) ∧
    (∀ p, ¬ landsP g l p → ((g.enter t epc evec info).lane l).pred p = (g.lane l).pred p) := by
  have key : ∃ v, (g.enter t epc evec info).lane l = { g.landAll.lane l with resv := v } := by
    unfold Group.enter Group.lane
    simp only [List.getD_eq_getElem?_getD, List.getElem?_map]
    cases g.landAll.lanes[l]? with
    | none => exact ⟨none, rfl⟩
    | some x => exact ⟨none, rfl⟩
  obtain ⟨v, hv⟩ := key
  rw [hv]
  refine ⟨fun r hr => (Group.landAll_same g).vec l r hl hr, fun p hp => ?_⟩
  by_cases h8 : p < 8
  · exact (Group.landAll_same g).pred l p hl h8 hp
  · rw [Lane.pred_of_ge _ (by omega), Lane.pred_of_ge _ (by omega)]

theorem Group.fpstat_enter (g : Group) (t : Trap) (epc evec info : W64) : (g.enter t epc evec info).fpstat = g.fpstat :=
  (Group.landAll_same g).flags id

/-! ## The cause that is taken -/

theorem fpCause_mem {fp : W32} {raised fl : FlagSet} {code : Nat} (h : fpCause fp raised = some (fl, code)) : (fl, code) ∈ fpCauses :=
  List.mem_of_find?_eq_some h

/-- The causes stand in the order of their codes, so the first that is enabled has the least (R129). -/
theorem fpCause_le {fp : W32} {raised fl : FlagSet} {code : Nat} (h : fpCause fp raised = some (fl, code)) :
    ∀ c ∈ fpCauses, raised &&& fpTraps fp &&& c.1 ≠ 0 → code ≤ c.2 := by
  obtain ⟨-, as, bs, hs, hno⟩ := List.find?_eq_some_iff_append.1 h
  intro c hc hraised
  have hsorted : fpCauses.Pairwise (fun x y => x.2 ≤ y.2) := by decide
  rw [hs] at hc hsorted
  rcases List.mem_append.1 hc with hbefore | hafter
  · exact absurd (by simpa using hno c hbefore) hraised
  · rcases List.mem_cons.1 hafter with rfl | hbs
    · exact le_refl _
    · exact List.rel_of_pairwise_cons (List.pairwise_append.1 hsorted).2.1 hbs

/-! ## A body that raises flags first -/

theorem State.clearYields_blocks (s : State) (c : Nat) (g : Group) : (s.clearYields c g).blocks = s.blocks := by
  unfold State.clearYields
  split <;> rfl

theorem State.clearYields_parts (s : State) (c : Nat) (g : Group) : (s.clearYields c g).parts = s.parts := by
  unfold State.clearYields
  split <;> rfl

/-- A group's handler address depends on its block and its partition. -/
theorem State.hvec_congr {s t : State} {g k : Group} (hb : t.blocks = s.blocks) (hp : t.parts = s.parts) (hk : k.blk = g.blk) :
    t.hvec k = s.hvec g := by
  unfold State.hvec State.block? State.part
  rw [hb, hp, hk]

/-- A group that meets a cause has issued: its count and the yields of the others are those of `State.countIssue`. -/
theorem State.countIssue_setGroup (u : State) (c : Nat) {g x : Group} (hx : x.blk = g.blk) :
    (u.setGroup c x).countIssue c = (u.clearYields c g).setGroup c (x.countIssue (u.isSolstice g.blk)) := by
  unfold State.countIssue
  rw [State.group?_setGroup, if_pos rfl]
  dsimp only
  rw [State.clearYields_blk _ _ hx, State.clearYields_setGroup, State.clearYields_setGroup, State.setGroup_setGroup, hx]
  rfl

/-- Outside a handler, with a handler to enter, a group takes a cause by entering it (R365). -/
theorem State.take_enter {u : State} {c : Nat} {k : Group} (t : Trap) (epc info : W64) (hs : k.supervisor = false)
    (hv : goodVector (u.hvec k) = true) : (u.setGroup c k).take c t epc info = u.setGroup c (k.enter t epc (u.hvec k) info) := by
  have hvec : (u.setGroup c k).hvec k = u.hvec k := State.hvec_congr rfl rfl rfl
  unfold State.take
  rw [State.group?_setGroup, if_pos rfl]
  dsimp only
  rw [hvec, hs, hv, State.setGroup_setGroup, if_neg (by simp), if_neg (by simp)]

/-- A body that ends in `withFlags`: with an enabled cause among its flags the group takes it, nothing written (R128, R129, R365). -/
theorem trapsWith_of {s u : State} {g : Group} {i : Instr} {fls : List (Nat × FlagSet)} {body : State → Group → Lanes → Res}
    {k : Group → Res} (hl : ∀ sol, landsAt sol i = false) (he : exec i s = run i body s)
    (hu : u.cur = s.cur ∧ u.blocks = s.blocks ∧ u.parts = s.parts) (hb : body s g (actOf g i) = withFlags u g fls k) :
    TrapsWith s u g i fls := by
  intro fl code hi hs hv hc
  obtain ⟨hcur, hblocks, hparts⟩ := hu
  obtain ⟨t, htrap, rfl, hmask⟩ : ∃ t : Trap, body s g (actOf g i) = .trap (u.setGroup s.cur (g.raise (allFlags fls))) t ∧
      t.code = code ∧ t.mask = some (flagLanes fls fl) := by
    refine ⟨{ code := code, mask := some (flagLanes fls fl) }, ?_, rfl, rfl⟩
    rw [hb, withFlags, hc, hcur]
    rfl
  have hvec : (u.clearYields s.cur g).hvec ((g.raise (allFlags fls)).countIssue (u.isSolstice g.blk)) = s.hvec g :=
    State.hvec_congr ((State.clearYields_blocks ..).trans hblocks) ((State.clearYields_parts ..).trans hparts) rfl
  have hmem := fpCause_mem hc
  refine ⟨((g.raise (allFlags fls)).countIssue (u.isSolstice g.blk)).enter t g.pc (s.hvec g) (t.info i), ?_, rfl, rfl, rfl, ?_, ?_, ?_, ?_,
    ?_, hmem, fpCause_le hc⟩
  · rw [he, issue_conclude hi hl, htrap]
    show Host.Outcome.next (State.take _ _ _ _ _) = _
    rw [State.countIssue_setGroup u s.cur (g := g) (x := g.raise _) rfl, State.take_enter (k := (g.raise (allFlags fls)).countIssue _) _ _ _ hs
      (by rw [hvec]; exact hv), hvec]
  · have hcode : ∀ c ∈ fpCauses, (BitVec.ofNat 32 c.2).toNat = c.2 := by decide
    exact hcode _ hmem
  · exact Group.fpstat_enter ..
  · exact congrArg (Option.getD · _) hmask
  · exact fun l r hl hr => (Group.lane_enter _ _ _ _ _ l hl).1 r hr
  · exact fun l p hl hp => (Group.lane_enter _ _ _ _ _ l hl).2 p hp

theorem trapsOnFlag_of {s : State} {g : Group} {i : Instr} {f : Nat → Lane → LaneOut} {body : State → Group → Lanes → Res}
    {k : Group → Res} (hl : ∀ sol, landsAt sol i = false) (he : exec i s = run i body s)
    (hb : body s g (actOf g i) = withFlags s g (flagsOf g (actOf g i) f) k) : TrapsOnFlag s g i f :=
  trapsWith_of hl he ⟨rfl, rfl, rfl⟩ hb

/-! ## O12 -/

/-- Settles O12: every form's body raises its flags through `withFlags` before it writes, so each is a case of `trapsWith_of`;
RQUANT alone takes free values first. -/
theorem enabledFloatFlagTraps : Obligations.EnabledFloatFlagTraps := by
  unfold Obligations.EnabledFloatFlagTraps
  intro s g
  refine ⟨?_, ?_, ?_, ?_, ?_, ?_, ?_, ?_, ?_, ?_, ?_, ?_, ?_, ?_, ?_, ?_⟩
  · exact fun o m => trapsOnFlag_of (fun _ => rfl) rfl rfl
  · exact fun f m => trapsOnFlag_of (fun _ => rfl) rfl rfl
  · exact fun o m => trapsOnFlag_of (fun _ => rfl) rfl rfl
  · exact fun f m => trapsOnFlag_of (fun _ => rfl) rfl rfl
  · exact fun f m => trapsOnFlag_of (fun _ => rfl) rfl rfl
  · exact fun f ftz rm => trapsOnFlag_of (fun _ => rfl) rfl rfl
  · exact fun f ftz rm => trapsOnFlag_of (fun _ => rfl) rfl rfl
  · rintro f i fn (⟨rfl, rfl⟩ | ⟨rfl, rfl⟩ | ⟨rfl, rfl⟩ | ⟨rfl, rfl⟩ | ⟨rfl, rfl⟩ | ⟨rfl, rfl⟩ | ⟨rfl, rfl⟩) <;>
      exact trapsOnFlag_of (fun _ => rfl) rfl rfl
  · exact fun f => trapsOnFlag_of (fun _ => rfl) rfl rfl
  · intro f
    cases hn : anyNan g (actOf g (.rquant f)) f.a.toNat
    · exact trapsWith_of (fun _ => rfl) rfl ⟨rfl, rfl, rfl⟩ (by unfold bodyRquant; rw [hn]; rfl)
    · exact trapsWith_of (fun _ => rfl) rfl ⟨rfl, rfl, rfl⟩ (by unfold bodyRquant; rw [hn]; rfl)
  · exact fun f op ty rm => trapsWith_of (fun _ => rfl) rfl ⟨rfl, rfl, rfl⟩ (by unfold bodyRedg treeRes; rfl)
  · exact fun f excl op ty rm => trapsWith_of (fun _ => rfl) rfl ⟨rfl, rfl, rfl⟩ (by unfold bodyScang treeRes; rfl)
  · exact fun f t => trapsOnFlag_of (fun _ => rfl) rfl rfl
  · exact fun f t => trapsOnFlag_of (fun _ => rfl) rfl rfl
  · exact fun gd d a hsA he lra k => trapsOnFlag_of (fun _ => rfl) rfl rfl
  · exact fun f t sat rm => trapsOnFlag_of (fun _ => rfl) rfl rfl

end Sys2Proof.Machine
end

section
/-! SUPPORT. Random streams and conversions as forms (R142, R143, R219, R220, R228): what a form that draws leaves in its group; with the
proof of O13. -/

namespace Sys2Proof.Machine

/-! ## Flags together -/

theorem fpSet_fpSet (fp : W32) (x y : FlagSet) : fpSet (fpSet fp x) y = fpSet fp (x ||| y) := by
  unfold fpSet
  rw [BitVec.or_assoc]
  exact congrArg (fp ||| ·) (BitVec.setWidth_or ..).symm

/-- The lanes of a set that pass a test are none exactly when no lane of the set passes it. -/
theorem maskOf_eq_zero_iff {m : Lanes} {p : Nat → Bool} : maskOf (fun l => m.getLsbD l && p l) = 0 ↔ (lanesOf m).any p = false := by
  rw [List.any_eq_false]
  constructor
  · intro h l hl hp
    obtain ⟨h32, hm⟩ := mem_lanesOf.1 hl
    have hbit : (maskOf (fun l => m.getLsbD l && p l)).getLsbD l = true := by rw [getLsbD_maskOf, hm, hp]; simp [h32]
    rw [h] at hbit
    simp at hbit
  · intro h
    apply BitVec.eq_of_getLsbD_eq
    intro l hl
    rw [getLsbD_maskOf]
    cases hm : m.getLsbD l with
    | false => simp
    | true => simpa using fun _ => h l (mem_lanesOf.2 ⟨hl, hm⟩)

/-! ## A lane that draws -/

@[simp] theorem Lane.reg_drew (x : Lane) (n r : Nat) : (x.drew n).reg r = x.reg r := rfl

theorem Lane.ctr_setRegs (x : Lane) (d : Nat) (vs : List Reg) : (x.setRegs d vs).ctr = x.ctr := Lane.setRegs_keeps Lane.ctr Lane.setReg_ctr x d vs

/-- Counters move on in the lanes of `m`, and nothing else changes. -/
theorem Same.of_drew (g : Group) (m : Lanes) (n : Nat) : Same { ctr := fun l => m.getLsbD l = true } g (g.mapLanes m (fun _ x => x.drew n)) :=
  Same.of_lanes _ g m _ (fun _ _ _ _ _ => rfl) (fun _ _ _ _ _ _ => rfl) (fun _ _ hm hw => absurd hm hw) (fun _ _ _ _ => rfl)
    (fun _ _ _ _ => rfl) (fun _ _ _ => ⟨rfl, rfl, rfl, rfl⟩)

/-- Two changes of the lanes of a set are one after the other. -/
theorem Group.mapLanes_mapLanes (g : Group) (m : Lanes) (f h : Nat → Lane → Lane) :
    (g.mapLanes m f).mapLanes m h = g.mapLanes m (fun l x => h l (f l x)) := by
  unfold Group.mapLanes
  refine congrArg (fun ls => { g with lanes := ls }) (List.map_congr_left fun l hl => ?_)
  have hlane := Group.lane_mapLanes g m f l (List.mem_range.mp hl)
  unfold Group.mapLanes at hlane
  rw [hlane]
  split <;> rfl

/-! ## A form that draws -/

/-- The group after a form that draws `n` times: results and counters in the active lanes, flags raised. -/
def drawnGroup (g : Group) (act : Lanes) (d n : Nat) (f : Nat → Lane → LaneOut) (fl : FlagSet) : Group :=
  (g.raise fl).mapLanes act (fun l x => (x.setRegs d (f l x).1).drew n)

theorem drawnGroup_same (g : Group) (act : Lanes) (d n : Nat) (f : Nat → Lane → LaneOut) (fl : FlagSet) :
    Same { vec := fun l r => act.getLsbD l = true ∧ d ≤ r ∧ r < d + (f l (g.lane l)).1.length, ctr := fun l => act.getLsbD l = true,
           flags := True } g (drawnGroup g act d n f fl) := by
  rw [drawnGroup, ← Group.mapLanes_mapLanes (h := fun _ x => x.drew n)]
  have written := (Same.of_setRegs (g.raise fl) act d (fun l x => (f l x).1)).mono
    { vec := fun l r => act.getLsbD l = true ∧ d ≤ r ∧ r < d + (f l (g.lane l)).1.length, ctr := fun l => act.getLsbD l = true, flags := True }
    (vec := fun _ _ h => h)
  exact ((Group.raise_same g fl).mono _).trans (written.trans ((Same.of_drew _ act n).mono _ (ctr := fun _ h => h)))

theorem drawnGroup_lane {g : Group} {act : Lanes} {d n : Nat} {f : Nat → Lane → LaneOut} {fl : FlagSet} {l : Nat} (hl : l < 32)
    (ha : act.getLsbD l = true) : (drawnGroup g act d n f fl).lane l = ((g.lane l).setRegs d (f l (g.lane l)).1).drew n := by
  rw [drawnGroup, Group.lane_mapLanes _ _ _ _ hl, if_pos ha]
  rfl

/-- WR is raised when a counter wraps (R143). -/
def wrapsFlag (g : Group) (act : Lanes) (n : Nat) : FlagSet := if (lanesOf act).any (fun l => wraps (g.lane l).ctr n) then flWR else 0

/-- Without a float trap, and without a trap on WR, a form that draws is done. -/
theorem drawBody_done {s : State} {g : Group} {act : Lanes} {d n : Nat} {f : Group → Nat → Lane → LaneOut}
    (hf : fpCause g.fpstat (allFlags (flagsOf g act (f g))) = none)
    (hw : fpTwr g.fpstat = false ∨ ∀ l, l < 32 → act.getLsbD l → wraps (g.lane l).ctr n = false) :
    drawBody d n f s g act =
      .done (s.setGroup s.cur (drawnGroup g act d n (f g) (allFlags (flagsOf g act (f g)) ||| wrapsFlag g act n))) := by
  unfold drawBody withFlags
  rw [hf]
  dsimp only
  cases hany : (lanesOf act).any (fun l => wraps (g.lane l).ctr n) with
  | false =>
    rw [if_pos (maskOf_eq_zero_iff.2 hany), wrapsFlag, hany, if_neg Bool.false_ne_true,
      show ∀ x : FlagSet, x ||| 0 = x from fun _ => BitVec.or_zero]
    rfl
  | true =>
    have htwr : fpTwr g.fpstat = false := hw.resolve_right fun h => by
      obtain ⟨l, hl, hlw⟩ := List.any_eq_true.1 hany
      rw [h l (mem_lanesOf.1 hl).1 (mem_lanesOf.1 hl).2] at hlw
      exact Bool.false_ne_true hlw
    rw [if_neg (fun h => Bool.noConfusion (hany.symm.trans (maskOf_eq_zero_iff.1 h))), htwr, if_neg Bool.false_ne_true, wrapsFlag, hany,
      if_pos rfl, drawnGroup, Group.raise, ← fpSet_fpSet]
    rfl

theorem draws_of {s : State} {g : Group} {i : Instr} {d n k : Nat} {f : Group → Nat → Lane → LaneOut} (hl : ∀ sol, landsAt sol i = false)
    (he : exec i s = run i (drawBody d n f) s) (hd : (d, k) ∈ (useOf i).dst) (hk : ∀ l x, (f g l x).1.length ≤ k) : Draws s g i d n (f g) := by
  intro hi hf hw
  refine completes_done hl hi he (drawBody_done hf hw) ⟨rfl, rfl, rfl, rfl⟩ (drawnGroup_same ..) (fun h sm => ⟨?_, fun l hl ha => ?_, ?_⟩)
  · refine holds_of_same (f := fun l x => (f g l x).1) hd hk (fun l hl ha j x hx hz => ?_) sm
    rw [drawnGroup_lane hl ha, Lane.reg_drew]
    exact Lane.reg_setRegs_inside _ hx hz
  · rw [sm.ctr l hl id, drawnGroup_lane hl ha, Lane.drew, Lane.ctr_setRegs]
  · exact sm.flags id

/-! ## O13 -/

theorem length_laneCvt (d a : BitVec 8) (k : CvtCtl) (g : Group) (l : Nat) (x : Lane) :
    (laneCvt d a k g l x).1.length ≤ if k.dst.pair then 2 else 1 := by
  unfold laneCvt
  dsimp only
  split <;> exact le_refl _

/-- RNG.getc reads the counter, 32 bits to a register (R228). -/
theorem computesPure_getc (s : State) (g : Group) (f : FA) : ComputesPure s g (.rng f .getc) f.d.toNat
    (fun _ x => [⟨x.ctr.setWidth 32, tagRAW⟩, ⟨(x.ctr >>> 32).setWidth 32, tagRAW⟩]) := by
  have hcounter : (fun (_ : Group) (_ : Nat) (x : Lane) => [(⟨x.ctr.setWidth 32, tagRAW⟩ : Reg), ⟨(x.ctr >>> 32).setWidth 32, tagRAW⟩]) =
      fun _ _ x => [⟨BitVec.ofNat 32 x.ctr.toNat, tagRAW⟩, ⟨BitVec.ofNat 32 (x.ctr.toNat / 2^32), tagRAW⟩] := by
    funext _ _ x
    have low : x.ctr.setWidth 32 = BitVec.ofNat 32 x.ctr.toNat := BitVec.eq_of_toNat_eq (by simp [BitVec.toNat_setWidth])
    have high : (x.ctr >>> 32).setWidth 32 = BitVec.ofNat 32 (x.ctr.toNat / 2^32) :=
      BitVec.eq_of_toNat_eq (by simp [BitVec.toNat_setWidth, Nat.shiftRight_eq_div_pow])
    rw [low, high]
  rw [show (fun (_ : Nat) (x : Lane) => [(⟨x.ctr.setWidth 32, tagRAW⟩ : Reg), ⟨(x.ctr >>> 32).setWidth 32, tagRAW⟩]) = _ from
    congrFun hcounter g]
  exact computesPure_of (n := 2) (f := fun _ _ x => [⟨BitVec.ofNat 32 x.ctr.toNat, tagRAW⟩, ⟨BitVec.ofNat 32 (x.ctr.toNat / 2^32), tagRAW⟩])
    (fun _ => rfl) rfl (List.mem_singleton_self _) (fun _ _ => le_refl 2)

/-- RNG.setc writes the counters and nothing else (R228). -/
theorem Same.of_setCtr (g : Group) (m : Lanes) (c : Lane → BitVec 48) :
    Same { ctr := fun l => m.getLsbD l = true } g (g.mapLanes m (fun _ x => { x with ctr := c x })) :=
  Same.of_lanes _ g m _ (fun _ _ _ _ _ => rfl) (fun _ _ _ _ _ _ => rfl) (fun _ _ hm hw => absurd hm hw) (fun _ _ _ _ => rfl)
    (fun _ _ _ _ => rfl) (fun _ _ _ => ⟨rfl, rfl, rfl, rfl⟩)

theorem completes_setc {s : State} {g : Group} {f : FA} (hi : Issues s g (.rng f .setc)) :
    Completes s g (.rng f .setc) { ctr := fun l => (actOf g (.rng f .setc)).getLsbD l } (fun h =>
      ∀ l, l < 32 → (actOf g (.rng f .setc)).getLsbD l → (h.lane l).ctr = ((g.lane l).pair f.a.toNat).setWidth 48) := by
  refine completes_done (fun _ => rfl) hi rfl rfl ⟨rfl, rfl, rfl, rfl⟩ (Same.of_setCtr g _ _) (fun h sm l hl ha => ?_)
  rw [sm.ctr l hl id, Group.lane_mapLanes _ _ _ _ hl, if_pos ha]
  exact BitVec.eq_of_toNat_eq (by simp [BitVec.toNat_setWidth])

/-- Settles O13: RNG's draws, CVT and PACK are forms that draw (`draws_of`); the counter is read as two registers and written from two. -/
theorem drawingFormsComplete : Obligations.DrawingFormsComplete := by
  unfold Obligations.DrawingFormsComplete
  intro s g
  refine ⟨?_, ?_, computesPure_getc s g, fun f hi => completes_setc hi, ?_, ?_⟩
  · exact fun f => draws_of (k := 1) (f := fun _ _ x => ([⟨drawAt x.key x.ctr, tagN32⟩], 0)) (fun _ => rfl) rfl (List.mem_singleton_self _)
      (fun _ _ => le_refl 1)
  · exact fun f => draws_of (k := 1) (f := fun _ _ x =>
      ([⟨BitVec.ofNat 32 (encFin fmtF32 false ((drawAt x.key x.ctr).toNat / 2^8) (-24)), tagF32⟩], 0)) (fun _ => rfl) rfl
      (List.mem_singleton_self _) (fun _ _ => le_refl 1)
  · exact fun gd d a hsA he lra k => draws_of (f := laneCvt d a k) (fun _ => rfl) rfl (List.mem_singleton_self _) (length_laneCvt d a k g)
  · exact fun f t sat rm => draws_of (k := 1) (f := lanePack f t sat rm) (fun _ => rfl) rfl (List.mem_singleton_self _)
      (fun _ _ => le_refl 1)

end Sys2Proof.Machine
end

section
/-! SUPPORT. Values of float patterns and rounding (R110, R121, R123, R130): the real number that a value is, and what `roundTo` and `rnd`
do to a number that lies between two integers times a power of two. -/

namespace Sys2Proof.Machine

/-! ## Values -/

@[simp] theorem FVal.is_fin {s : Bool} {m : Nat} {e : Int} {x : ℝ} :
    (FVal.fin s m e).Is x ↔ x = (if s then -1 else 1) * (m : ℝ) * (2 : ℝ)^e :=
  ⟨fun ⟨_, _, _, h, hx⟩ => by cases h; exact hx, fun h => ⟨_, _, _, rfl, h⟩⟩
@[simp] theorem FVal.not_is_nan (x : ℝ) : ¬ FVal.nan.Is x := fun ⟨_, _, _, h, _⟩ => FVal.noConfusion h
@[simp] theorem FVal.not_is_inf (s : Bool) (x : ℝ) : ¬ (FVal.inf s).Is x := fun ⟨_, _, _, h, _⟩ => FVal.noConfusion h
@[simp] theorem FVal.mag_fin {s neg : Bool} {m : Nat} {e : Int} {a : ℝ} :
    (FVal.fin s m e).Mag neg a ↔ s = neg ∧ a = (m : ℝ) * (2 : ℝ)^e :=
  ⟨fun ⟨_, _, h, ha⟩ => by cases h; exact ⟨rfl, ha⟩, fun ⟨h, ha⟩ => ⟨m, e, by rw [h], ha⟩⟩
@[simp] theorem FVal.not_mag_nan (neg : Bool) (a : ℝ) : ¬ FVal.nan.Mag neg a := fun ⟨_, _, h, _⟩ => FVal.noConfusion h
@[simp] theorem FVal.not_mag_inf (s neg : Bool) (a : ℝ) : ¬ (FVal.inf s).Mag neg a := fun ⟨_, _, h, _⟩ => FVal.noConfusion h

/-- A value that is a number is finite. -/
theorem FVal.Is.fin {v : FVal} {x : ℝ} (h : v.Is x) : ∃ s m e, v = .fin s m e := let ⟨s, m, e, h, _⟩ := h; ⟨s, m, e, h⟩

theorem scale_pos (e : Int) : (0 : ℝ) < (2 : ℝ)^e := zpow_pos two_pos e

theorem scale_add (k : Int) (d : Nat) : (2 : ℝ)^(k + d) = 2^k * 2^d := by rw [zpow_add₀ two_ne_zero, zpow_natCast]

theorem FVal.is_zero_iff {s : Bool} {m : Nat} {e : Int} : (FVal.fin s m e).Is 0 ↔ m = 0 := by
  have := (scale_pos e).ne'
  cases s <;> simp [this, eq_comm]

/-! ## The place of the leading bit -/

theorem scale_expo_le {m : Nat} (hm : m ≠ 0) (e : Int) : (2 : ℝ)^(expo m e) ≤ m * 2^e := by
  rw [expo, add_comm, scale_add, mul_comm]
  exact mul_le_mul_of_nonneg_right (by exact_mod_cast Nat.log2_self_le hm) (scale_pos e).le

theorem succ_le_scale_expo (m : Nat) (e : Int) : ((m : ℝ) + 1) * 2^e ≤ (2 : ℝ)^(expo m e + 1) := by
  rw [expo, show (m.log2 : Int) + e + 1 = e + (m.log2 + 1 : ℕ) by push_cast; ring, scale_add, mul_comm]
  exact mul_le_mul_of_nonneg_left (by exact_mod_cast Nat.lt_log2_self (n := m)) (scale_pos e).le

theorem lt_scale_expo (m : Nat) (e : Int) : (m : ℝ) * 2^e < (2 : ℝ)^(expo m e + 1) :=
  lt_of_lt_of_le (mul_lt_mul_of_pos_right (lt_add_one _) (scale_pos e)) (succ_le_scale_expo m e)

/-- The leading bit of a number is where its magnitude says. -/
theorem expo_lt_iff {m : Nat} (hm : m ≠ 0) (e x : Int) : expo m e < x ↔ (m : ℝ) * 2^e < 2^x := by
  constructor
  · exact fun h => lt_of_lt_of_le (lt_scale_expo m e) (zpow_le_zpow_right₀ one_le_two h)
  · exact fun h => (zpow_lt_zpow_iff_right₀ one_lt_two).1 (lt_of_le_of_lt (scale_expo_le hm e) h)

/-! ## Rounding to a multiple -/

theorem not_takesUpper_zero (mode : RMode) (neg : Bool) (n : Nat) : ¬ takesUpper mode neg n 0 := by
  cases mode with
  | rs u => simp only [takesUpper, zero_mul, not_le]; positivity
  | _ => norm_num [takesUpper]

/-- A number rounds to one multiple only. -/
theorem RoundsOn.unique {mode : RMode} {neg : Bool} {q a b c : ℝ} (hq : 0 < q) (hb : RoundsOn mode neg q a b) (hc : RoundsOn mode neg q a c) :
    b = c := by
  obtain ⟨n, hn1, hn2, hb1, hb2⟩ := hb
  obtain ⟨k, hk1, hk2, hc1, hc2⟩ := hc
  have h1 : (n : ℝ) < k + 1 := lt_of_mul_lt_mul_right (hn1.trans_lt hk2) hq.le
  have h2 : (k : ℝ) < n + 1 := lt_of_mul_lt_mul_right (hk1.trans_lt hn2) hq.le
  obtain rfl : n = k := by
    have h1' : n < k + 1 := by exact_mod_cast h1
    have h2' : k < n + 1 := by exact_mod_cast h2
    omega
  by_cases h : takesUpper mode neg n ((a - n * q) / q)
  · rw [hb1 h, hc1 h]
  · rw [hb2 h, hc2 h]

/-- A multiple rounds to itself. -/
theorem roundsOn_multiple (mode : RMode) (neg : Bool) {q : ℝ} (hq : 0 < q) (n : Nat) : RoundsOn mode neg q (n * q) (n * q) := by
  refine ⟨n, le_refl _, mul_lt_mul_of_pos_right (lt_add_one _) hq, fun h => ?_, fun _ => rfl⟩
  rw [sub_self, zero_div] at h
  exact absurd h (not_takesUpper_zero mode neg n)

/-- The choice of the upper neighbour in `roundTo`: `r` of `2^d` parts are left over above `lo`. -/
def roundsUp (mode : RMode) (neg : Bool) (lo r d : Nat) (sticky : Bool) : Bool :=
  match mode with
  | .rn => decide (2^(d - 1) < r) || (r == 2^(d - 1) && (sticky || lo % 2 == 1))
  | .rz => false
  | .ru => (decide (r ≠ 0) || sticky) && !neg
  | .rd => (decide (r ≠ 0) || sticky) && neg
  | .rs u => (decide (r ≠ 0) || sticky) && decide (u < r * 2^32 / 2^d)

theorem roundTo_of_le (mode : RMode) (neg : Bool) (m : Nat) (k : Int) (d : Nat) (sticky : Bool) :
    roundTo mode neg m (k + d) sticky k = (m * 2^d, sticky) := by
  simp [roundTo]

theorem roundTo_of_lt (mode : RMode) (neg : Bool) (m : Nat) (e : Int) (d : Nat) (sticky : Bool) :
    roundTo mode neg m e sticky (e + (d + 1 : ℕ)) =
      (if roundsUp mode neg (m / 2^(d + 1)) (m % 2^(d + 1)) (d + 1) sticky then m / 2^(d + 1) + 1 else m / 2^(d + 1),
        decide (m % 2^(d + 1) ≠ 0) || sticky) := by
  have h1 : ¬ e + ((d + 1 : ℕ) : Int) ≤ e := by omega
  have h2 : (e + ((d + 1 : ℕ) : Int) - e).toNat = d + 1 := by omega
  unfold roundTo
  rw [if_neg h1, h2]
  cases mode <;> rfl

/-- `roundTo` takes the upper neighbour exactly where R121 and R123 do: `t` is the part of a spacing that is left over, `δ` what lies
below the bits at hand. -/
theorem roundsUp_iff {mode : RMode} {neg : Bool} {lo r d : Nat} {sticky : Bool} {δ : ℝ} (h0 : 0 ≤ δ) (h1 : δ < 1)
    (hs : sticky = true ↔ δ ≠ 0) (hrs : sticky = true → ∀ u, mode ≠ .rs u) :
    roundsUp mode neg lo r (d + 1) sticky = true ↔ takesUpper mode neg lo ((r + δ) / 2^(d + 1)) := by
  have hpos : (0 : ℝ) < 2^(d + 1) := by positivity
  have hr : (0 : ℝ) ≤ r := Nat.cast_nonneg r
  have hne : (r + δ) / 2^(d + 1) ≠ 0 ↔ r ≠ 0 ∨ sticky = true := by
    rw [hs, ne_eq, div_eq_zero_iff, or_iff_left hpos.ne', add_eq_zero_iff_of_nonneg hr h0, Nat.cast_eq_zero]
    tauto
  cases mode with
  | rz => simp [roundsUp, takesUpper]
  | ru => simp only [roundsUp, takesUpper, hne]; simp
  | rd => simp only [roundsUp, takesUpper, hne]; simp
  | rs u =>
    have hδ : δ = 0 := by
      by_contra h
      exact hrs (hs.2 h) u rfl
    have hst : sticky = false := by
      rw [← Bool.not_eq_true, hs, not_not]; exact hδ
    have hlt : u < r * 2^32 / 2^(d + 1) ↔ (u : ℝ) + 1 ≤ (r + δ) / 2^(d + 1) * 2^32 := by
      rw [hδ, add_zero, ← Nat.succ_le_iff, Nat.le_div_iff_mul_le (by positivity), div_mul_eq_mul_div, le_div_iff₀ hpos]
      constructor <;> intro h <;> exact_mod_cast h
    simp only [roundsUp, takesUpper, hst, Bool.or_false, Bool.and_eq_true, decide_eq_true_eq, hlt, hδ, add_zero] at *
    refine ⟨And.right, fun h => ⟨?_, h⟩⟩
    rintro rfl
    simp only [CharP.cast_eq_zero, zero_div, zero_mul] at h
    exact absurd h (not_le.2 (by positivity))
  | rn =>
    have hhalf : ((2^d : ℕ) : ℝ) * 2 = 2^(d + 1) := by push_cast; ring
    have hlt : 1 / 2 < (r + δ) / 2^(d + 1) ↔ ((2^d : ℕ) : ℝ) < r + δ := by
      rw [lt_div_iff₀ hpos, ← hhalf]; constructor <;> intro h <;> linarith
    have heq : (r + δ) / 2^(d + 1) = 1 / 2 ↔ r + δ = ((2^d : ℕ) : ℝ) := by
      rw [div_eq_iff hpos.ne', ← hhalf]; constructor <;> intro h <;> linarith
    simp only [roundsUp, takesUpper, hlt, heq, Nat.add_sub_cancel, Bool.or_eq_true, Bool.and_eq_true, decide_eq_true_eq, beq_iff_eq, hs]
    generalize 2^d = half
    rcases lt_trichotomy half r with h | h | h
    · have : ((half : ℕ) : ℝ) + 1 ≤ r := by exact_mod_cast h
      exact iff_of_true (.inl h) (.inl (by linarith))
    · subst h
      by_cases hδ : δ = 0
      · simp [hδ]
      · have : 0 < δ := lt_of_le_of_ne h0 (Ne.symm hδ)
        simp [hδ, this]
    · have : (r : ℝ) + 1 ≤ ((half : ℕ) : ℝ) := by exact_mod_cast h
      refine iff_of_false (by omega) ?_
      rintro (h' | ⟨h', -⟩) <;> linarith

/-- `roundTo` rounds a number between `m` and `m + 1` steps of 2^e to a multiple of 2^k (R121, R123), and says whether it was one. -/
theorem roundTo_spec {mode : RMode} {neg : Bool} {m : Nat} {e k : Int} {sticky : Bool} {a : ℝ} (hlo : m * 2^e ≤ a)
    (hhi : a < (m + 1) * 2^e) (hs : sticky = true ↔ a ≠ m * 2^e) (hk : sticky = true → e < k) (hrs : sticky = true → ∀ u, mode ≠ .rs u) :
    RoundsOn mode neg (2^k) a ((roundTo mode neg m e sticky k).1 * 2^k) ∧
      ((roundTo mode neg m e sticky k).2 = true ↔ ((roundTo mode neg m e sticky k).1 : ℝ) * 2^k ≠ a) := by
  by_cases hke : k ≤ e
  · have hst : sticky = false := by
      rw [← Bool.not_eq_true]; exact fun h => absurd (hk h) (not_lt.2 hke)
    have ha : a = m * 2^e := by
      by_contra h
      exact Bool.false_ne_true (hst ▸ hs.2 h)
    obtain ⟨d, rfl⟩ := Int.le.dest hke
    have he : ((m * 2^d : ℕ) : ℝ) * 2^k = a := by rw [ha, scale_add]; push_cast; ring
    rw [roundTo_of_le, hst]
    dsimp only
    rw [he]
    exact ⟨by rw [← he]; exact roundsOn_multiple mode neg (scale_pos k) _, by simp⟩
  · obtain ⟨d, rfl⟩ : ∃ d : ℕ, k = e + (d + 1 : ℕ) := ⟨(k - e).toNat - 1, by omega⟩
    rw [roundTo_of_lt]
    have hE := scale_pos e
    have hD : (0 : ℝ) < 2^(d + 1) := by positivity
    set δ := a / 2^e - m with hδ
    have ha : a = (m + δ) * 2^e := by rw [hδ]; field_simp; ring
    have hm : (m : ℝ) = ((m / 2^(d + 1) : ℕ) : ℝ) * 2^(d + 1) + ((m % 2^(d + 1) : ℕ) : ℝ) := by exact_mod_cast (Nat.div_add_mod' m (2^(d + 1))).symm
    have hδ0 : 0 ≤ δ := by
      have := le_of_mul_le_mul_right (ha ▸ hlo) hE; linarith
    have hδ1 : δ < 1 := by
      have := lt_of_mul_lt_mul_right (ha ▸ hhi) hE.le; linarith
    have hsδ : sticky = true ↔ δ ≠ 0 := by
      rw [hs, ha, ne_eq, ne_eq, mul_eq_mul_right_iff, or_iff_left hE.ne', add_eq_left]
    have hr : ((m % 2^(d + 1) : ℕ) : ℝ) + 1 ≤ 2^(d + 1) := by exact_mod_cast Nat.mod_lt m (Nat.two_pow_pos (d + 1))
    have hup := roundsUp_iff (mode := mode) (neg := neg) (lo := m / 2^(d + 1)) (r := m % 2^(d + 1)) (d := d) hδ0 hδ1 hsδ hrs
    have hix : (decide (m % 2^(d + 1) ≠ 0) || sticky) = true ↔ ((m % 2^(d + 1) : ℕ) : ℝ) + δ ≠ 0 := by
      rw [Bool.or_eq_true, decide_eq_true_eq, hsδ, ne_eq, ne_eq, ne_eq,
        add_eq_zero_iff_of_nonneg (Nat.cast_nonneg _) hδ0, Nat.cast_eq_zero]
      tauto
    generalize m / 2^(d + 1) = lo at *
    generalize m % 2^(d + 1) = r at *
    rw [scale_add]
    have haq : a = (lo + (r + δ) / 2^(d + 1)) * (2^e * 2^(d + 1)) := by rw [ha, hm]; field_simp; ring
    have hq : (0 : ℝ) < 2^e * 2^(d + 1) := mul_pos hE hD
    have ht : (a - lo * (2^e * 2^(d + 1))) / (2^e * 2^(d + 1)) = (r + δ) / 2^(d + 1) := by rw [haq]; field_simp; ring
    have ht0 : 0 ≤ (r + δ) / 2^(d + 1) := div_nonneg (add_nonneg (Nat.cast_nonneg r) hδ0) hD.le
    have ht1 : (r + δ) / 2^(d + 1) < 1 := by rw [div_lt_one hD]; linarith
    constructor
    · refine ⟨lo, ?_, ?_, ?_, ?_⟩
      · rw [haq]; exact mul_le_mul_of_nonneg_right (le_add_of_nonneg_right ht0) hq.le
      · rw [haq]; exact mul_lt_mul_of_pos_right (by linarith) hq
      · intro h; rw [ht, ← hup] at h; rw [if_pos h]; push_cast; ring
      · intro h; rw [ht, ← hup] at h; rw [if_neg h]
    · dsimp only
      rw [hix, haq, ne_eq, ne_eq, mul_eq_mul_right_iff, or_iff_left hq.ne']
      have hzero : (r : ℝ) + δ = 0 ↔ (r + δ) / 2^(d + 1) = 0 := by rw [div_eq_zero_iff, or_iff_left hD.ne']
      rw [hzero, not_iff_not]
      generalize (r + δ) / 2^(d + 1) = t at *
      split
      · rename_i h
        have : t ≠ 0 := by rintro rfl; exact not_takesUpper_zero _ _ _ (hup.1 h)
        refine iff_of_false this ?_
        push_cast
        intro h; linarith
      · constructor <;> intro h <;> linarith

/-! ## Rounding to a format's precision -/

/-- The exponent of the spacing near a number of a format whose leading bit is at `x`. -/
def Fmt.spacing (f : Fmt) (x : Int) : Int := max x f.emin - (f.p : Int) + 1

/-- rnd (R121) of a number between `m` and `m + 1` steps of 2^e; with something below the steps there are more than `p` bits at hand. -/
theorem rnd_spec {f : Fmt} {mode : RMode} {neg : Bool} {m : Nat} {e : Int} {sticky : Bool} {a : ℝ} (hm : m ≠ 0) (hlo : m * 2^e ≤ a)
    (hhi : a < (m + 1) * 2^e) (hs : sticky = true ↔ a ≠ m * 2^e) (hbits : sticky = true → 2^f.p ≤ m) (hrs : sticky = true → ∀ u, mode ≠ .rs u) :
    ∃ q k ix, rnd f mode neg m e sticky = (q, k, ix) ∧ RoundsIn f mode neg a (q * 2^k) ∧ (ix = true ↔ (q : ℝ) * 2^k ≠ a) ∧
      q ≤ 2^f.p ∧ f.emin - f.p + 1 ≤ k := by
  have hle := scale_expo_le hm e
  have hlt := succ_le_scale_expo m e
  have hk : sticky = true → e < f.spacing (expo m e) := fun h => by
    have : (f.p : Int) ≤ Nat.log2 m := by exact_mod_cast (Nat.le_log2 hm).2 (hbits h)
    unfold Fmt.spacing expo
    omega
  obtain ⟨hon, hix⟩ := roundTo_spec (neg := neg) hlo hhi hs hk hrs
  refine ⟨(roundTo mode neg m e sticky (f.spacing (expo m e))).1, f.spacing (expo m e), (roundTo mode neg m e sticky (f.spacing (expo m e))).2, ?_,
    ⟨expo m e, hle.trans hlo, hhi.trans_le hlt, hon⟩, hix, ?_, ?_⟩
  · rw [rnd, if_neg hm]; rfl
  · obtain ⟨n, hn, -, hup, hdown⟩ := hon
    have hpos := scale_pos (f.spacing (expo m e))
    have hn2 : n + 1 ≤ 2^f.p := by
      have h1 : (n : ℝ) * 2^(f.spacing (expo m e)) < 2^f.p * 2^(f.spacing (expo m e)) := by
        refine hn.trans_lt (hhi.trans_le (hlt.trans ?_))
        rw [mul_comm, ← scale_add]
        exact zpow_le_zpow_right₀ one_le_two (by unfold Fmt.spacing; omega)
      exact_mod_cast lt_of_mul_lt_mul_right h1 hpos.le
    by_cases h : takesUpper mode neg n ((a - n * 2^(f.spacing (expo m e))) / 2^(f.spacing (expo m e)))
    · have := mul_right_cancel₀ hpos.ne' (hup h)
      have : (roundTo mode neg m e sticky (f.spacing (expo m e))).1 = n + 1 := by exact_mod_cast this
      omega
    · have := mul_right_cancel₀ hpos.ne' (hdown h)
      have : (roundTo mode neg m e sticky (f.spacing (expo m e))).1 = n := by exact_mod_cast this
      omega
  · unfold Fmt.spacing; omega

end Sys2Proof.Machine
end

section
/-! SUPPORT. Patterns of a format (R110, R111): their fields, the values they encode, and the pattern that a rounded number gets, with the
flags (R121 to R126). -/

namespace Sys2Proof.Machine

/-! ## Fields -/

/-- The pattern with a sign, an exponent field and a fraction field (R110). -/
def pat (f : Fmt) (s : Bool) (E r : Nat) : Nat := (if s then 2^(f.bits - 1) else 0) + E * 2^(f.p - 1) + r

section
variable {f : Fmt} {s : Bool} {E r : Nat} (hp : 1 ≤ f.p) (hw : f.p < f.bits) (hE : E < 2^(f.bits - f.p)) (hr : r < 2^(f.p - 1))

include hp hw in
theorem Fmt.two_pow_sign : 2^(f.bits - 1) = 2^(f.bits - f.p) * 2^(f.p - 1) := by
  rw [← Nat.pow_add]
  congr 1
  omega

include hp hw hE hr in
/-- The magnitude of a pattern lies below its sign. -/
theorem pat_mag_lt : E * 2^(f.p - 1) + r < 2^(f.bits - 1) := by
  rw [Fmt.two_pow_sign hp hw]
  calc E * 2^(f.p - 1) + r < (E + 1) * 2^(f.p - 1) := by rw [Nat.add_mul]; omega
    _ ≤ _ := Nat.mul_le_mul_right _ hE

include hp hw hE hr in
theorem signBit_pat : signBit f (pat f s E r) = s := by
  have h := pat_mag_lt hp hw hE hr
  unfold signBit pat
  rw [Nat.add_assoc]
  generalize E * 2^(f.p - 1) + r = c at h
  cases s
  · simpa using Nat.testBit_lt_two_pow h
  · simp [Nat.testBit_two_pow_add_eq, Nat.testBit_lt_two_pow h]

include hp hw hr in
theorem pat_div : pat f s E r / 2^(f.p - 1) = (if s then 2^(f.bits - f.p) else 0) + E := by
  have h : pat f s E r = r + ((if s then 2^(f.bits - f.p) else 0) + E) * 2^(f.p - 1) := by
    unfold pat
    rw [Fmt.two_pow_sign hp hw]
    cases s <;> simp <;> ring
  rw [h, Nat.add_mul_div_right _ _ (Nat.two_pow_pos _), Nat.div_eq_of_lt hr, Nat.zero_add]

include hp hw hE hr in
theorem expField_pat : expField f (pat f s E r) = E := by
  rw [expField, pat_div hp hw hr]
  cases s <;> simp [Nat.mod_eq_of_lt hE]

include hp hw hr in
theorem fracField_pat : fracField f (pat f s E r) = r := by
  have h : pat f s E r = r + ((if s then 2^(f.bits - f.p) else 0) + E) * 2^(f.p - 1) := by
    unfold pat
    rw [Fmt.two_pow_sign hp hw]
    cases s <;> simp <;> ring
  rw [fracField, h, Nat.add_mul_mod_self_right, Nat.mod_eq_of_lt hr]

include hp hw hE hr in
theorem pat_lt : pat f s E r < 2^f.bits := by
  have h := pat_mag_lt hp hw hE hr
  have h2 : 2^f.bits = 2^(f.bits - 1) + 2^(f.bits - 1) := by rw [← Nat.two_mul, ← Nat.pow_succ']; congr 1; omega
  unfold pat
  split <;> omega

end

/-- The patterns that stand for no finite number (R110, R111). -/
def Fmt.special (f : Fmt) (E r : Nat) : Bool :=
  (f.ieee && E == 2^(f.bits - f.p) - 1) || (!f.ieee && f.bits == 8 && E == 2^(f.bits - f.p) - 1 && r == 2^(f.p - 1) - 1)

/-- The value of a pattern that is not special. -/
theorem val_of_not_special {f : Fmt} {b : Nat} (h : f.special (expField f b) (fracField f b) = false) :
    val f b = if expField f b = 0 then .fin (signBit f b) (fracField f b) (f.emin - (f.p : Int) + 1)
      else .fin (signBit f b) (fracField f b + 2^(f.p - 1)) ((expField f b : Int) - f.bias - (f.p : Int) + 1) := by
  rw [Fmt.special, Bool.or_eq_false_iff] at h
  unfold val
  dsimp only
  rw [h.1, h.2, if_neg Bool.false_ne_true, if_neg Bool.false_ne_true]

/-- What a finite value says of its pattern. -/
theorem val_fin_fields {f : Fmt} {b : Nat} {s : Bool} {m : Nat} {e : Int} (h : val f b = .fin s m e) :
    s = signBit f b ∧ f.special (expField f b) (fracField f b) = false ∧
      (expField f b = 0 ∧ m = fracField f b ∧ e = f.emin - (f.p : Int) + 1 ∨
        expField f b ≠ 0 ∧ m = fracField f b + 2^(f.p - 1) ∧ e = (expField f b : Int) - f.bias - (f.p : Int) + 1) := by
  cases hs : f.special (expField f b) (fracField f b) with
  | false =>
    rw [val_of_not_special hs] at h
    split at h <;> cases h
    · exact ⟨rfl, rfl, .inl ⟨‹_›, rfl, rfl⟩⟩
    · exact ⟨rfl, rfl, .inr ⟨‹_›, rfl, rfl⟩⟩
  | true =>
    rw [Fmt.special, Bool.or_eq_true] at hs
    unfold val at h
    dsimp only at h
    rcases hs with hs | hs
    · rw [if_pos hs] at h
      split at h <;> cases h
    · split at h
      · split at h <;> cases h
      · cases h

/-! ## Sound formats -/

/-- The largest finite magnitude of a format whose largest pattern is normal. -/
noncomputable def Fmt.maxMag (f : Fmt) : ℝ :=
  ((fracField f f.maxPat + 2^(f.p - 1) : ℕ) : ℝ) * 2^((expField f f.maxPat : Int) - f.bias - f.p + 1)

/-- What holds of the parameters of every format of R110: the fields have room, the largest pattern is normal and the last one below
the special ones, and infinities and the NaNs of an overflow encode what they are called. -/
structure Fmt.Sound (f : Fmt) : Prop where
  p_pos : 1 ≤ f.p
  p_lt : f.p < f.bits
  max_val : ∀ s, val f (maxFin f s) = .fin s (fracField f f.maxPat + 2^(f.p - 1)) ((expField f f.maxPat : Int) - f.bias - f.p + 1)
  max_lt : ∀ s, maxFin f s < 2^f.bits
  max_normal : expField f f.maxPat ≠ 0
  max_below : if f.ieee then expField f f.maxPat < 2^(f.bits - f.p) - 1 else f.bits = 8 → fracField f f.maxPat < 2^(f.p - 1) - 1
  inf_val : f.ieee = true → ∀ s, val f (infPat f s) = .inf s ∧ infPat f s < 2^f.bits
  nan_val : f.ieee = false → f.bits = 8 → ∀ s, val f ((if s then 0x80 else 0) + 0x7F) = .nan ∧
    signBit f ((if s then 0x80 else 0) + 0x7F) = s ∧ (if s then 0x80 else 0) + 0x7F < 2^f.bits

theorem fmtF32_sound : fmtF32.Sound := by constructor <;> decide
theorem fmtF16_sound : fmtF16.Sound := by constructor <;> decide
theorem fmtBF16_sound : fmtBF16.Sound := by constructor <;> decide
theorem fmtE4M3_sound : fmtE4M3.Sound := by constructor <;> decide
theorem fmtE5M2_sound : fmtE5M2.Sound := by constructor <;> decide
theorem fmtE2M1_sound : fmtE2M1.Sound := by constructor <;> decide

section
variable {f : Fmt} (hf : f.Sound)
include hf

theorem Fmt.Sound.maxMag_mag (s : Bool) : (val f (maxFin f s)).Mag s f.maxMag := by
  rw [hf.max_val, FVal.mag_fin]
  exact ⟨rfl, rfl⟩

theorem Fmt.Sound.maxPat_mag : (val f f.maxPat).Mag false f.maxMag := by
  simpa [maxFin] using hf.maxMag_mag false

/-- A pattern up to the largest is not special. -/
theorem Fmt.Sound.not_special {E r : Nat} (h : E < expField f f.maxPat ∨ E = expField f f.maxPat ∧ r ≤ fracField f f.maxPat) :
    f.special E r = false := by
  have hmax : expField f f.maxPat < 2^(f.bits - f.p) := Nat.mod_lt _ (Nat.two_pow_pos _)
  have hb := hf.max_below
  unfold Fmt.special
  cases hi : f.ieee
  · rw [hi] at hb
    rcases h with h | ⟨rfl, h⟩
    · have : E ≠ 2^(f.bits - f.p) - 1 := by omega
      simp [this]
    · by_cases h8 : f.bits = 8
      · have := hb h8
        have : r ≠ 2^(f.p - 1) - 1 := by omega
        simp [this]
      · simp [h8]
  · rw [hi, if_pos rfl] at hb
    have : E ≠ 2^(f.bits - f.p) - 1 := by omega
    simp [this]

/-- The value of a pattern up to the largest. -/
theorem Fmt.Sound.val_pat {s : Bool} {E r : Nat} (hr : r < 2^(f.p - 1))
    (h : E < expField f f.maxPat ∨ E = expField f f.maxPat ∧ r ≤ fracField f f.maxPat) :
    pat f s E r < 2^f.bits ∧ val f (pat f s E r) = if E = 0 then .fin s r (f.emin - (f.p : Int) + 1)
      else .fin s (r + 2^(f.p - 1)) ((E : Int) - f.bias - (f.p : Int) + 1) := by
  have hmax : expField f f.maxPat < 2^(f.bits - f.p) := Nat.mod_lt _ (Nat.two_pow_pos _)
  have hE : E < 2^(f.bits - f.p) := by omega
  have he := expField_pat (s := s) hf.p_pos hf.p_lt hE hr
  have hfr := fracField_pat (s := s) (E := E) hf.p_pos hf.p_lt hr
  refine ⟨pat_lt hf.p_pos hf.p_lt hE hr, ?_⟩
  rw [val_of_not_special (by rw [he, hfr]; exact hf.not_special h), he, hfr, signBit_pat hf.p_pos hf.p_lt hE hr]

/-! ## The pattern of a number -/

/-- The significand that `encFin` takes at the format's own spacing. -/
theorem encFin_significand {q : Nat} {k : Int} (hq : q ≠ 0) (hqp : q ≤ 2^f.p) (hk : f.emin - f.p + 1 ≤ k) :
    (((if k ≤ f.spacing (expo q k) then q / 2^(f.spacing (expo q k) - k).toNat else q * 2^(k - f.spacing (expo q k)).toNat : ℕ) : ℝ) *
      2^(f.spacing (expo q k)) = q * 2^k) := by
  have hp := hf.p_pos
  by_cases hc : f.spacing (expo q k) ≤ k
  · obtain ⟨d, hd⟩ := Int.le.dest hc
    have h1 : (k - f.spacing (expo q k)).toNat = d := by omega
    have hvalue : ((q * 2^d : ℕ) : ℝ) * 2^(f.spacing (expo q k)) = q * 2^k := by
      rw [Nat.cast_mul, Nat.cast_pow, Nat.cast_two, mul_assoc, mul_comm ((2 : ℝ)^d), ← scale_add, hd]
    split
    · obtain rfl : d = 0 := by omega
      have h2 : (f.spacing (expo q k) - k).toNat = 0 := by omega
      rw [h2, ← hvalue]; simp
    · rw [h1, hvalue]
  · have hlog : f.p ≤ Nat.log2 q := by
      unfold Fmt.spacing expo at hc
      omega
    obtain rfl : q = 2^f.p := le_antisymm hqp ((Nat.le_log2 hq).1 hlog)
    have hs : f.spacing (expo (2^f.p) k) = k + 1 := by
      unfold Fmt.spacing expo
      rw [Nat.log2_two_pow]
      omega
    obtain ⟨n, hn⟩ : ∃ n, f.p = n + 1 := ⟨f.p - 1, by omega⟩
    rw [hs, if_pos (by omega), show (k + 1 - k).toNat = 1 by omega, hn, Nat.pow_succ, Nat.pow_one, Nat.mul_div_cancel _ two_pos, zpow_add_one₀ two_ne_zero]
    push_cast
    ring

/-- enc (R130) of a zero. -/
theorem encFin_zero (neg : Bool) (k : Int) : (val f (encFin f neg 0 k)).Mag neg 0 ∧ encFin f neg 0 k < 2^f.bits := by
  obtain ⟨hlt, hval⟩ := hf.val_pat (s := neg) (E := 0) (Nat.two_pow_pos _) (.inl (Nat.pos_of_ne_zero hf.max_normal))
  have he : encFin f neg 0 k = pat f neg 0 0 := by simp [encFin, pat]
  rw [he, hval, if_pos rfl, FVal.mag_fin]
  exact ⟨⟨rfl, by simp⟩, hlt⟩

omit hf in
theorem scale_sub_one {n : Nat} (hn : 1 ≤ n) (k : Int) : ((2^(n - 1) : ℕ) : ℝ) * 2^(k - n + 1) = 2^k := by
  rw [Nat.cast_pow, Nat.cast_two, mul_comm, ← scale_add]
  congr 1
  omega

/-- A significand of `p` bits whose leading bit is at `x`, not beyond the largest finite number, has a normal pattern. -/
theorem pat_normal_mag {neg : Bool} {m : Nat} {x : Int} (hx : f.emin ≤ x) (hlo : 2^(f.p - 1) ≤ m) (hhi : m < 2^f.p)
    (hmax : (m : ℝ) * 2^(x - f.p + 1) ≤ f.maxMag) :
    (val f (pat f neg (x + f.bias).toNat (m - 2^(f.p - 1)))).Mag neg (m * 2^(x - f.p + 1)) ∧
      pat f neg (x + f.bias).toNat (m - 2^(f.p - 1)) < 2^f.bits := by
  have hE : (((x + f.bias).toNat : ℕ) : Int) = x + f.bias := by unfold Fmt.emin at hx; omega
  have hE0 : (x + f.bias).toNat ≠ 0 := by unfold Fmt.emin at hx; omega
  have hpp : 2^f.p = 2 * 2^(f.p - 1) := by rw [← Nat.pow_succ']; congr 1; have := hf.p_pos; omega
  have hplace : (x + f.bias).toNat < expField f f.maxPat ∨
      (x + f.bias).toNat = expField f f.maxPat ∧ m - 2^(f.p - 1) ≤ fracField f f.maxPat := by
    have hfx : fracField f f.maxPat < 2^(f.p - 1) := Nat.mod_lt _ (Nat.two_pow_pos _)
    unfold Fmt.maxMag at hmax
    rcases lt_trichotomy (x + f.bias).toNat (expField f f.maxPat) with h | h | h
    · exact .inl h
    · refine .inr ⟨h, ?_⟩
      rw [← h, hE, show x + (f.bias : Int) - f.bias = x by ring] at hmax
      have := le_of_mul_le_mul_right hmax (scale_pos _)
      have : m ≤ fracField f f.maxPat + 2^(f.p - 1) := by exact_mod_cast this
      omega
    · exfalso
      have hm : ((2^f.p : ℕ) : ℝ) ≤ ((2 * m : ℕ) : ℝ) := by exact_mod_cast (by omega)
      have hM : ((fracField f f.maxPat + 2^(f.p - 1) : ℕ) : ℝ) < ((2^f.p : ℕ) : ℝ) := by exact_mod_cast (by omega)
      have hstep : (2 : ℝ)^((expField f f.maxPat : Int) - f.bias - f.p + 1) * 2 ≤ 2^(x - f.p + 1) := by
        rw [← zpow_add_one₀ two_ne_zero]
        exact zpow_le_zpow_right₀ one_le_two (by omega)
      generalize (2 : ℝ)^(x - f.p + 1) = u at *
      have hpos := scale_pos ((expField f f.maxPat : Int) - f.bias - f.p + 1)
      generalize (2 : ℝ)^((expField f f.maxPat : Int) - f.bias - f.p + 1) = v at *
      have h1 : ((2^f.p : ℕ) : ℝ) * v ≤ m * u := by
        calc ((2^f.p : ℕ) : ℝ) * v ≤ ((2 * m : ℕ) : ℝ) * v := mul_le_mul_of_nonneg_right hm hpos.le
          _ = m * (v * 2) := by push_cast; ring
          _ ≤ m * u := mul_le_mul_of_nonneg_left hstep (Nat.cast_nonneg m)
      exact absurd (h1.trans hmax) (not_le.2 (mul_lt_mul_of_pos_right hM hpos))
  obtain ⟨hlt, hval⟩ := hf.val_pat (s := neg) (by omega) hplace
  rw [hval, if_neg hE0, FVal.mag_fin, hE, Nat.sub_add_cancel hlo, show x + (f.bias : Int) - f.bias = x by ring]
  exact ⟨⟨rfl, rfl⟩, hlt⟩

/-- enc (R130) of a magnitude with at most `p` bits, above the smallest spacing and not beyond the largest finite number, has that
magnitude and the sign. -/
theorem encFin_mag {neg : Bool} {q : Nat} {k : Int} (hqp : q ≤ 2^f.p) (hk : f.emin - f.p + 1 ≤ k) (hmax : (q : ℝ) * 2^k ≤ f.maxMag) :
    (val f (encFin f neg q k)).Mag neg (q * 2^k) ∧ encFin f neg q k < 2^f.bits := by
  by_cases hq : q = 0
  · subst hq
    simpa using encFin_zero hf neg k
  have hsig := encFin_significand hf hq hqp hk
  have hlo := scale_expo_le hq k
  have hhi := lt_scale_expo q k
  unfold encFin
  rw [if_neg hq]
  dsimp only
  rw [show max (expo q k) f.emin - (f.p : Int) + 1 = f.spacing (expo q k) from rfl]
  generalize (if k ≤ f.spacing (expo q k) then q / 2^(f.spacing (expo q k) - k).toNat else q * 2^(k - f.spacing (expo q k)).toNat) = m at *
  rw [← hsig] at hlo hhi hmax ⊢
  generalize expo q k = x at *
  by_cases hx : x < f.emin
  · have hsp : f.spacing x = f.emin - f.p + 1 := by unfold Fmt.spacing; omega
    have hm : m < 2^(f.p - 1) := by
      have h1 : (m : ℝ) * 2^(f.spacing x) < ((2^(f.p - 1) : ℕ) : ℝ) * 2^(f.spacing x) := by
        rw [hsp, scale_sub_one hf.p_pos, ← hsp]
        exact hhi.trans_le (zpow_le_zpow_right₀ one_le_two (by omega))
      exact_mod_cast lt_of_mul_lt_mul_right h1 (scale_pos _).le
    obtain ⟨hlt, hval⟩ := hf.val_pat (s := neg) (E := 0) hm (.inl (Nat.pos_of_ne_zero hf.max_normal))
    have he : (if neg then 2^(f.bits - 1) else 0) + m = pat f neg 0 m := by simp [pat]
    rw [if_pos hx, he, hval, if_pos rfl, FVal.mag_fin, hsp]
    exact ⟨⟨rfl, rfl⟩, hlt⟩
  · have hsp : f.spacing x = x - f.p + 1 := by unfold Fmt.spacing; omega
    rw [if_neg hx]
    rw [hsp] at hlo hhi hmax ⊢
    have hm1 : 2^(f.p - 1) ≤ m := by
      rw [← scale_sub_one hf.p_pos x] at hlo
      exact_mod_cast le_of_mul_le_mul_right hlo (scale_pos _)
    have hm2 : m < 2^f.p := by
      have h1 : (m : ℝ) * 2^(x - f.p + 1) < ((2^f.p : ℕ) : ℝ) * 2^(x - f.p + 1) := by
        rw [Nat.cast_pow, Nat.cast_two, mul_comm ((2 : ℝ)^f.p), ← scale_add, show x - f.p + 1 + (f.p : Int) = x + 1 by ring]
        exact hhi
      exact_mod_cast lt_of_mul_lt_mul_right h1 (scale_pos _).le
    exact pat_normal_mag hf (by omega) hm1 hm2 hmax

/-! ## A rounded number in its format -/

theorem overflows_iff (q : Nat) (k : Int) : overflows f q k = true ↔ f.maxMag < q * 2^k := by
  have hmax := hf.max_val false
  rw [show maxFin f false = f.maxPat by simp [maxFin]] at hmax
  unfold overflows Fmt.maxMag
  rw [hmax]
  dsimp only
  generalize fracField f f.maxPat + 2^(f.p - 1) = m
  generalize (expField f f.maxPat : Int) - f.bias - f.p + 1 = e
  split
  · rename_i h
    obtain ⟨d, rfl⟩ := Int.le.dest h
    rw [show (k + (d : Int) - k).toNat = d by omega, decide_eq_true_eq, scale_add, mul_comm ((2 : ℝ)^k), ← mul_assoc,
      mul_lt_mul_iff_left₀ (scale_pos k)]
    exact_mod_cast Iff.rfl
  · rename_i h
    obtain ⟨d, rfl⟩ := Int.le.dest (not_le.1 h).le
    rw [show (e + (d : Int) - e).toNat = d by omega, decide_eq_true_eq, scale_add, mul_comm ((2 : ℝ)^e), ← mul_assoc,
      mul_lt_mul_iff_left₀ (scale_pos e)]
    exact_mod_cast Iff.rfl

omit hf in
theorem isTiny_iff (q : Nat) (k : Int) : isTiny f q k = true ↔ (q : ℝ) * 2^k < 2^f.emin := by
  unfold isTiny
  by_cases hq : q = 0
  · simp [hq, scale_pos]
  · simp [hq, expo_lt_iff hq]

/-- The result of a finite overflow (R122, R126). -/
theorem overflowTo_overflown (mode : RMode) (sat neg : Bool) :
    Overflown f mode sat neg f.maxMag (overflowTo f mode sat neg) ∧ (overflowTo f mode sat neg).1 < 2^f.bits := by
  have hmax := hf.maxMag_mag neg
  have hlt := hf.max_lt neg
  unfold Overflown overflowTo
  cases sat
  · cases hi : f.ieee
    · by_cases h8 : f.bits = 8
      · obtain ⟨hn, hs, hb⟩ := hf.nan_val hi h8 neg
        simp only [Bool.false_eq_true, if_false, h8, if_true] at *
        exact ⟨⟨trivial, hn, hs⟩, hb⟩
      · simp only [Bool.false_eq_true, if_false, h8]
        exact ⟨⟨trivial, hmax⟩, hlt⟩
    · obtain ⟨hinf, hib⟩ := hf.inf_val hi neg
      simp only [Bool.false_eq_true, if_false, if_true]
      cases mode with
      | rn => exact ⟨⟨trivial, hinf⟩, hib⟩
      | rs u => exact ⟨⟨trivial, hinf⟩, hib⟩
      | rz => exact ⟨⟨trivial, hmax⟩, hlt⟩
      | ru => cases neg <;> [exact ⟨⟨trivial, hinf⟩, hib⟩; exact ⟨⟨trivial, hmax⟩, hlt⟩]
      | rd => cases neg <;> [exact ⟨⟨trivial, hmax⟩, hlt⟩; exact ⟨⟨trivial, hinf⟩, hib⟩]
  · exact ⟨⟨hmax, rfl⟩, hlt⟩

/-- rnd and fit (R121, R122, R124, R126) of a number between `m` and `m + 1` steps of 2^e deliver it. -/
theorem roundFit_delivers {mode : RMode} {sat ftz neg : Bool} {m : Nat} {e : Int} {sticky : Bool} {a : ℝ} (hm : m ≠ 0) (hlo : m * 2^e ≤ a)
    (hhi : a < (m + 1) * 2^e) (hs : sticky = true ↔ a ≠ m * 2^e) (hbits : sticky = true → 2^f.p ≤ m) (hrs : sticky = true → ∀ u, mode ≠ .rs u) :
    Delivers f mode sat ftz neg a (roundFit f mode sat ftz neg m e sticky) := by
  obtain ⟨q, k, ix, hr, hin, hix, hq, hk⟩ := rnd_spec (f := f) (neg := neg) hm hlo hhi hs hbits hrs
  have hov := overflows_iff hf q k
  have htiny := isTiny_iff (f := f) q k
  have hzero := encFin_zero hf neg 0
  have hover := overflowTo_overflown hf mode sat neg
  unfold roundFit
  rw [hr]
  dsimp only
  rw [if_neg hm]
  refine ⟨q * 2^k, f.maxMag, hin, hf.maxPat_mag, ?_⟩
  by_cases h : f.maxMag < q * 2^k
  · rw [if_pos (hov.2 h)]
    exact ⟨hover.2, fun _ => hover.1, fun h' => absurd h (not_lt.2 h'), fun h' => absurd h (not_lt.2 h')⟩
  · have henc := encFin_mag hf (neg := neg) hq hk (not_lt.1 h)
    rw [if_neg (mt hov.1 h)]
    by_cases hft : ftz = true ∧ (q : ℝ) * 2^k < 2^f.emin
    · rw [if_pos (by rw [Bool.and_eq_true, htiny]; exact hft)]
      exact ⟨hzero.2, fun h' => absurd h' h, fun _ _ _ => ⟨hzero.1, rfl⟩, fun _ h' => absurd (h' hft.1) (not_le.2 hft.2)⟩
    · rw [if_neg (by rw [Bool.and_eq_true, htiny]; exact hft)]
      refine ⟨henc.2, fun h' => absurd h' h, fun _ h1 h2 => absurd ⟨h1, h2⟩ hft, fun _ _ => ⟨henc.1, fun he => ?_, fun he => ?_⟩⟩
      · rw [if_neg (fun h' => hix.1 h' he)]
      · rw [if_pos (hix.2 he)]
        by_cases ht : (q : ℝ) * 2^k < 2^f.emin
        · rw [if_pos (htiny.2 ht), if_pos ht]
        · rw [if_neg (mt htiny.1 ht), if_neg ht]

/-- The same of a number that has all its bits at hand. -/
theorem roundFit_delivers_exact {mode : RMode} {sat ftz neg : Bool} {m : Nat} {e : Int} (hm : m ≠ 0) :
    Delivers f mode sat ftz neg (m * 2^e) (roundFit f mode sat ftz neg m e false) :=
  roundFit_delivers hf hm (le_refl _) (mul_lt_mul_of_pos_right (lt_add_one _) (scale_pos e)) (by simp) (by simp) (by simp)

/-- A number that the format holds is delivered as it is. -/
theorem Delivers.mag_of_exact {mode : RMode} {sat neg : Bool} {c : Nat} {e : Int} {out : Nat × FlagSet} (h : Delivers f mode sat false neg (c * 2^e) out)
    (hcp : c < 2^f.p) (he : f.emin - f.p + 1 ≤ e) (hmax : (c : ℝ) * 2^e ≤ f.maxMag) : (val f out.1).Mag neg (c * 2^e) := by
  obtain ⟨b, M, ⟨x, hx, -, hon⟩, hM, -, -, -, hrep⟩ := h
  have hMeq : M = f.maxMag := by
    have h1 := hf.max_val false
    rw [show maxFin f false = f.maxPat by simp [maxFin]] at h1
    rw [h1, FVal.mag_fin] at hM
    exact hM.2
  have hsp : max x f.emin - (f.p : Int) + 1 ≤ e := by
    have h1 : (2 : ℝ)^x < 2^(e + f.p) := by
      refine hx.trans_lt ?_
      rw [scale_add, mul_comm]
      exact mul_lt_mul_of_pos_left (by exact_mod_cast hcp) (scale_pos e)
    have := (zpow_lt_zpow_iff_right₀ one_lt_two).1 h1
    omega
  obtain ⟨d, hd⟩ := Int.le.dest hsp
  have hmul : (c : ℝ) * 2^e = ((c * 2^d : ℕ) : ℝ) * 2^(max x f.emin - (f.p : Int) + 1) := by
    rw [← hd, scale_add]; push_cast; ring
  obtain rfl : b = c * 2^e := by
    refine hon.unique (scale_pos _) ?_
    rw [hmul]
    exact roundsOn_multiple mode neg (scale_pos _) _
  exact (hrep (by rw [hMeq]; exact hmax) (fun h => absurd h Bool.false_ne_true)).1

end

end Sys2Proof.Machine
end

section
/-! SUPPORT. Sums, products and orders of float values (R111, R124, R210, R211, R214): what FADD, FSUB, FMUL, FFMA, FMIN, FMAX and FRND
compute. -/

namespace Sys2Proof.Machine

/-! ## Finite values of a format -/

theorem val_fin_bounds {f : Fmt} (hf : f.Sound) {b : Nat} {s : Bool} {m : Nat} {e : Int} (h : val f b = .fin s m e) :
    m < 2^f.p ∧ f.emin - f.p + 1 ≤ e := by
  obtain ⟨-, -, hfields⟩ := val_fin_fields h
  have hr : fracField f b < 2^(f.p - 1) := Nat.mod_lt _ (Nat.two_pow_pos _)
  have hpp : 2^f.p = 2 * 2^(f.p - 1) := by rw [← Nat.pow_succ']; congr 1; have := hf.p_pos; omega
  unfold Fmt.emin at *
  omega

/-! ## Flushed inputs (R124) -/

section
variable {f : Fmt} (hf : f.Sound) {b : Nat}

theorem ftzIn_false (f : Fmt) (b : Nat) : ftzIn f false b = b := by simp [ftzIn]

theorem ftzIn_of_normal (ftz : Bool) (h : expField f b ≠ 0) : ftzIn f ftz b = b := by simp [ftzIn, h]

theorem ftzIn_of_subnormal (h : expField f b = 0) : ftzIn f true b = encFin f (signBit f b) 0 0 := by simp [ftzIn, h, encFin]

include hf

/-- The values below the normal ones are those with exponent field 0. -/
theorem expField_eq_zero_iff {neg : Bool} {v : ℝ} (h : (val f b).Mag neg v) : expField f b = 0 ↔ v < 2^f.emin := by
  obtain ⟨m, e, hval, rfl⟩ := h
  obtain ⟨-, -, hfields⟩ := val_fin_fields hval
  have hr : fracField f b < 2^(f.p - 1) := Nat.mod_lt _ (Nat.two_pow_pos _)
  rw [← scale_sub_one hf.p_pos f.emin]
  rcases hfields with ⟨h0, rfl, rfl⟩ | ⟨h0, rfl, rfl⟩
  · exact iff_of_true h0 (mul_lt_mul_of_pos_right (by exact_mod_cast hr) (scale_pos _))
  · refine iff_of_false h0 (not_lt.2 (mul_le_mul ?_ ?_ (scale_pos _).le (Nat.cast_nonneg _)))
    · exact_mod_cast Nat.le_add_left _ _
    · exact zpow_le_zpow_right₀ one_le_two (by unfold Fmt.emin; omega)

theorem ftzIn_mag (ftz : Bool) {neg : Bool} {v : ℝ} (h : (val f b).Mag neg v) :
    if ftz = true ∧ v < 2^f.emin then (val f (ftzIn f ftz b)).Mag neg 0 else ftzIn f ftz b = b := by
  have hiff := expField_eq_zero_iff hf h
  split
  · rename_i hc
    obtain ⟨rfl, hv⟩ := hc
    obtain ⟨m, e, hval, -⟩ := h
    obtain ⟨rfl, -⟩ := val_fin_fields hval
    rw [ftzIn_of_subnormal (hiff.2 hv)]
    exact (encFin_zero hf _ 0).1
  · rename_i hc
    cases ftz
    · exact ftzIn_false f b
    · exact ftzIn_of_normal _ (fun h0 => hc ⟨rfl, hiff.1 h0⟩)

/-- What is no number is not flushed. -/
theorem ftzIn_of_not_mag (ftz : Bool) (h : ∀ neg v, ¬ (val f b).Mag neg v) : ftzIn f ftz b = b := by
  by_cases h0 : expField f b = 0
  · have hT : 0 ≠ 2^(f.bits - f.p) - 1 := by
      have := hf.p_lt
      have : 2^1 ≤ 2^(f.bits - f.p) := Nat.pow_le_pow_right two_pos (by omega)
      omega
    have hs : f.special (expField f b) (fracField f b) = false := by simp [Fmt.special, h0, hT]
    have hval := val_of_not_special hs
    rw [if_pos h0] at hval
    exact absurd (FVal.mag_fin.2 ⟨rfl, rfl⟩) (hval ▸ h _ _)
  · exact ftzIn_of_normal _ h0

end

/-! ## Results by what they are -/

section
variable {f : Fmt} (hf : f.Sound) {mode : RMode} {ftz : Bool}

theorem rounded_nan (h : f.nan < 2^f.bits) : Rounded f mode ftz .nan (f.nan, 0) :=
  ⟨h, fun _ => rfl, fun _ h => FVal.noConfusion h, fun h => absurd h (FVal.not_is_nan 0), fun _ _ _ h => absurd h (FVal.not_mag_nan _ _)⟩

include hf

theorem rounded_inf (hi : f.ieee = true) (s : Bool) : Rounded f mode ftz (.inf s) (infPat f s, 0) := by
  obtain ⟨hval, hlt⟩ := hf.inf_val hi s
  exact ⟨hlt, fun h => FVal.noConfusion h, fun t h => ⟨by rw [hval, h], rfl⟩, fun h => absurd h (FVal.not_is_inf s 0),
    fun _ _ _ h => absurd h (FVal.not_mag_inf _ _ _)⟩

theorem rounded_zero (s : Bool) (e : Int) : Rounded f mode ftz (.fin s 0 e) (encFin f s 0 0, 0) := by
  obtain ⟨hval, hlt⟩ := encFin_zero hf s 0
  refine ⟨hlt, fun h => FVal.noConfusion h, fun _ h => FVal.noConfusion h, fun _ => ⟨hval, rfl⟩, fun neg a ha h => ?_⟩
  rw [FVal.mag_fin, Nat.cast_zero, zero_mul] at h
  exact absurd h.2 ha.ne'

omit hf in
theorem rounded_fin {s : Bool} {m : Nat} {e : Int} {out : Nat × FlagSet} (hm : m ≠ 0) (h : Delivers f mode false ftz s (m * 2^e) out) :
    Rounded f mode ftz (.fin s m e) out := by
  obtain ⟨_, _, _, _, hlt, _⟩ := id h
  refine ⟨hlt, fun h => FVal.noConfusion h, fun _ h => FVal.noConfusion h, fun h0 => absurd (FVal.is_zero_iff.1 h0) hm, fun neg a _ hmag => ?_⟩
  obtain ⟨rfl, rfl⟩ := FVal.mag_fin.1 hmag
  exact h

end

/-! ## Sums -/

/-- A signed number and its magnitude determine each other. -/
theorem signed_eq_iff {u : Bool} {c : ℝ} {n : Int} {y : ℝ} (hc : 0 ≤ c) (hy : 0 < y) (hn : n ≠ 0) :
    (if u then -1 else 1) * c = (n : ℝ) * y ↔ u = decide (n < 0) ∧ c = (n.natAbs : ℝ) * y := by
  have hcast : (n.natAbs : ℝ) = |(n : ℝ)| := by rw [Nat.cast_natAbs, Int.cast_abs]
  rcases lt_or_gt_of_ne hn with h | h
  · have h' : (n : ℝ) < 0 := by exact_mod_cast h
    have hny := mul_neg_of_neg_of_pos h' hy
    rw [hcast, abs_of_neg h', decide_eq_true h, neg_mul]
    cases u
    · exact iff_of_false (fun h2 => by rw [if_neg Bool.false_ne_true] at h2; linarith) (fun h2 => Bool.noConfusion h2.1)
    · rw [if_pos rfl]
      exact ⟨fun h2 => ⟨rfl, by linarith⟩, fun h2 => by linarith [h2.2]⟩
  · have h' : (0 : ℝ) < n := by exact_mod_cast h
    have hny := mul_pos h' hy
    rw [hcast, abs_of_pos h', decide_eq_false (not_lt.2 h.le)]
    cases u
    · rw [if_neg Bool.false_ne_true]
      exact ⟨fun h2 => ⟨rfl, by linarith⟩, fun h2 => by linarith [h2.2]⟩
    · exact iff_of_false (fun h2 => by rw [if_pos rfl] at h2; linarith) (fun h2 => Bool.noConfusion h2.1)

theorem exactOf_value (s : Bool) (m : Nat) (e : Int) :
    ((exactOf s m e).n : ℝ) * 2^(exactOf s m e).e = (if s then -1 else 1) * (m : ℝ) * 2^e := by
  cases s <;> simp [exactOf]

theorem Exact.add_value (a b : Exact) : ((a.add b).n : ℝ) * 2^(a.add b).e = a.n * 2^a.e + b.n * 2^b.e := by
  have shift (k e : Int) (h : e ≤ k) : (2 : ℝ)^(k - e).toNat * 2^e = 2^k := by
    obtain ⟨d, rfl⟩ := Int.le.dest h
    rw [show (e + (d : Int) - e).toNat = d by omega, mul_comm, ← scale_add]
  unfold Exact.add
  push_cast
  rw [add_mul, mul_assoc, mul_assoc, shift _ _ (min_le_left _ _), shift _ _ (min_le_right _ _)]

/-- The sum that FADD and the last step of FFMA form of two values (R210). -/
def sumOf (f : Fmt) (mode : RMode) (ftz : Bool) (x y : FVal) : Nat × FlagSet :=
  match x, y with
  | .nan, _ => (f.nan, 0)
  | _, .nan => (f.nan, 0)
  | .inf s, .inf t => if s = t then (infPat f s, 0) else (f.nan, flNV)
  | .inf s, .fin .. => (infPat f s, 0)
  | .fin .., .inf t => (infPat f t, 0)
  | .fin s m e, .fin t n k => sumFin f mode ftz s m e t n k

theorem fAdd_eq (f : Fmt) (mode : RMode) (ftz : Bool) (a b : Nat) :
    fAdd f mode ftz a b = sumOf f mode ftz (val f (ftzIn f ftz a)) (val f (ftzIn f ftz b)) := rfl

theorem fFma_eq (f : Fmt) (mode : RMode) (ftz : Bool) (a b c : Nat) :
    fFma f mode ftz a b c = match prodVal (val f (ftzIn f ftz a)) (val f (ftzIn f ftz b)) with
      | none => (f.nan, flNV)
      | some pv => sumOf f mode ftz pv (val f (ftzIn f ftz c)) := rfl

theorem sumOf_clash {f : Fmt} {mode : RMode} {ftz : Bool} {p q : FVal} (h : ClashAdd p q) : sumOf f mode ftz p q = (f.nan, flNV) := by
  obtain ⟨s, rfl, rfl⟩ := h
  cases s <;> rfl

section
variable {f : Fmt} (hf : f.Sound) {mode : RMode} {ftz : Bool}
include hf

/-- A sum of two finite values is rounded once; an exact zero has the sign of R111. -/
theorem sumFin_rounded {s t : Bool} {m n : Nat} {e k : Int} {r : FVal} (h : SumIs mode (.fin s m e) (.fin t n k) r) :
    Rounded f mode ftz r (sumFin f mode ftz s m e t n k) := by
  obtain ⟨-, -, -, hsum⟩ := h
  obtain ⟨hr, hsign⟩ := hsum _ _ (FVal.is_fin.2 rfl) (FVal.is_fin.2 rfl)
  obtain ⟨u, c, j, rfl⟩ := hr.fin
  have hvalue := (exactOf s m e).add_value (exactOf t n k)
  rw [exactOf_value, exactOf_value] at hvalue
  rw [FVal.is_fin, ← hvalue, eq_comm, mul_assoc] at hr
  rw [← hvalue] at hsign
  unfold sumFin
  dsimp only
  generalize (exactOf s m e).add (exactOf t n k) = x at *
  by_cases hx : x.n = 0
  · rw [if_pos hx]
    rw [hx, Int.cast_zero, zero_mul] at hr hsign
    obtain rfl : c = 0 := by
      have : (FVal.fin u c j).Is 0 := by rw [FVal.is_fin, mul_assoc]; exact hr.symm
      exact FVal.is_zero_iff.1 this
    have hu : u = zeroSign mode s t := by
      obtain ⟨heq, hne⟩ := hsign rfl
      unfold zeroSign
      by_cases hst : s = t
      · rw [if_pos hst]; exact heq hst
      · have := hne hst
        rw [if_neg hst, Bool.eq_iff_iff]
        cases mode <;> simpa [FVal.sign] using this
    rw [hu]
    exact rounded_zero hf _ j
  · rw [if_neg hx]
    obtain ⟨hu, hc⟩ := (signed_eq_iff (mul_nonneg (Nat.cast_nonneg c) (scale_pos j).le) (scale_pos x.e) hx).1 hr
    have hc0 : c ≠ 0 := by
      rintro rfl
      rw [Nat.cast_zero, zero_mul] at hc
      exact absurd hc.symm (mul_pos (by exact_mod_cast Int.natAbs_pos.2 hx) (scale_pos x.e)).ne'
    refine rounded_fin hc0 ?_
    rw [hc, hu]
    exact roundFit_delivers_exact hf (Int.natAbs_pos.2 hx).ne'

/-- R111, R210: the exact sum, rounded once. -/
theorem sumOf_rounded (hi : f.ieee = true) (hn : f.nan < 2^f.bits) {p q r : FVal} (h : SumIs mode p q r) : Rounded f mode ftz r (sumOf f mode ftz p q) := by
  obtain ⟨hclash, hnan, hinf, -⟩ := id h
  cases p with
  | nan => rw [hnan (.inl rfl)]; exact rounded_nan hn
  | inf s =>
    cases q with
    | nan => rw [hnan (.inr rfl)]; exact rounded_nan hn
    | inf t =>
      have hst : s = t := by
        by_contra hst
        exact hclash ⟨s, rfl, by cases s <;> cases t <;> simp_all⟩
      rw [hinf s FVal.noConfusion FVal.noConfusion (.inl rfl), sumOf, if_pos hst]
      exact rounded_inf hf hi s
    | fin t n k => rw [hinf s FVal.noConfusion FVal.noConfusion (.inl rfl)]; exact rounded_inf hf hi s
  | fin s m e =>
    cases q with
    | nan => rw [hnan (.inr rfl)]; exact rounded_nan hn
    | inf t => rw [hinf t FVal.noConfusion FVal.noConfusion (.inr rfl)]; exact rounded_inf hf hi t
    | fin t n k => exact sumFin_rounded hf h

end

/-! ## Products -/

/-- The same value, up to how a finite one is written. -/
def FVal.Alike (v w : FVal) : Prop := v = w ∨ ∃ s m e n k, v = .fin s m e ∧ w = .fin s n k ∧ (m : ℝ) * 2^e = (n : ℝ) * 2^k

theorem FVal.Alike.is_iff {v w : FVal} (h : v.Alike w) (x : ℝ) : v.Is x ↔ w.Is x := by
  obtain rfl | ⟨s, m, e, n, k, rfl, rfl, h⟩ := h
  · rfl
  · rw [FVal.is_fin, FVal.is_fin, mul_assoc, h, mul_assoc]

theorem FVal.Alike.sign_eq {v w : FVal} (h : v.Alike w) : v.sign = w.sign := by
  obtain rfl | ⟨s, m, e, n, k, rfl, rfl, -⟩ := h <;> rfl

theorem FVal.Alike.eq_nan_iff {v w : FVal} (h : v.Alike w) : v = .nan ↔ w = .nan := by
  obtain rfl | ⟨s, m, e, n, k, rfl, rfl, -⟩ := h <;> simp

theorem FVal.Alike.eq_inf_iff {v w : FVal} (h : v.Alike w) (s : Bool) : v = .inf s ↔ w = .inf s := by
  obtain rfl | ⟨s, m, e, n, k, rfl, rfl, -⟩ := h <;> simp

theorem FVal.Alike.sumIs {v w z r : FVal} {mode : RMode} (h : v.Alike w) (hs : SumIs mode v z r) : SumIs mode w z r := by
  simpa only [SumIs, ClashAdd, h.eq_nan_iff, h.eq_inf_iff, h.is_iff, h.sign_eq, ne_eq] using hs

theorem FVal.Alike.clashAdd {v w z : FVal} (h : v.Alike w) (hc : ClashAdd v z) : ClashAdd w z := by
  simpa only [ClashAdd, h.eq_inf_iff] using hc

theorem signed_mul (s t : Bool) (x y z w : ℝ) :
    (if s then -1 else 1) * x * z * ((if t then -1 else 1) * y * w) = (if (s != t) then -1 else 1) * (x * z * (y * w)) := by
  cases s <;> cases t <;> simp

/-- The product of FFMA is the exact product (R210). -/
theorem prodVal_alike {x y r : FVal} (h : ProductIs x y r) : ∃ v, prodVal x y = some v ∧ r.Alike v := by
  obtain ⟨hclash, hnan, hinf, hfin⟩ := h
  cases x with
  | nan => exact ⟨.nan, rfl, .inl (hnan (.inl rfl))⟩
  | inf s =>
    have hr := fun hy => hinf s FVal.noConfusion hy (.inl rfl)
    cases y with
    | nan => exact ⟨.nan, rfl, .inl (hnan (.inr rfl))⟩
    | inf t => exact ⟨.inf (s != t), rfl, .inl (hr FVal.noConfusion)⟩
    | fin t n k =>
      have hn : n ≠ 0 := fun hn => hclash ⟨s, .inr ⟨rfl, FVal.is_zero_iff.2 hn⟩⟩
      exact ⟨.inf (s != t), if_neg hn, .inl (hr FVal.noConfusion)⟩
  | fin s m e =>
    cases y with
    | nan => exact ⟨.nan, rfl, .inl (hnan (.inr rfl))⟩
    | inf t =>
      have hm : m ≠ 0 := fun hm => hclash ⟨t, .inl ⟨FVal.is_zero_iff.2 hm, rfl⟩⟩
      exact ⟨.inf (s != t), if_neg hm, .inl (hinf t FVal.noConfusion FVal.noConfusion (.inr rfl))⟩
    | fin t n k =>
      obtain ⟨hr, hsign⟩ := hfin _ _ (FVal.is_fin.2 rfl) (FVal.is_fin.2 rfl)
      obtain ⟨u, c, j, rfl⟩ := hr.fin
      obtain rfl : u = (s != t) := hsign
      refine ⟨.fin (s != t) (m * n) (e + k), rfl, .inr ⟨_, _, _, _, _, rfl, rfl, ?_⟩⟩
      rw [FVal.is_fin, signed_mul, mul_assoc _ (c : ℝ)] at hr
      have hsgn : (if (s != t) = true then (-1 : ℝ) else 1) ≠ 0 := by split <;> norm_num
      rw [← mul_left_cancel₀ hsgn hr, zpow_add₀ two_ne_zero]
      push_cast
      ring

theorem prodVal_clash {x y : FVal} (h : ClashMul x y) : prodVal x y = none := by
  obtain ⟨s, ⟨hx, rfl⟩ | ⟨rfl, hy⟩⟩ := h
  · obtain ⟨t, m, e, rfl⟩ := hx.fin
    exact if_pos (FVal.is_zero_iff.1 hx)
  · obtain ⟨t, m, e, rfl⟩ := hy.fin
    exact if_pos (FVal.is_zero_iff.1 hy)

theorem fFma_clash {f : Fmt} {mode : RMode} {ftz : Bool} {a b c : Nat} (h : ClashMul (val f (ftzIn f ftz a)) (val f (ftzIn f ftz b))) :
    fFma f mode ftz a b c = (f.nan, flNV) := by
  rw [fFma_eq, prodVal_clash h]

theorem fMul_clash {f : Fmt} {mode : RMode} {ftz : Bool} {a b : Nat} (h : ClashMul (val f (ftzIn f ftz a)) (val f (ftzIn f ftz b))) :
    fMul f mode ftz a b = (f.nan, flNV) := by
  unfold fMul
  obtain ⟨s, ⟨hx, hy⟩ | ⟨hx, hy⟩⟩ := h
  · obtain ⟨t, m, e, hm⟩ := hx.fin
    rw [hm] at hx ⊢
    rw [hy]
    exact if_pos (FVal.is_zero_iff.1 hx)
  · obtain ⟨t, m, e, hm⟩ := hy.fin
    rw [hm] at hy ⊢
    rw [hx]
    exact if_pos (FVal.is_zero_iff.1 hy)

/-- R210: the exact product, rounded once. -/
theorem fMul_rounded {f : Fmt} (hf : f.Sound) (hi : f.ieee = true) (hn : f.nan < 2^f.bits) {mode : RMode} {ftz : Bool} {a b : Nat} {r : FVal}
    (h : ProductIs (val f (ftzIn f ftz a)) (val f (ftzIn f ftz b)) r) : Rounded f mode ftz r (fMul f mode ftz a b) := by
  have halike := prodVal_alike h
  obtain ⟨hclash, hnan, hinf, hfin⟩ := h
  unfold fMul
  generalize val f (ftzIn f ftz a) = x at *
  generalize val f (ftzIn f ftz b) = y at *
  cases x with
  | nan => rw [hnan (.inl rfl)]; exact rounded_nan hn
  | inf s =>
    have hr := fun hy => hinf s FVal.noConfusion hy (.inl rfl)
    cases y with
    | nan => rw [hnan (.inr rfl)]; exact rounded_nan hn
    | inf t => rw [hr FVal.noConfusion]; exact rounded_inf hf hi _
    | fin t n k =>
      have hn : n ≠ 0 := fun hn => hclash ⟨s, .inr ⟨rfl, FVal.is_zero_iff.2 hn⟩⟩
      rw [hr FVal.noConfusion]
      dsimp only
      rw [if_neg hn]
      exact rounded_inf hf hi _
  | fin s m e =>
    cases y with
    | nan => rw [hnan (.inr rfl)]; exact rounded_nan hn
    | inf t =>
      have hm : m ≠ 0 := fun hm => hclash ⟨t, .inl ⟨FVal.is_zero_iff.2 hm, rfl⟩⟩
      rw [hinf t FVal.noConfusion FVal.noConfusion (.inr rfl)]
      dsimp only
      rw [if_neg hm]
      exact rounded_inf hf hi _
    | fin t n k =>
      obtain ⟨v, hv, hal⟩ := halike
      cases hv
      dsimp only
      obtain ⟨c, j, rfl, hc⟩ : ∃ c j, r = .fin (s != t) c j ∧ (c : ℝ) * 2^j = ((m * n : ℕ) : ℝ) * 2^(e + k) := by
        obtain rfl | ⟨u, c, j, n', k', rfl, h2, h3⟩ := hal
        · exact ⟨_, _, rfl, rfl⟩
        · cases h2
          exact ⟨c, j, rfl, h3⟩
      by_cases h0 : m = 0 ∨ n = 0
      · have hmn : m * n = 0 := Nat.mul_eq_zero.2 h0
        have hc0 : c = 0 := by
          rw [hmn, Nat.cast_zero, zero_mul, mul_eq_zero, or_iff_left (scale_pos j).ne'] at hc
          exact_mod_cast hc
        rw [if_pos (by simpa using h0), hc0]
        exact rounded_zero hf _ j
      · have hmn : m * n ≠ 0 := mt Nat.mul_eq_zero.1 h0
        have hc0 : c ≠ 0 := by
          rintro rfl
          rw [Nat.cast_zero, zero_mul, eq_comm, mul_eq_zero, or_iff_left (scale_pos _).ne'] at hc
          exact hmn (by exact_mod_cast hc)
        rw [if_neg (by simpa using h0)]
        refine rounded_fin hc0 ?_
        rw [hc]
        exact roundFit_delivers_exact hf hmn

end Sys2Proof.Machine
end

section
/-! SUPPORT. The turned sign of FSUB, the order of FMIN and FMAX (R211) and the integral values of FRND (R214). -/

namespace Sys2Proof.Machine

/-! ## The sign turned -/

/-- A pattern's sign turned is its top bit flipped. -/
theorem negPat_eq_xor {f : Fmt} (hw : 1 ≤ f.bits) {b : Nat} (hb : b < 2^f.bits) : negPat f b = b ^^^ 2^(f.bits - 1) := by
  have h2 : 2^f.bits = 2^(f.bits - 1) + 2^(f.bits - 1) := by rw [← Nat.two_mul, ← Nat.pow_succ']; congr 1; omega
  unfold negPat signBit
  generalize f.bits - 1 = n at *
  rw [h2] at hb
  cases h : b.testBit n with
  | false =>
    have hlt : b < 2^n := by
      by_contra hge
      obtain ⟨c, rfl⟩ := Nat.exists_eq_add_of_le (not_lt.1 hge)
      rw [Nat.testBit_two_pow_add_eq, Nat.testBit_lt_two_pow (by omega)] at h
      exact Bool.noConfusion h
    rw [if_neg Bool.false_ne_true]
    apply Nat.eq_of_testBit_eq
    intro i
    rw [Nat.testBit_xor, Nat.testBit_two_pow, Nat.add_comm]
    rcases Nat.lt_trichotomy i n with hi | rfl | hi
    · rw [Nat.testBit_two_pow_add_gt hi]; simp [hi.ne']
    · rw [Nat.testBit_two_pow_add_eq]; simp
    · have hbig : 2^n + 2^n ≤ 2^i := by rw [← Nat.two_mul, ← Nat.pow_succ']; exact Nat.pow_le_pow_right two_pos hi
      rw [Nat.testBit_lt_two_pow (by omega), Nat.testBit_lt_two_pow (by omega)]; simp [hi.ne]
  | true =>
    have hge := Nat.ge_two_pow_of_testBit h
    obtain ⟨c, rfl⟩ := Nat.exists_eq_add_of_le hge
    rw [if_pos rfl, Nat.add_sub_cancel_left]
    apply Nat.eq_of_testBit_eq
    intro i
    rw [Nat.testBit_xor, Nat.testBit_two_pow]
    rcases Nat.lt_trichotomy i n with hi | rfl | hi
    · rw [Nat.testBit_two_pow_add_gt hi]; simp [hi.ne']
    · rw [Nat.testBit_two_pow_add_eq]; simp
    · have hbig : 2^n + 2^n ≤ 2^i := by rw [← Nat.two_mul, ← Nat.pow_succ']; exact Nat.pow_le_pow_right two_pos hi
      rw [Nat.testBit_lt_two_pow (by omega), Nat.testBit_lt_two_pow (by omega)]; simp [hi.ne]

/-! ## Order -/

/-- The magnitude that exponent and fraction fields stand for. -/
noncomputable def fieldMag (f : Fmt) (E r : Nat) : ℝ :=
  if E = 0 then (r : ℝ) * 2^(f.emin - (f.p : Int) + 1) else ((r + 2^(f.p - 1) : ℕ) : ℝ) * 2^((E : Int) - f.bias - (f.p : Int) + 1)

/-- Magnitudes rise with the pattern. -/
theorem fieldMag_mono {f : Fmt} {E E' r r' : Nat} (hr : r < 2^(f.p - 1)) (h : E < E' ∨ E = E' ∧ r ≤ r') : fieldMag f E r ≤ fieldMag f E' r' := by
  rcases h with h | ⟨rfl, h⟩
  · have hE' : E' ≠ 0 := by omega
    rw [fieldMag, fieldMag, if_neg hE']
    split
    · refine mul_le_mul ?_ (zpow_le_zpow_right₀ one_le_two ?_) (scale_pos _).le (Nat.cast_nonneg _)
      · exact_mod_cast (by omega : r ≤ r' + 2^(f.p - 1))
      · unfold Fmt.emin; omega
    · have h1 : ((r + 2^(f.p - 1) : ℕ) : ℝ) ≤ ((2 * (r' + 2^(f.p - 1)) : ℕ) : ℝ) := by exact_mod_cast (by omega)
      have h2 : (2 : ℝ)^((E : Int) - f.bias - (f.p : Int) + 1) * 2 ≤ 2^((E' : Int) - f.bias - (f.p : Int) + 1) := by
        rw [← zpow_add_one₀ two_ne_zero]
        exact zpow_le_zpow_right₀ one_le_two (by omega)
      calc _ ≤ ((2 * (r' + 2^(f.p - 1)) : ℕ) : ℝ) * (2 : ℝ)^((E : Int) - f.bias - (f.p : Int) + 1) := mul_le_mul_of_nonneg_right h1 (scale_pos _).le
        _ = ((r' + 2^(f.p - 1) : ℕ) : ℝ) * ((2 : ℝ)^((E : Int) - f.bias - (f.p : Int) + 1) * 2) := by push_cast; ring
        _ ≤ _ := mul_le_mul_of_nonneg_left h2 (Nat.cast_nonneg _)
  · unfold fieldMag
    split <;> exact mul_le_mul_of_nonneg_right (by exact_mod_cast (by omega)) (scale_pos _).le

section
variable {f : Fmt} (hf : f.Sound) (hi : f.ieee = true)

include hf in
theorem mod_sign_eq (b : Nat) : b % 2^(f.bits - 1) = expField f b * 2^(f.p - 1) + fracField f b := by
  rw [Fmt.two_pow_sign hf.p_pos hf.p_lt, Nat.mul_comm, Nat.mod_mul, expField, fracField, Nat.add_comm, Nat.mul_comm]

/-- A number pattern is a finite value or an infinity, as its exponent field says. -/
theorem val_number {b : Nat} (h : val f b ≠ .nan) :
    (∃ m e, val f b = .fin (signBit f b) m e ∧ (m : ℝ) * 2^e = fieldMag f (expField f b) (fracField f b)) ∧
        f.special (expField f b) (fracField f b) = false ∨
      val f b = .inf (signBit f b) ∧ expField f b = 2^(f.bits - f.p) - 1 ∧ fracField f b = 0 := by
  cases hs : f.special (expField f b) (fracField f b) with
  | false =>
    left
    rw [val_of_not_special hs]
    refine ⟨?_, rfl⟩
    split
    · exact ⟨_, _, rfl, by rw [fieldMag, if_pos ‹_›]⟩
    · exact ⟨_, _, rfl, by rw [fieldMag, if_neg ‹_›]⟩
  | true =>
    right
    unfold val at *
    dsimp only at *
    split at h
    · rename_i h1
      rw [if_pos h1]
      split at h
      · rename_i h2
        rw [if_pos h2]
        rw [Bool.and_eq_true, beq_iff_eq] at h1
        exact ⟨rfl, h1.2, h2⟩
      · exact absurd rfl h
    · split at h
      · exact absurd rfl h
      · rename_i h1 h2
        rw [Fmt.special, Bool.or_eq_true] at hs
        exact hs.elim (fun h' => absurd h' h1) (fun h' => absurd h' h2)

include hf in
/-- Of two number patterns the one with the smaller magnitude field has the smaller magnitude. -/
theorem fields_of_mod_le {a b : Nat} (h : a % 2^(f.bits - 1) ≤ b % 2^(f.bits - 1)) :
    expField f a < expField f b ∨ expField f a = expField f b ∧ fracField f a ≤ fracField f b := by
  rw [mod_sign_eq hf, mod_sign_eq hf] at h
  have hra : fracField f a < 2^(f.p - 1) := Nat.mod_lt _ (Nat.two_pow_pos _)
  have hrb : fracField f b < 2^(f.p - 1) := Nat.mod_lt _ (Nat.two_pow_pos _)
  rcases Nat.lt_trichotomy (expField f a) (expField f b) with hE | hE | hE
  · exact .inl hE
  · rw [hE] at h
    exact .inr ⟨hE, by omega⟩
  · have := Nat.mul_le_mul_right (2^(f.p - 1)) hE
    rw [Nat.succ_mul] at this
    omega

include hf hi in
/-- An infinity's magnitude field is the greatest of a number. -/
theorem val_inf_of_mod_le {a b : Nat} {s : Bool} (ha : val f a = .inf s) (hb : val f b ≠ .nan) (h : a % 2^(f.bits - 1) ≤ b % 2^(f.bits - 1)) :
    val f b = .inf (signBit f b) := by
  rcases val_number hb with ⟨⟨m, e, -, -⟩, hs⟩ | ⟨hval, -⟩
  · exfalso
    have hab := fields_of_mod_le hf h
    have hEb : expField f b < 2^(f.bits - f.p) := Nat.mod_lt _ (Nat.two_pow_pos _)
    rcases val_number (f := f) (b := a) (by rw [ha]; exact FVal.noConfusion) with ⟨⟨m, e, hval, -⟩, -⟩ | ⟨-, hE, -⟩
    · rw [ha] at hval; cases hval
    · have : expField f b = 2^(f.bits - f.p) - 1 := by omega
      simp [Fmt.special, hi, this] at hs
  · exact hval

include hf hi in
/-- R211: the key orders the numbers as their values do, −0 below +0. -/
theorem below_of_fKey_le {a b : Nat} (ha : val f a ≠ .nan) (hb : val f b ≠ .nan) (h : fKey f a ≤ fKey f b) : (val f a).Below (val f b) := by
  refine ⟨ha, hb, ?_⟩
  have key {a b : Nat} (ha : val f a ≠ .nan) (hb : val f b ≠ .nan) (hab : a % 2^(f.bits - 1) ≤ b % 2^(f.bits - 1)) :
      val f b = .inf (signBit f b) ∨ ∃ m e n k, val f a = .fin (signBit f a) m e ∧ val f b = .fin (signBit f b) n k ∧
        (m : ℝ) * 2^e ≤ n * 2^k := by
    rcases val_number hb with ⟨⟨n, k, hvb, hmb⟩, -⟩ | ⟨hvb, -⟩
    · rcases val_number ha with ⟨⟨m, e, hva, hma⟩, -⟩ | ⟨hva, -⟩
      · right
        refine ⟨m, e, n, k, hva, hvb, ?_⟩
        rw [hma, hmb]
        exact fieldMag_mono (Nat.mod_lt _ (Nat.two_pow_pos _)) (fields_of_mod_le hf hab)
      · exact .inl (val_inf_of_mod_le hf hi hva hb hab)
    · exact .inl hvb
  unfold fKey at h
  dsimp only at h
  cases hsa : signBit f a <;> cases hsb : signBit f b <;> simp only [hsa, hsb, Bool.false_eq_true, if_false, if_true] at h
  · have hab : a % 2^(f.bits - 1) ≤ b % 2^(f.bits - 1) := by exact_mod_cast h
    rcases key ha hb hab with hinf | ⟨m, e, n, k, hva, hvb, hle⟩
    · exact .inr (.inl (hsb ▸ hinf))
    · refine .inr (.inr ⟨_, _, ⟨_, _, _, hva, rfl⟩, ⟨_, _, _, hvb, rfl⟩, ?_, fun _ _ => by rw [hvb, hsb]; rfl⟩)
      simpa [hsa, hsb] using hle
  · exact absurd h (by omega)
  · rcases val_number ha with ⟨⟨m, e, hva, -⟩, -⟩ | ⟨hva, -⟩
    · rcases val_number hb with ⟨⟨n, k, hvb, -⟩, -⟩ | ⟨hvb, -⟩
      · refine .inr (.inr ⟨_, _, ⟨_, _, _, hva, rfl⟩, ⟨_, _, _, hvb, rfl⟩, ?_, fun _ hs => ?_⟩)
        · have h1 : 0 ≤ (m : ℝ) * 2^e := mul_nonneg (Nat.cast_nonneg m) (scale_pos e).le
          have h2 : 0 ≤ (n : ℝ) * 2^k := mul_nonneg (Nat.cast_nonneg n) (scale_pos k).le
          simp only [hsa, hsb, if_true, Bool.false_eq_true, if_false]
          linarith
        · rw [hva, hsa] at hs; exact Bool.noConfusion hs
      · exact .inr (.inl (hsb ▸ hvb))
    · exact .inl (hsa ▸ hva)
  · have hab : b % 2^(f.bits - 1) ≤ a % 2^(f.bits - 1) := by
      have h' : (b : Int) % 2^(f.bits - 1) ≤ (a : Int) % 2^(f.bits - 1) := by linarith
      exact_mod_cast h'
    rcases key hb ha hab with hinf | ⟨n, k, m, e, hvb, hva, hle⟩
    · exact .inl (hsa ▸ hinf)
    · refine .inr (.inr ⟨_, _, ⟨_, _, _, hva, rfl⟩, ⟨_, _, _, hvb, rfl⟩, ?_, fun _ hs => ?_⟩)
      · simp only [hsa, hsb, if_true]
        linarith
      · rw [hva, hsa] at hs; exact Bool.noConfusion hs

theorem isNan_iff (f : Fmt) (b : Nat) : isNan f b = true ↔ val f b = .nan := by simp [isNan]

include hf hi in
/-- R211: of two numbers FMIN and FMAX deliver one that neither lies below, or above. -/
theorem fMinMax_numbers {ftz : Bool} {a b : Nat} (isMax : Bool) (ha : val f (ftzIn f ftz a) ≠ .nan) (hb : val f (ftzIn f ftz b) ≠ .nan) :
    (fMinMax f ftz isMax a b = ftzIn f ftz a ∨ fMinMax f ftz isMax a b = ftzIn f ftz b) ∧
      if isMax then (val f (ftzIn f ftz a)).Below (val f (fMinMax f ftz isMax a b)) ∧ (val f (ftzIn f ftz b)).Below (val f (fMinMax f ftz isMax a b))
      else (val f (fMinMax f ftz isMax a b)).Below (val f (ftzIn f ftz a)) ∧ (val f (fMinMax f ftz isMax a b)).Below (val f (ftzIn f ftz b)) := by
  unfold fMinMax
  dsimp only
  generalize ftzIn f ftz a = x at *
  generalize ftzIn f ftz b = y at *
  rw [if_neg (mt (isNan_iff f x).1 ha), if_neg (mt (isNan_iff f y).1 hb)]
  have hx := below_of_fKey_le hf hi ha ha (le_refl _)
  have hy := below_of_fKey_le hf hi hb hb (le_refl _)
  cases isMax
  · simp only [Bool.false_eq_true, if_false]
    split
    · rename_i h; exact ⟨.inr rfl, below_of_fKey_le hf hi hb ha h.le, hy⟩
    · rename_i h; exact ⟨.inl rfl, hx, below_of_fKey_le hf hi ha hb (not_lt.1 h)⟩
  · simp only [if_true]
    split
    · rename_i h; exact ⟨.inr rfl, below_of_fKey_le hf hi ha hb h.le, hy⟩
    · rename_i h; exact ⟨.inl rfl, hx, below_of_fKey_le hf hi hb ha (not_lt.1 h)⟩

/-- R211: a NaN gives way to a number. -/
theorem fMinMax_nan (ftz isMax : Bool) (a b : Nat) :
    (val f (ftzIn f ftz a) = .nan → val f (ftzIn f ftz b) = .nan → fMinMax f ftz isMax a b = f.nan) ∧
    (val f (ftzIn f ftz a) = .nan → val f (ftzIn f ftz b) ≠ .nan → fMinMax f ftz isMax a b = ftzIn f ftz b) ∧
    (val f (ftzIn f ftz a) ≠ .nan → val f (ftzIn f ftz b) = .nan → fMinMax f ftz isMax a b = ftzIn f ftz a) := by
  unfold fMinMax
  dsimp only
  refine ⟨fun ha hb => ?_, fun ha hb => ?_, fun ha hb => ?_⟩
  · rw [if_pos ((isNan_iff ..).2 ha), if_pos ((isNan_iff ..).2 hb)]
  · rw [if_pos ((isNan_iff ..).2 ha), if_neg (mt (isNan_iff ..).1 hb)]
  · rw [if_neg (mt (isNan_iff ..).1 ha), if_pos ((isNan_iff ..).2 hb)]

end

/-! ## Integral values -/

theorem fRnd_nan {f : Fmt} {mode : RMode} {ftz : Bool} {a : Nat} (h : val f (ftzIn f ftz a) = .nan) : fRnd f mode ftz a = (f.nan, 0) := by
  unfold fRnd
  dsimp only
  rw [h]

theorem fRnd_of_inf_or_zero {f : Fmt} {mode : RMode} {ftz : Bool} {a : Nat}
    (h : (∃ s, val f (ftzIn f ftz a) = .inf s) ∨ (val f (ftzIn f ftz a)).Is 0) : fRnd f mode ftz a = (ftzIn f ftz a, 0) := by
  unfold fRnd
  dsimp only
  rcases h with ⟨s, h⟩ | h
  · rw [h]
  · obtain ⟨s, m, e, hm⟩ := h.fin
    rw [hm] at h ⊢
    dsimp only
    rw [if_pos (FVal.is_zero_iff.1 h)]

/-- R214: a nonzero number rounds to the integral value that the mode says, with NX when it was none. -/
theorem fRnd_mag {f : Fmt} (hf : f.Sound) (hsmall : f.emin - f.p + 1 ≤ 0) (hlarge : ((2^(f.p - 1) : ℕ) : ℝ) ≤ f.maxMag) {mode : RMode} {ftz neg : Bool}
    {a : Nat} {v w : ℝ} (hv : 0 < v) (hx : (val f (ftzIn f ftz a)).Mag neg v) (hw : RoundsOn mode neg 1 v w) :
    (val f (fRnd f mode ftz a).1).Mag neg w ∧ (fRnd f mode ftz a).2 = if w = v then 0 else flNX := by
  obtain ⟨m, e, hval, rfl⟩ := id hx
  have hm : m ≠ 0 := by rintro rfl; simp at hv
  obtain ⟨hmp, -⟩ := val_fin_bounds hf hval
  unfold fRnd
  dsimp only
  rw [hval]
  dsimp only
  rw [if_neg hm]
  obtain ⟨hon, hix⟩ := roundTo_spec (mode := mode) (neg := neg) (m := m) (e := e) (k := 0) (sticky := false) (le_refl _)
    (mul_lt_mul_of_pos_right (lt_add_one _) (scale_pos e)) (by simp) (by simp) (by simp)
  rw [zpow_zero] at hon hix
  simp only [mul_one] at hon hix
  obtain rfl := hon.unique one_pos hw
  by_cases he : 0 ≤ e
  · rw [if_pos he]
    obtain ⟨d, rfl⟩ := Int.le.dest he
    rw [roundTo_of_le] at hix ⊢
    have hexact : ((m * 2^d : ℕ) : ℝ) = m * 2^((0 : Int) + d) := by
      by_contra h
      exact absurd (hix.2 h) Bool.false_ne_true
    dsimp only
    rw [if_pos hexact, hval, FVal.mag_fin, hexact]
    exact ⟨⟨rfl, rfl⟩, rfl⟩
  · rw [if_neg he]
    obtain ⟨d, hd⟩ : ∃ d : ℕ, (0 : Int) = e + (d + 1 : ℕ) := ⟨(-e).toNat - 1, by omega⟩
    have hq : (roundTo mode neg m e false 0).1 ≤ 2^(f.p - 1) := by
      rw [hd, roundTo_of_lt]
      have hlo : m / 2^(d + 1) < 2^(f.p - 1) := by
        have hpp : 2^f.p = 2^(f.p - 1) * 2 := by rw [← Nat.pow_succ]; congr 1; have := hf.p_pos; omega
        rw [Nat.div_lt_iff_lt_mul (Nat.two_pow_pos _), ← Nat.pow_add]
        exact hmp.trans_le (by rw [hpp, ← Nat.pow_succ]; exact Nat.pow_le_pow_right two_pos (by omega))
      dsimp only
      split <;> omega
    have henc := encFin_mag hf (neg := neg) (q := (roundTo mode neg m e false 0).1) (k := 0)
      (hq.trans (Nat.pow_le_pow_right two_pos (Nat.sub_le _ _))) hsmall (by
        rw [zpow_zero, mul_one]
        exact le_trans (by exact_mod_cast hq) hlarge)
    rw [zpow_zero, mul_one] at henc
    refine ⟨henc.1, ?_⟩
    by_cases h : ((roundTo mode neg m e false 0).1 : ℝ) = m * 2^e
    · rw [if_pos h, if_neg (fun h' => hix.1 h' h)]
    · rw [if_neg h, if_pos (hix.2 h)]

end Sys2Proof.Machine
end

section
/-! SUPPORT. Quotients, roots and the special functions (R215, R216): the integers that FDIV, FSQRT, FRCP and FRSQ round are the floors of
exact values, and what the special functions make of special and exact inputs. -/

namespace Sys2Proof.Machine

/-! ## Signs and magnitudes -/

theorem abs_signed (s : Bool) (m : Nat) (e : Int) : |(if s then -1 else 1) * (m : ℝ) * 2^e| = m * 2^e := by
  have h : (0 : ℝ) ≤ m * 2^e := mul_nonneg (Nat.cast_nonneg m) (scale_pos e).le
  cases s
  · rw [if_neg Bool.false_ne_true, one_mul, abs_of_nonneg h]
  · rw [if_pos rfl, mul_assoc, abs_mul, abs_of_nonneg h, abs_neg, abs_one, one_mul]

theorem FVal.Is.abs {s : Bool} {m : Nat} {e : Int} {x : ℝ} (h : (FVal.fin s m e).Is x) : |x| = m * 2^e := by
  rw [FVal.is_fin.1 h, abs_signed]

theorem FVal.Is.ne_zero {s : Bool} {m : Nat} {e : Int} {x : ℝ} (h : (FVal.fin s m e).Is x) (hx : x ≠ 0) : m ≠ 0 := by
  rintro rfl
  exact hx (by simpa using h)

/-- A positive value has no sign. -/
theorem FVal.Is.of_pos {s : Bool} {m : Nat} {e : Int} {x : ℝ} (h : (FVal.fin s m e).Is x) (hx : 0 < x) : s = false ∧ m ≠ 0 ∧ x = m * 2^e := by
  have hm := h.ne_zero hx.ne'
  have habs := h.abs
  rw [abs_of_pos hx] at habs
  refine ⟨?_, hm, habs⟩
  cases s
  · rfl
  · rw [FVal.is_fin, if_pos rfl] at h
    linarith

/-- A negative value has one. -/
theorem FVal.Is.of_neg {s : Bool} {m : Nat} {e : Int} {x : ℝ} (h : (FVal.fin s m e).Is x) (hx : x < 0) : s = true ∧ m ≠ 0 := by
  refine ⟨?_, h.ne_zero hx.ne⟩
  cases s
  · rw [FVal.is_fin, if_neg Bool.false_ne_true] at h
    have : (0 : ℝ) ≤ m * 2^e := mul_nonneg (Nat.cast_nonneg m) (scale_pos e).le
    linarith
  · rfl

/-! ## Quotients -/

/-- A quotient lies between its floor and the next integer, and is its floor when nothing is left over. -/
theorem quotient_between (N : Nat) {n : Nat} (hn : n ≠ 0) (j : Int) :
    ((N / n : ℕ) : ℝ) * 2^j ≤ (N : ℝ) / n * 2^j ∧ (N : ℝ) / n * 2^j < (((N / n : ℕ) : ℝ) + 1) * 2^j ∧
      (decide (N % n ≠ 0) = true ↔ (N : ℝ) / n * 2^j ≠ ((N / n : ℕ) : ℝ) * 2^j) := by
  have hn' : (0 : ℝ) < n := by exact_mod_cast Nat.pos_of_ne_zero hn
  refine ⟨mul_le_mul_of_nonneg_right Nat.cast_div_le (scale_pos j).le, mul_lt_mul_of_pos_right ?_ (scale_pos j), ?_⟩
  · rw [div_lt_iff₀ hn']
    exact_mod_cast (Nat.lt_mul_div_succ N (Nat.pos_of_ne_zero hn)).trans_eq (Nat.mul_comm ..)
  · rw [decide_eq_true_eq, ne_eq, ne_eq, not_iff_not, mul_eq_mul_right_iff, or_iff_left (scale_pos j).ne', div_eq_iff hn'.ne']
    have hdm := Nat.div_add_mod' N n
    constructor
    · intro h
      rw [h, Nat.add_zero] at hdm
      exact_mod_cast hdm.symm
    · intro h
      have h' : N = N / n * n := by exact_mod_cast h
      omega

theorem fmtF32_bounds {b : Nat} {s : Bool} {m : Nat} {e : Int} (h : val fmtF32 b = .fin s m e) : m < 2^24 ∧ -149 ≤ e := by
  obtain ⟨hm, he⟩ := val_fin_bounds fmtF32_sound h
  exact ⟨hm, he⟩

/-- R215: the quotient of two nonzero numbers is rounded once. -/
theorem fDiv_delivers {mode : RMode} {ftz : Bool} {a b : Nat} {s t : Bool} {m n : Nat} {e k : Int} (hmode : ∀ u, mode ≠ .rs u)
    (hx : val fmtF32 (ftzIn fmtF32 ftz a) = .fin s m e) (hy : val fmtF32 (ftzIn fmtF32 ftz b) = .fin t n k) (hm : m ≠ 0) (hn : n ≠ 0) :
    Delivers fmtF32 mode false ftz (s != t) ((m : ℝ) * 2^e / (n * 2^k)) (fDiv mode ftz a b) := by
  obtain ⟨hnlt, -⟩ := fmtF32_bounds hy
  have hvalue : (m : ℝ) * 2^e / (n * 2^k) = ((m * 2^96 : ℕ) : ℝ) / n * 2^(e - k - 96) := by
    have hk := (scale_pos k).ne'
    have hn' : (n : ℝ) ≠ 0 := by exact_mod_cast hn
    rw [zpow_sub₀ two_ne_zero, zpow_sub₀ two_ne_zero]
    push_cast
    field_simp
    norm_num
  obtain ⟨hlo, hhi, hst⟩ := quotient_between (m * 2^96) hn (e - k - 96)
  have hq : 2^24 ≤ m * 2^96 / n := by
    rw [Nat.le_div_iff_mul_le (Nat.pos_of_ne_zero hn)]
    calc 2^24 * n ≤ 2^24 * 2^24 := Nat.mul_le_mul_left _ hnlt.le
      _ ≤ 1 * 2^96 := by norm_num
      _ ≤ m * 2^96 := Nat.mul_le_mul_right _ (Nat.pos_of_ne_zero hm)
  unfold fDiv
  dsimp only
  rw [hx, hy]
  dsimp only
  rw [if_neg hn, if_neg hm, hvalue]
  exact roundFit_delivers fmtF32_sound (by omega) hlo hhi hst (fun _ => hq) (fun _ => hmode)

/-! ## Square roots -/

theorem isqrtFrom_spec (n : Nat) : ∀ k r : Nat, r * r ≤ n → n < (r + 2^k) * (r + 2^k) →
    isqrtFrom n k r * isqrtFrom n k r ≤ n ∧ n < (isqrtFrom n k r + 1) * (isqrtFrom n k r + 1)
  | 0, _, h1, h2 => ⟨h1, h2⟩
  | k + 1, r, h1, h2 => by
    unfold isqrtFrom
    split
    · rename_i h
      refine isqrtFrom_spec n k _ h ?_
      rwa [Nat.add_assoc, ← Nat.two_mul, ← Nat.pow_succ']
    · rename_i h
      exact isqrtFrom_spec n k r h1 (not_le.1 h)

theorem isqrt_spec {n : Nat} (h : n < 2^256) : isqrt n * isqrt n ≤ n ∧ n < (isqrt n + 1) * (isqrt n + 1) :=
  isqrtFrom_spec n 128 0 (Nat.zero_le n) (by rw [Nat.zero_add, ← Nat.pow_add]; exact h)

/-- A root keeps half the bits. -/
theorem le_isqrt {n : Nat} (h : n < 2^256) (hn : 2^48 ≤ n) : 2^24 ≤ isqrt n := by
  by_contra hr
  have := (isqrt_spec h).2
  have : (isqrt n + 1) * (isqrt n + 1) ≤ 2^24 * 2^24 := Nat.mul_le_mul (by omega) (by omega)
  omega

/-- A number lies between `r` and `r + 1` when its square lies between their squares. -/
theorem between_of_sq {r : Nat} {S : ℝ} (hS : 0 ≤ S) (h1 : (r : ℝ) * r ≤ S * S) (h2 : S * S < ((r : ℝ) + 1) * (r + 1)) (j : Int) :
    (r : ℝ) * 2^j ≤ S * 2^j ∧ S * 2^j < ((r : ℝ) + 1) * 2^j ∧ (S * 2^j ≠ r * 2^j ↔ (r : ℝ) * r ≠ S * S) := by
  have hr : (0 : ℝ) ≤ r := Nat.cast_nonneg r
  refine ⟨mul_le_mul_of_nonneg_right ((mul_self_le_mul_self_iff hr hS).2 h1) (scale_pos j).le,
    mul_lt_mul_of_pos_right ((mul_self_lt_mul_self_iff hS (by linarith)).2 h2) (scale_pos j), ?_⟩
  rw [ne_eq, ne_eq, not_iff_not, mul_eq_mul_right_iff, or_iff_left (scale_pos j).ne', mul_self_inj hr hS, eq_comm]

/-- The root of a number times an even power of two. -/
theorem sqrt_scale (x : ℝ) (j : Int) : Real.sqrt (x * 2^(2 * j)) = Real.sqrt x * 2^j := by
  rw [mul_comm 2 j, zpow_mul, Real.sqrt_mul' _ (by positivity)]
  congr 1
  rw [show ((2 : ℝ)^j)^(2 : Int) = 2^j * 2^j by rw [zpow_two], Real.sqrt_mul_self (scale_pos j).le]

theorem sqrtParts_spec {m : Nat} (hm : m ≠ 0) (hlt : m < 2^24) (e : Int) : ∃ n j, sqrtParts m e = (isqrt n, j, decide (isqrt n * isqrt n ≠ n)) ∧
    n < 2^256 ∧ 2^48 ≤ n ∧ Real.sqrt (m * 2^e) = Real.sqrt n * 2^j := by
  have h1 : 1 ≤ m := Nat.pos_of_ne_zero hm
  unfold sqrtParts
  by_cases he : e % 2 = 0
  · rw [if_pos he]
    refine ⟨m * 2^160, (e - 160) / 2, rfl, by omega, by omega, ?_⟩
    rw [← sqrt_scale, show 2 * ((e - 160) / 2) = e - 160 by omega, zpow_sub₀ two_ne_zero]
    congr 1
    push_cast
    field_simp
    norm_num
  · rw [if_neg he]
    refine ⟨m * 2^161, (e - 161) / 2, rfl, by omega, by omega, ?_⟩
    rw [← sqrt_scale, show 2 * ((e - 161) / 2) = e - 161 by omega, zpow_sub₀ two_ne_zero]
    congr 1
    push_cast
    field_simp
    norm_num

/-- R215: the root of a positive number is rounded once. -/
theorem fSqrt_delivers {mode : RMode} {ftz : Bool} {a : Nat} {m : Nat} {e : Int} (hmode : ∀ u, mode ≠ .rs u)
    (hx : val fmtF32 (ftzIn fmtF32 ftz a) = .fin false m e) (hm : m ≠ 0) :
    Delivers fmtF32 mode false ftz false (Real.sqrt (m * 2^e)) (fSqrt mode ftz a) := by
  obtain ⟨hlt, -⟩ := fmtF32_bounds hx
  obtain ⟨n, j, hparts, hn, hbig, hroot⟩ := sqrtParts_spec hm hlt e
  obtain ⟨hr1, hr2⟩ := isqrt_spec hn
  have hS : Real.sqrt n * Real.sqrt n = n := Real.mul_self_sqrt (Nat.cast_nonneg n)
  obtain ⟨hlo, hhi, hst⟩ := between_of_sq (r := isqrt n) (S := Real.sqrt n) (Real.sqrt_nonneg _) (by rw [hS]; exact_mod_cast hr1)
    (by rw [hS]; exact_mod_cast hr2) j
  have hsticky : decide (isqrt n * isqrt n ≠ n) = true ↔ Real.sqrt n * 2^j ≠ isqrt n * 2^j := by
    rw [hst, hS, decide_eq_true_eq, ne_eq, ne_eq, not_iff_not]
    constructor <;> intro h <;> exact_mod_cast h
  have hq := le_isqrt hn hbig
  unfold fSqrt
  dsimp only
  rw [hx]
  dsimp only
  rw [if_neg hm, if_neg Bool.false_ne_true, hparts, hroot]
  exact roundFit_delivers fmtF32_sound (by omega) hlo hhi hsticky (fun _ => hq) (fun _ => hmode)

/-! ## FRCP and FRSQ -/

/-- A special function delivers its result and raises nothing for it. -/
theorem delivers_of_eq {f : Fmt} {mode : RMode} {sat ftz neg : Bool} {a : ℝ} {p out : Nat × FlagSet} (hp : p = (out.1, 0))
    (h : Delivers f mode sat ftz neg a out) : p.2 = 0 ∧ ∃ fl, Delivers f mode sat ftz neg a (p.1, fl) := by
  subst hp
  exact ⟨rfl, out.2, h⟩

/-- R216: FRCP of a nonzero number is its reciprocal, rounded to nearest even, without a flag. -/
theorem fRcp_delivers {a : Nat} {s : Bool} {m : Nat} {e : Int} (hx : val fmtF32 a = .fin s m e) (hm : m ≠ 0) :
    (fRcp a).2 = 0 ∧ ∃ fl, Delivers fmtF32 .rn false false s (1 / ((m : ℝ) * 2^e)) ((fRcp a).1, fl) := by
  obtain ⟨hlt, -⟩ := fmtF32_bounds hx
  obtain ⟨hlo, hhi, hst⟩ := quotient_between (2^160) hm (-e - 160)
  have hq : 2^24 ≤ 2^160 / m := by
    rw [Nat.le_div_iff_mul_le (Nat.pos_of_ne_zero hm)]
    calc 2^24 * m ≤ 2^24 * 2^24 := Nat.mul_le_mul_left _ hlt.le
      _ ≤ 2^160 := by norm_num
  have hvalue : 1 / ((m : ℝ) * 2^e) = ((2^160 : ℕ) : ℝ) / m * 2^(-e - 160) := by
    have hk := (scale_pos e).ne'
    have hm' : (m : ℝ) ≠ 0 := by exact_mod_cast hm
    rw [zpow_sub₀ two_ne_zero, zpow_neg]
    push_cast
    field_simp
    norm_num
  rw [hvalue]
  refine delivers_of_eq ?_ (roundFit_delivers fmtF32_sound (by omega) hlo hhi hst (fun _ => hq) (fun _ _ => RMode.noConfusion))
  unfold fRcp
  rw [hx]
  exact if_neg hm

/-- The root of a reciprocal, in integers: `r` is the floor of 2^120 / √n. -/
theorem isqrt_div_between {n : Nat} (hn : n ≠ 0) (hlt : n < 2^25) (j : Int) : ∃ r, isqrt (2^240 / n) = r ∧
    (r : ℝ) * 2^j ≤ 2^120 / Real.sqrt n * 2^j ∧ 2^120 / Real.sqrt n * 2^j < ((r : ℝ) + 1) * 2^j ∧
      (decide (r * r * n ≠ 2^240) = true ↔ 2^120 / Real.sqrt n * 2^j ≠ r * 2^j) ∧ 2^24 ≤ r := by
  have hn1 := Nat.pos_of_ne_zero hn
  have hbig : 2^48 ≤ 2^240 / n := by
    rw [Nat.le_div_iff_mul_le hn1]
    calc 2^48 * n ≤ 2^48 * 2^25 := Nat.mul_le_mul_left _ hlt.le
      _ ≤ 2^240 := by norm_num
  have hsmall : 2^240 / n < 2^256 := (Nat.div_le_self _ _).trans_lt (by norm_num)
  obtain ⟨h1, h2⟩ := isqrt_spec hsmall
  have hq := le_isqrt hsmall hbig
  generalize isqrt (2^240 / n) = r at *
  refine ⟨r, rfl, ?_⟩
  have hn' : (0 : ℝ) < n := by exact_mod_cast hn1
  have hroot := Real.sqrt_pos.2 hn'
  have hSS : 2^120 / Real.sqrt n * (2^120 / Real.sqrt n) = (2 : ℝ)^240 / n := by
    rw [div_mul_div_comm, Real.mul_self_sqrt hn'.le, ← pow_add]
  have hlo : (r : ℝ) * r ≤ 2^240 / n := by
    rw [le_div_iff₀ hn']
    have : r * r * n ≤ 2^240 := (Nat.mul_le_mul_right n h1).trans (Nat.div_mul_le_self _ _)
    exact_mod_cast this
  have hhi : (2 : ℝ)^240 / n < ((r : ℝ) + 1) * (r + 1) := by
    rw [div_lt_iff₀ hn']
    have : 2^240 < (r + 1) * (r + 1) * n := by
      rw [← Nat.div_lt_iff_lt_mul hn1]
      exact h2
    exact_mod_cast this
  obtain ⟨b1, b2, b3⟩ := between_of_sq (r := r) (S := 2^120 / Real.sqrt n) (div_nonneg (by positivity) hroot.le) (by rw [hSS]; exact hlo) (by rw [hSS]; exact hhi) j
  refine ⟨b1, b2, ?_, hq⟩
  rw [b3, hSS, decide_eq_true_eq, ne_eq, ne_eq, not_iff_not, eq_div_iff hn'.ne']
  constructor <;> intro h <;> exact_mod_cast h

theorem fRsq_of_pos {a : Nat} {m : Nat} {e : Int} (hx : val fmtF32 a = .fin false m e) (hm : m ≠ 0) : fRsq a =
    let (n, h) : Nat × Int := if e % 2 = 0 then (m, e / 2) else (2 * m, (e - 1) / 2)
    let r := isqrt (2^240 / n)
    ((roundFit fmtF32 .rn false false false r (-h - 120) (decide (r * r * n ≠ 2^240))).1, 0) := by
  unfold fRsq
  rw [hx]
  exact (if_neg hm).trans (if_neg Bool.false_ne_true)

/-- R216: FRSQ of a positive number is the reciprocal of its root, rounded to nearest even, without a flag. -/
theorem fRsq_delivers {a : Nat} {m : Nat} {e : Int} (hx : val fmtF32 a = .fin false m e) (hm : m ≠ 0) :
    (fRsq a).2 = 0 ∧ ∃ fl, Delivers fmtF32 .rn false false false (1 / Real.sqrt (m * 2^e)) ((fRsq a).1, fl) := by
  obtain ⟨hlt, -⟩ := fmtF32_bounds hx
  obtain ⟨n, h, hpair, hn, hnlt, hvalue⟩ : ∃ (n : Nat) (h : Int), (if e % 2 = 0 then (m, e / 2) else (2 * m, (e - 1) / 2)) = (n, h) ∧ n ≠ 0 ∧
      n < 2^25 ∧ (m : ℝ) * 2^e = n * 2^(2 * h) := by
    by_cases he : e % 2 = 0
    · exact ⟨m, e / 2, if_pos he, hm, by omega, by rw [show 2 * (e / 2) = e by omega]⟩
    · refine ⟨2 * m, (e - 1) / 2, if_neg he, by omega, by omega, ?_⟩
      rw [show 2 * ((e - 1) / 2) = e - 1 by omega, zpow_sub_one₀ two_ne_zero]
      push_cast
      ring
  obtain ⟨r, hr, hlo, hhi, hst, hq⟩ := isqrt_div_between hn hnlt (-h - 120)
  have hroot : 1 / Real.sqrt (m * 2^e) = 2^120 / Real.sqrt n * 2^(-h - 120) := by
    have hs : Real.sqrt n ≠ 0 := (Real.sqrt_pos.2 (by exact_mod_cast Nat.pos_of_ne_zero hn)).ne'
    have hk := (scale_pos h).ne'
    rw [hvalue, sqrt_scale, zpow_sub₀ two_ne_zero, zpow_neg]
    field_simp
  rw [hroot]
  refine delivers_of_eq ?_ (roundFit_delivers fmtF32_sound (by omega) hlo hhi hst (fun _ => hq) (fun _ _ => RMode.noConfusion))
  rw [fRsq_of_pos hx hm, hpair, ← hr]

end Sys2Proof.Machine
end

section
/-! SUPPORT. FEXP2 and FLOG2 at exact inputs, and the special functions at NaN, infinities and zeros (R216). -/

namespace Sys2Proof.Machine

/-! ## Exact results in FP32 -/

theorem fmtF32_maxMag : fmtF32.maxMag = ((2^24 - 1 : ℕ) : ℝ) * 2^(104 : Int) := by
  have h : fracField fmtF32 fmtF32.maxPat + 2^(fmtF32.p - 1) = 2^24 - 1 ∧ (expField fmtF32 fmtF32.maxPat : Int) - fmtF32.bias - fmtF32.p + 1 = 104 := by
    decide
  rw [Fmt.maxMag, h.1, h.2]

/-- A number of at most `p` bits, 24 or fewer, with its exponent in range is delivered in FP32 as it is. -/
theorem roundFit_f32_exact {mode : RMode} {sat neg : Bool} {c p : Nat} {e : Int} (hc : c ≠ 0) (hp : p ≤ 24) (hlt : c < 2^p) (h1 : -149 ≤ e)
    (h2 : e + p ≤ 128) : (val fmtF32 (roundFit fmtF32 mode sat false neg c e false).1).Mag neg (c * 2^e) := by
  have hpow : 2^p * 2^(24 - p) = 2^24 := by rw [← Nat.pow_add]; congr 1; omega
  have hc24 : c < 2^24 := hlt.trans_le (Nat.pow_le_pow_right two_pos hp)
  refine (roundFit_delivers_exact fmtF32_sound hc).mag_of_exact fmtF32_sound hc24 h1 ?_
  have hsig : c * 2^(24 - p) ≤ 2^24 - 1 :=
    Nat.le_sub_one_of_lt (hpow ▸ Nat.mul_lt_mul_of_pos_right hlt (Nat.two_pow_pos _))
  calc (c : ℝ) * 2^e ≤ c * 2^(104 + (24 - p : ℕ) : Int) :=
        mul_le_mul_of_nonneg_left (zpow_le_zpow_right₀ one_le_two (by omega)) (Nat.cast_nonneg c)
    _ = ((c * 2^(24 - p) : ℕ) : ℝ) * 2^(104 : Int) := by rw [scale_add]; push_cast; ring
    _ ≤ fmtF32.maxMag := by
      rw [fmtF32_maxMag]
      exact mul_le_mul_of_nonneg_right (by exact_mod_cast hsig) (scale_pos _).le

/-- A power of two that FP32 holds is delivered as it is. -/
theorem roundFit_f32_pow {n : Int} (h1 : -149 ≤ n) (h2 : n < 128) :
    (val fmtF32 (roundFit fmtF32 .rn false false false 1 n false).1).Mag false (2^n) := by
  simpa using roundFit_f32_exact (mode := .rn) (sat := false) (neg := false) one_ne_zero (p := 1) (by omega) (by omega) h1 (by omega)

/-! ## FEXP2 -/

/-- The argument of FEXP2 in fixed point. -/
def exp2Arg (s : Bool) (m : Nat) (e : Int) : Int :=
  let x : Int := if 0 ≤ e then (m * 2^(min e.toNat 40) * 2^sfuBits : Nat) else (m * 2^(e + sfuBits).toNat : Nat)
  if s then -x else x

theorem fExp2_of_fin {a : Nat} {s : Bool} {m : Nat} {e : Int} (hx : val fmtF32 a = .fin s m e) : fExp2 a =
    if 128 ≤ exp2Arg s m e / (2^sfuBits : Nat) then (infPat fmtF32 false, flOF ||| flNX)
    else if exp2Arg s m e / (2^sfuBits : Nat) < -150 ||
      (exp2Arg s m e / (2^sfuBits : Nat) = -150 && (exp2Arg s m e % (2^sfuBits : Nat)).toNat = 0) then (0, flUF ||| flNX)
    else if (exp2Arg s m e % (2^sfuBits : Nat)).toNat = 0 then
      ((roundFit fmtF32 .rn false false false 1 (exp2Arg s m e / (2^sfuBits : Nat)) false).1, 0)
    else (sfuRound false (expFix ((exp2Arg s m e % (2^sfuBits : Nat)).toNat * ln2Fix / 2^sfuBits))
      (exp2Arg s m e / (2^sfuBits : Nat) - sfuBits), 0) := by
  unfold fExp2
  rw [hx]
  rfl

/-- Below 2^23 the fixed-point argument is the number itself; from there on both lie beyond every limit. -/
theorem exp2Arg_value {a : Nat} {s : Bool} {m : Nat} {e : Int} {v : ℝ} (hx : val fmtF32 a = .fin s m e) (hv : (FVal.fin s m e).Is v) :
    ((exp2Arg s m e : ℤ) : ℝ) = v * ((2^sfuBits : ℕ) : ℝ) ∨
      (128 * ((2^sfuBits : ℕ) : ℤ) ≤ exp2Arg s m e ∧ 128 ≤ v) ∨ (exp2Arg s m e < -150 * ((2^sfuBits : ℕ) : ℤ) ∧ v < -150) := by
  obtain ⟨-, he⟩ := fmtF32_bounds hx
  rw [FVal.is_fin] at hv
  unfold exp2Arg
  by_cases h0 : 0 ≤ e
  · right
    have hm : 2^23 ≤ m := by
      obtain ⟨-, -, ⟨-, -, h⟩ | ⟨-, rfl, -⟩⟩ := val_fin_fields hx
      · rw [show fmtF32.emin - (fmtF32.p : Int) + 1 = -149 by decide] at h
        omega
      · exact Nat.le_add_left _ _
    have hM : 151 ≤ m * 2^(min e.toNat 40) := le_trans (by omega) (Nat.le_mul_of_pos_right m (Nat.two_pow_pos _))
    have hbig : (151 : ℝ) ≤ m * 2^e := by
      have h1 : (1 : ℝ) ≤ 2^e := one_le_zpow₀ one_le_two h0
      have h2 : (151 : ℝ) ≤ m := by exact_mod_cast (show 151 ≤ m by omega)
      nlinarith
    have hQ : 0 < 2^sfuBits := Nat.two_pow_pos _
    rw [if_pos h0]
    generalize m * 2^(min e.toNat 40) = M at *
    generalize 2^sfuBits = Q at *
    have hMQ : (151 : ℤ) * (Q : ℤ) ≤ ((M * Q : ℕ) : ℤ) := by exact_mod_cast Nat.mul_le_mul_right Q hM
    have hQ' : (0 : ℤ) < (Q : ℤ) := by exact_mod_cast hQ
    cases s
    · rw [if_neg Bool.false_ne_true, one_mul] at hv
      left
      dsimp only
      rw [if_neg Bool.false_ne_true]
      exact ⟨by omega, by linarith⟩
    · rw [if_pos rfl, mul_assoc] at hv
      right
      dsimp only
      rw [if_pos rfl]
      exact ⟨by omega, by linarith⟩
  · left
    have hscale : (2 : ℝ)^e * ((2^sfuBits : ℕ) : ℝ) = 2^(e + sfuBits).toNat := by
      rw [Nat.cast_pow, Nat.cast_two, ← scale_add, ← zpow_natCast]
      congr 1
      have : (sfuBits : Int) = 320 := rfl
      omega
    rw [if_neg h0, hv, mul_assoc, hscale]
    cases s
    · simp
    · simp

/-- The integer part of the fixed-point argument meets the limits where the number does; a number that is an integer has no fraction. -/
theorem exp2Arg_spec {a : Nat} {s : Bool} {m : Nat} {e : Int} {v : ℝ} (hx : val fmtF32 a = .fin s m e) (hv : (FVal.fin s m e).Is v) :
    (128 ≤ exp2Arg s m e / (2^sfuBits : Nat) ↔ 128 ≤ v) ∧
    ((exp2Arg s m e / (2^sfuBits : Nat) < -150 ||
      (exp2Arg s m e / (2^sfuBits : Nat) = -150 && (exp2Arg s m e % (2^sfuBits : Nat)).toNat = 0)) = true ↔ v ≤ -150) ∧
    ∀ n : ℤ, v = n → -150 < n → n < 128 → exp2Arg s m e / (2^sfuBits : Nat) = n ∧ (exp2Arg s m e % (2^sfuBits : Nat)).toNat = 0 := by
  have hvalue := exp2Arg_value hx hv
  have hQ : 0 < 2^sfuBits := Nat.two_pow_pos _
  generalize exp2Arg s m e = X at *
  generalize 2^sfuBits = Q at *
  have hQ' : (0 : ℤ) < (Q : ℤ) := by exact_mod_cast hQ
  have hQr : (0 : ℝ) < (Q : ℝ) := by exact_mod_cast hQ
  have hrem := Int.emod_nonneg X hQ'.ne'
  have hdiv := Int.mul_ediv_add_emod X Q
  have hle : 128 ≤ X / (Q : ℤ) ↔ 128 * (Q : ℤ) ≤ X := Int.le_ediv_iff_mul_le hQ'
  have hlow : (X / (Q : ℤ) < -150 || (X / (Q : ℤ) = -150 && (X % (Q : ℤ)).toNat = 0)) = true ↔ X ≤ -150 * (Q : ℤ) := by
    simp only [Bool.or_eq_true, Bool.and_eq_true, decide_eq_true_eq, Int.toNat_eq_zero]
    rw [Int.ediv_lt_iff_lt_mul hQ']
    constructor
    · rintro (h | ⟨h, h'⟩)
      · exact h.le
      · rw [h] at hdiv; linarith
    · intro h
      rcases h.lt_or_eq with h | rfl
      · exact .inl h
      · exact .inr ⟨Int.mul_ediv_cancel _ hQ'.ne', by rw [Int.mul_emod_left]⟩
  rw [hle, hlow]
  rcases hvalue with h | ⟨h1, h2⟩ | ⟨h1, h2⟩
  · refine ⟨?_, ?_, ?_⟩
    · rw [← mul_le_mul_iff_left₀ hQr, ← h]; exact_mod_cast Iff.rfl
    · rw [← mul_le_mul_iff_left₀ hQr, ← h]; exact_mod_cast Iff.rfl
    · rintro n rfl - -
      obtain rfl : X = n * (Q : ℤ) := by exact_mod_cast h
      exact ⟨Int.mul_ediv_cancel _ hQ'.ne', by rw [Int.mul_emod_left]; rfl⟩
  · refine ⟨iff_of_true h1 h2, iff_of_false (by omega) (by linarith), ?_⟩
    rintro n rfl - hn
    exact absurd hn (not_lt.2 (by exact_mod_cast h2))
  · refine ⟨iff_of_false (by omega) (by linarith), iff_of_true h1.le h2.le, ?_⟩
    rintro n rfl hn -
    exact absurd h2 (not_lt.2 (by exact_mod_cast hn.le))

/-- R216: FEXP2 at a number. -/
theorem fExp2_spec {a : Nat} {v : ℝ} (hv : (val fmtF32 a).Is v) :
    (128 ≤ v → val fmtF32 (fExp2 a).1 = .inf false ∧ (fExp2 a).2 = flOF ||| flNX) ∧
    (v ≤ -150 → (val fmtF32 (fExp2 a).1).Mag false 0 ∧ (fExp2 a).2 = flUF ||| flNX) ∧
    (-150 < v → v < 128 → (fExp2 a).2 = 0) ∧
    (∀ n : ℤ, v = n → -149 ≤ n → n < 128 → (val fmtF32 (fExp2 a).1).Mag false ((2 : ℝ)^n)) := by
  obtain ⟨s, m, e, hx⟩ := hv.fin
  obtain ⟨hhigh, hlow, hint⟩ := exp2Arg_spec hx (hx ▸ hv)
  rw [fExp2_of_fin hx]
  refine ⟨fun h => ?_, fun h => ?_, fun h1 h2 => ?_, fun n hn h1 h2 => ?_⟩
  · rw [if_pos (hhigh.2 h)]
    exact ⟨(fmtF32_sound.inf_val rfl false).1, rfl⟩
  · rw [if_neg (fun h' => by linarith [hhigh.1 h']), if_pos (hlow.2 h)]
    exact ⟨(encFin_zero fmtF32_sound false 0).1, rfl⟩
  · rw [if_neg (fun h' => by linarith [hhigh.1 h']), if_neg (fun h' => by linarith [hlow.1 h'])]
    split <;> rfl
  · have h1' : (-149 : ℝ) ≤ v := by rw [hn]; exact_mod_cast h1
    have h2' : v < 128 := by rw [hn]; exact_mod_cast h2
    obtain ⟨hdiv, hmod⟩ := hint n hn (by omega) h2
    rw [if_neg (fun h' => by linarith [hhigh.1 h']), if_neg (fun h' => by linarith [hlow.1 h']), if_pos hmod, hdiv]
    exact roundFit_f32_pow h1 h2

/-! ## FLOG2 -/

theorem fLog2_of_pos {a : Nat} {m : Nat} {e : Int} (hx : val fmtF32 a = .fin false m e) (hm : m ≠ 0) : fLog2 a =
    if m * 2^(sfuBits - Nat.log2 m) = 2^sfuBits then
      (if expo m e = 0 then (0, 0) else ((roundFit fmtF32 .rn false false (decide (expo m e < 0)) (expo m e).natAbs 0 false).1, 0))
    else
      let v : Int := expo m e * (2^sfuBits : Nat) + (lnFix (m * 2^(sfuBits - Nat.log2 m)) * 2^sfuBits / ln2Fix : Nat)
      (sfuRound (decide (v < 0)) v.natAbs (-(sfuBits : Int)), 0) := by
  unfold fLog2
  rw [hx]
  exact (if_neg hm).trans (if_neg Bool.false_ne_true)

/-- A power of two has one bit, and its exponent is where that bit is. -/
theorem log2_of_pow {m : Nat} {e n : Int} (hm : m ≠ 0) (hlt : m < 2^24) (h : (m : ℝ) * 2^e = 2^n) :
    m * 2^(sfuBits - Nat.log2 m) = 2^sfuBits ∧ expo m e = n := by
  have hexpo : expo m e = n := by
    have h1 : expo m e < n + 1 := by rw [expo_lt_iff hm, h]; exact zpow_lt_zpow_right₀ one_lt_two (by omega)
    have h2 : ¬ expo m e < n := by rw [expo_lt_iff hm, h]; exact lt_irrefl _
    omega
  have hpow : m = 2^Nat.log2 m := by
    rw [← hexpo, expo, add_comm, scale_add, mul_comm] at h
    have := mul_left_cancel₀ (scale_pos e).ne' h
    exact_mod_cast this
  have hlog : Nat.log2 m < 24 := (Nat.log2_lt hm).2 hlt
  refine ⟨?_, hexpo⟩
  have hbits : Nat.log2 m + (sfuBits - Nat.log2 m) = sfuBits := by
    have : sfuBits = 320 := rfl
    omega
  calc m * 2^(sfuBits - Nat.log2 m) = 2^Nat.log2 m * 2^(sfuBits - Nat.log2 m) := by rw [← hpow]
    _ = 2^sfuBits := by rw [← Nat.pow_add, hbits]

/-- A signed magnitude is a number. -/
theorem FVal.Mag.is {v : FVal} {neg : Bool} {x : ℝ} (h : v.Mag neg x) : v.Is (if neg then -x else x) := by
  obtain ⟨m, e, rfl, rfl⟩ := h
  rw [FVal.is_fin]
  cases neg <;> simp

theorem val_f32_zero : (val fmtF32 0).Mag false 0 := (encFin_zero fmtF32_sound false 0).1

/-- R216: FLOG2 of a positive number raises nothing, and a power of two gives its exponent. -/
theorem fLog2_spec {a : Nat} {v : ℝ} (hpos : 0 < v) (hv : (val fmtF32 a).Is v) :
    (fLog2 a).2 = 0 ∧ ∀ n : ℤ, v = (2 : ℝ)^n → (val fmtF32 (fLog2 a).1).Is n := by
  obtain ⟨s, m, e, hx⟩ := hv.fin
  rw [hx] at hv
  obtain ⟨rfl, hm, rfl⟩ := hv.of_pos hpos
  obtain ⟨hlt, hlow⟩ := fmtF32_bounds hx
  rw [fLog2_of_pos hx hm]
  refine ⟨by split <;> [split <;> rfl; rfl], fun n hn => ?_⟩
  obtain ⟨h1, h2⟩ := log2_of_pow hm hlt hn
  rw [if_pos h1]
  by_cases h0 : n = 0
  · rw [if_pos (h2.trans h0), h0, Int.cast_zero]
    simpa using val_f32_zero.is
  · have hn24 : n.natAbs < 2^24 := by
      have hlog : Nat.log2 m < 24 := (Nat.log2_lt hm).2 hlt
      have hE : expField fmtF32 a < 2^8 := Nat.mod_lt _ (Nat.two_pow_pos _)
      have he : e ≤ 105 := by
        obtain ⟨-, -, ⟨-, -, h⟩ | ⟨-, -, h⟩⟩ := val_fin_fields hx
        · rw [show fmtF32.emin - (fmtF32.p : Int) + 1 = -149 by decide] at h
          omega
        · rw [show (fmtF32.bias : Int) = 127 from rfl, show (fmtF32.p : Int) = 24 from rfl] at h
          omega
      rw [← h2, expo]
      omega
    rw [if_neg (fun h => h0 (h2.symm.trans h)), h2]
    have h := (roundFit_f32_exact (mode := .rn) (sat := false) (neg := decide (n < 0)) (Int.natAbs_ne_zero.2 h0) (p := 24)
      (le_refl _) hn24 (e := 0) (by omega) (by omega)).is
    convert h using 1
    rw [zpow_zero, mul_one, Nat.cast_natAbs, Int.cast_abs]
    by_cases hneg : n < 0
    · rw [if_pos (by simpa using hneg), abs_of_neg (by exact_mod_cast hneg), neg_neg]
    · rw [if_neg (by simpa using hneg), abs_of_nonneg (by exact_mod_cast not_lt.1 hneg)]

/-! ## Special inputs -/

theorem special_nan {a : Nat} (hx : val fmtF32 a = .nan) (fn : Nat → Nat × FlagSet)
    (h : fn = fRcp ∨ fn = fRsq ∨ fn = fSin ∨ fn = fCos ∨ fn = fExp2 ∨ fn = fLog2 ∨ fn = fTanh) : fn a = (fmtF32.nan, 0) := by
  rcases h with rfl | rfl | rfl | rfl | rfl | rfl | rfl
  · unfold fRcp; rw [hx]
  · unfold fRsq; rw [hx]
  · unfold fSin; rw [hx]
  · unfold fCos; rw [hx]
  · unfold fExp2; rw [hx]
  · unfold fLog2; rw [hx]
  · unfold fTanh; rw [hx]

section
variable {a : Nat} {s : Bool} {m : Nat} {e : Int}

theorem fRcp_inf (hx : val fmtF32 a = .inf s) : fRcp a = (encFin fmtF32 s 0 0, 0) := by unfold fRcp; rw [hx]
theorem fRcp_zero (hx : val fmtF32 a = .fin s 0 e) : fRcp a = (infPat fmtF32 s, flDZ) := by unfold fRcp; rw [hx]; rfl
theorem fRsq_inf (hx : val fmtF32 a = .inf false) : fRsq a = (0, 0) := by unfold fRsq; rw [hx]; rfl
theorem fRsq_negInf (hx : val fmtF32 a = .inf true) : fRsq a = (fmtF32.nan, flNV) := by unfold fRsq; rw [hx]; rfl
theorem fRsq_zero (hx : val fmtF32 a = .fin s 0 e) : fRsq a = (infPat fmtF32 s, flDZ) := by unfold fRsq; rw [hx]; rfl
theorem fRsq_neg (hx : val fmtF32 a = .fin true m e) (hm : m ≠ 0) : fRsq a = (fmtF32.nan, flNV) := by
  unfold fRsq; rw [hx]; exact (if_neg hm).trans (if_pos rfl)
theorem fLog2_inf (hx : val fmtF32 a = .inf false) : fLog2 a = (infPat fmtF32 false, 0) := by unfold fLog2; rw [hx]; rfl
theorem fLog2_negInf (hx : val fmtF32 a = .inf true) : fLog2 a = (fmtF32.nan, flNV) := by unfold fLog2; rw [hx]; rfl
theorem fLog2_zero (hx : val fmtF32 a = .fin s 0 e) : fLog2 a = (infPat fmtF32 true, flDZ) := by unfold fLog2; rw [hx]; rfl
theorem fLog2_neg (hx : val fmtF32 a = .fin true m e) (hm : m ≠ 0) : fLog2 a = (fmtF32.nan, flNV) := by
  unfold fLog2; rw [hx]; exact (if_neg hm).trans (if_pos rfl)
theorem fExp2_inf (hx : val fmtF32 a = .inf false) : fExp2 a = (infPat fmtF32 false, 0) := by unfold fExp2; rw [hx]; rfl
theorem fExp2_negInf (hx : val fmtF32 a = .inf true) : fExp2 a = (0, 0) := by unfold fExp2; rw [hx]; rfl
theorem fSin_inf (hx : val fmtF32 a = .inf s) : fSin a = (fmtF32.nan, flNV) := by unfold fSin; rw [hx]
theorem fCos_inf (hx : val fmtF32 a = .inf s) : fCos a = (fmtF32.nan, flNV) := by unfold fCos; rw [hx]
theorem fTanh_inf (hx : val fmtF32 a = .inf s) : fTanh a = ((if s then 0x80000000 else 0) + 0x3F800000, 0) := by unfold fTanh; rw [hx]
theorem fSin_zero (hx : val fmtF32 a = .fin s 0 e) : fSin a = (encFin fmtF32 s 0 0, 0) := by unfold fSin; rw [hx]; exact if_pos rfl
theorem fCos_zero (hx : val fmtF32 a = .fin s 0 e) : fCos a = (0x3F800000, 0) := by unfold fCos; rw [hx]; exact if_pos rfl
theorem fTanh_zero (hx : val fmtF32 a = .fin s 0 e) : fTanh a = (encFin fmtF32 s 0 0, 0) := by unfold fTanh; rw [hx]; exact if_pos rfl

/-- FSIN, FCOS and FTANH raise nothing at a number. -/
theorem fSin_flags (hx : val fmtF32 a = .fin s m e) : (fSin a).2 = 0 := by
  unfold fSin
  rw [hx]
  dsimp only
  split <;> [rfl; split <;> rfl]

theorem fCos_flags (hx : val fmtF32 a = .fin s m e) : (fCos a).2 = 0 := by
  unfold fCos
  rw [hx]
  dsimp only
  split <;> [rfl; split <;> rfl]

theorem fTanh_flags (hx : val fmtF32 a = .fin s m e) : (fTanh a).2 = 0 := by
  unfold fTanh
  rw [hx]
  dsimp only
  split <;> [rfl; (split <;> [rfl; split <;> rfl])]

/-- ±1 in FP32. -/
theorem val_f32_one (s : Bool) : (val fmtF32 ((if s then 0x80000000 else 0) + 0x3F800000)).Mag s 1 := by
  have h : val fmtF32 ((if s then 0x80000000 else 0) + 0x3F800000) = .fin s (2^23) (-23) := by cases s <;> decide
  rw [h, FVal.mag_fin]
  exact ⟨rfl, by norm_num⟩

end

end Sys2Proof.Machine
end

section
/-! SUPPORT. What FADD to FRND, FDIV, FSQRT and the special functions compute, operation by operation, with the proof of O10. -/

namespace Sys2Proof.Machine

/-! ## The formats of the arithmetic -/

/-- What the arithmetic needs of FP32, FP16 and BF16. -/
structure Fmt.Arith (f : Fmt) : Prop where
  sound : f.Sound
  ieee : f.ieee = true
  nan_lt : f.nan < 2^f.bits
  small : f.emin - f.p + 1 ≤ 0
  large : ((2^(f.p - 1) : ℕ) : ℝ) ≤ f.maxMag

theorem arith_of_mem {f : Fmt} (h : f = fmtF32 ∨ f = fmtF16 ∨ f = fmtBF16) : f.Arith := by
  have hlarge (hexp : (0 : Int) ≤ (expField f f.maxPat : Int) - f.bias - f.p + 1) : ((2^(f.p - 1) : ℕ) : ℝ) ≤ f.maxMag := by
    unfold Fmt.maxMag
    refine (mul_one _).symm.trans_le (mul_le_mul ?_ (one_le_zpow₀ one_le_two hexp) zero_le_one (Nat.cast_nonneg _))
    exact_mod_cast Nat.le_add_left _ _
  rcases h with rfl | rfl | rfl
  · exact ⟨fmtF32_sound, rfl, by decide, by decide, hlarge (by decide)⟩
  · exact ⟨fmtF16_sound, rfl, by decide, by decide, hlarge (by decide)⟩
  · exact ⟨fmtBF16_sound, rfl, by decide, by decide, hlarge (by decide)⟩

theorem fSub_eq {f : Fmt} (hf : f.Sound) (mode : RMode) (ftz : Bool) (a : Nat) {b : Nat} (hb : b < 2^f.bits) :
    fSub f mode ftz a b = fAdd f mode ftz a (b ^^^ 2^(f.bits - 1)) := by
  rw [fSub, negPat_eq_xor (by have := hf.p_lt; omega) hb]

/-- R210: FFMA rounds the exact sum of the exact product once. -/
theorem fFma_rounded {f : Fmt} (hf : f.Arith) {mode : RMode} {ftz : Bool} {a b c : Nat} {r : FVal}
    (h : ProductIs (val f (ftzIn f ftz a)) (val f (ftzIn f ftz b)) r) :
    (ClashAdd r (val f (ftzIn f ftz c)) → fFma f mode ftz a b c = (f.nan, flNV)) ∧
      ∀ t, SumIs mode r (val f (ftzIn f ftz c)) t → Rounded f mode ftz t (fFma f mode ftz a b c) := by
  obtain ⟨v, hv, halike⟩ := prodVal_alike h
  rw [fFma_eq, hv]
  exact ⟨fun hc => sumOf_clash (halike.clashAdd hc), fun t ht => sumOf_rounded hf.sound hf.ieee hf.nan_lt (halike.sumIs ht)⟩

/-! ## FDIV and FSQRT at special operands (R111, R215) -/

/-- The quotient that FDIV forms of two values. -/
def quotOf (mode : RMode) (ftz : Bool) (x y : FVal) : Nat × FlagSet :=
  match x, y with
  | .nan, _ => (fmtF32.nan, 0)
  | _, .nan => (fmtF32.nan, 0)
  | .inf _, .inf _ => (fmtF32.nan, flNV)
  | .inf s, .fin t _ _ => (infPat fmtF32 (s != t), 0)
  | .fin s _ _, .inf t => (encFin fmtF32 (s != t) 0 0, 0)
  | .fin s m e, .fin t n k =>
    if n = 0 then (if m = 0 then (fmtF32.nan, flNV) else (infPat fmtF32 (s != t), flDZ))
    else if m = 0 then (encFin fmtF32 (s != t) 0 0, 0)
    else roundFit fmtF32 mode false ftz (s != t) (m * 2^96 / n) (e - k - 96) (decide (m * 2^96 % n ≠ 0))

theorem fDiv_eq (mode : RMode) (ftz : Bool) (a b : Nat) :
    fDiv mode ftz a b = quotOf mode ftz (val fmtF32 (ftzIn fmtF32 ftz a)) (val fmtF32 (ftzIn fmtF32 ftz b)) := rfl

section
variable {mode : RMode} {ftz : Bool} {x y : FVal}

theorem quotOf_nan (h : x = .nan ∨ y = .nan) : quotOf mode ftz x y = (fmtF32.nan, 0) := by
  rcases h with rfl | rfl
  · rfl
  · cases x <;> rfl

theorem quotOf_invalid (h : ((∃ s, x = .inf s) ∧ (∃ s, y = .inf s)) ∨ x.Is 0 ∧ y.Is 0) : quotOf mode ftz x y = (fmtF32.nan, flNV) := by
  rcases h with ⟨⟨s, rfl⟩, ⟨t, rfl⟩⟩ | ⟨hx, hy⟩
  · rfl
  · obtain ⟨s, m, e, rfl⟩ := hx.fin
    obtain ⟨t, n, k, rfl⟩ := hy.fin
    exact (if_pos (FVal.is_zero_iff.1 hy)).trans (if_pos (FVal.is_zero_iff.1 hx))

theorem quotOf_inf {s : Bool} (hx : x = .inf s) {w : ℝ} (hy : y.Is w) : quotOf mode ftz x y = (infPat fmtF32 (s != y.sign), 0) := by
  obtain ⟨t, n, k, rfl⟩ := hy.fin
  rw [hx]
  rfl

theorem quotOf_by_inf {v : ℝ} (hx : x.Is v) {s : Bool} (hy : y = .inf s) : quotOf mode ftz x y = (encFin fmtF32 (x.sign != s) 0 0, 0) := by
  obtain ⟨t, m, e, rfl⟩ := hx.fin
  rw [hy]
  rfl

theorem quotOf_by_zero {v : ℝ} (hv : v ≠ 0) (hx : x.Is v) (hy : y.Is 0) :
    quotOf mode ftz x y = (infPat fmtF32 (x.sign != y.sign), flDZ) := by
  obtain ⟨s, m, e, rfl⟩ := hx.fin
  obtain ⟨t, n, k, rfl⟩ := hy.fin
  exact (if_pos (FVal.is_zero_iff.1 hy)).trans (if_neg (hx.ne_zero hv))

theorem quotOf_zero {w : ℝ} (hw : w ≠ 0) (hx : x.Is 0) (hy : y.Is w) : quotOf mode ftz x y = (encFin fmtF32 (x.sign != y.sign) 0 0, 0) := by
  obtain ⟨s, m, e, rfl⟩ := hx.fin
  obtain ⟨t, n, k, rfl⟩ := hy.fin
  exact (if_neg (hy.ne_zero hw)).trans (if_pos (FVal.is_zero_iff.1 hx))

end

/-- R215: the quotient of two nonzero numbers, by their values. -/
theorem fDiv_rounded {mode : RMode} {ftz : Bool} {a b : Nat} (hmode : ∀ u, mode ≠ .rs u) {v w : ℝ} (hv : v ≠ 0) (hw : w ≠ 0)
    (hx : (val fmtF32 (ftzIn fmtF32 ftz a)).Is v) (hy : (val fmtF32 (ftzIn fmtF32 ftz b)).Is w) :
    Delivers fmtF32 mode false ftz ((val fmtF32 (ftzIn fmtF32 ftz a)).sign != (val fmtF32 (ftzIn fmtF32 ftz b)).sign) |v / w| (fDiv mode ftz a b) := by
  obtain ⟨s, m, e, hvx⟩ := hx.fin
  obtain ⟨t, n, k, hvy⟩ := hy.fin
  rw [hvx] at hx ⊢
  rw [hvy] at hy ⊢
  rw [abs_div, hx.abs, hy.abs]
  exact fDiv_delivers hmode hvx hvy (hx.ne_zero hv) (hy.ne_zero hw)

section
variable {mode : RMode} {ftz : Bool} {a : Nat}

theorem fSqrt_nan (h : val fmtF32 (ftzIn fmtF32 ftz a) = .nan) : fSqrt mode ftz a = (fmtF32.nan, 0) := by
  unfold fSqrt; dsimp only; rw [h]

theorem fSqrt_inf (h : val fmtF32 (ftzIn fmtF32 ftz a) = .inf false) : fSqrt mode ftz a = (ftzIn fmtF32 ftz a, 0) := by
  unfold fSqrt; dsimp only; rw [h]; rfl

theorem fSqrt_negInf (h : val fmtF32 (ftzIn fmtF32 ftz a) = .inf true) : fSqrt mode ftz a = (fmtF32.nan, flNV) := by
  unfold fSqrt; dsimp only; rw [h]; rfl

theorem fSqrt_zero (h : (val fmtF32 (ftzIn fmtF32 ftz a)).Is 0) : fSqrt mode ftz a = (ftzIn fmtF32 ftz a, 0) := by
  obtain ⟨s, m, e, hx⟩ := h.fin
  rw [hx, FVal.is_zero_iff] at h
  unfold fSqrt; dsimp only; rw [hx]
  exact if_pos h

theorem fSqrt_neg {v : ℝ} (hv : v < 0) (h : (val fmtF32 (ftzIn fmtF32 ftz a)).Is v) : fSqrt mode ftz a = (fmtF32.nan, flNV) := by
  obtain ⟨s, m, e, hx⟩ := h.fin
  rw [hx] at h
  obtain ⟨rfl, hm⟩ := h.of_neg hv
  unfold fSqrt; dsimp only; rw [hx]
  exact (if_neg hm).trans (if_pos rfl)

theorem fSqrt_rounded (hmode : ∀ u, mode ≠ .rs u) {v : ℝ} (hv : 0 < v) (h : (val fmtF32 (ftzIn fmtF32 ftz a)).Is v) :
    Delivers fmtF32 mode false ftz false (Real.sqrt v) (fSqrt mode ftz a) := by
  obtain ⟨s, m, e, hx⟩ := h.fin
  rw [hx] at h
  obtain ⟨rfl, hm, rfl⟩ := h.of_pos hv
  exact fSqrt_delivers hmode hx hm

end

/-- A zero value is one with its own sign. -/
theorem FVal.Is.mag_sign {v : FVal} (h : v.Is 0) : v.Mag v.sign 0 := by
  obtain ⟨s, m, e, rfl⟩ := h.fin
  obtain rfl := FVal.is_zero_iff.1 h
  rw [FVal.mag_fin]
  exact ⟨rfl, by simp⟩

/-- A zero, written with no significand. -/
theorem FVal.Is.zero_fin {v : FVal} (h : v.Is 0) : ∃ e, v = .fin v.sign 0 e := by
  obtain ⟨s, m, e, rfl⟩ := h.fin
  obtain rfl := FVal.is_zero_iff.1 h
  exact ⟨e, rfl⟩

/-! ## The parts of O10 -/

/-- FADD to FFMA, FMIN, FMAX and FRND in the arithmetic's formats. -/
theorem arithmetic_rounds {f : Fmt} (hf : f.Arith) {mode : RMode} {ftz : Bool} {a b c : Nat} {x y z : FVal} (hb : b < 2^f.bits)
    (hx : x = val f (ftzIn f ftz a)) (hy : y = val f (ftzIn f ftz b)) (hz : z = val f (ftzIn f ftz c)) :
    (ftz = false → x = val f a) ∧
    (∀ neg v, (val f a).Mag neg v → if ftz = true ∧ v < (2 : ℝ)^f.emin then x.Mag neg 0 else x = val f a) ∧
    ((∀ neg v, ¬ (val f a).Mag neg v) → x = val f a) ∧
    (ClashAdd x y → fAdd f mode ftz a b = (f.nan, flNV)) ∧
    (∀ r, SumIs mode x y r → Rounded f mode ftz r (fAdd f mode ftz a b)) ∧
    fSub f mode ftz a b = fAdd f mode ftz a (b ^^^ 2^(f.bits - 1)) ∧
    (ClashMul x y → fMul f mode ftz a b = (f.nan, flNV) ∧ fFma f mode ftz a b c = (f.nan, flNV)) ∧
    (∀ r, ProductIs x y r → Rounded f mode ftz r (fMul f mode ftz a b) ∧
      (ClashAdd r z → fFma f mode ftz a b c = (f.nan, flNV)) ∧
      ∀ t, SumIs mode r z t → Rounded f mode ftz t (fFma f mode ftz a b c)) := by
  subst hx hy hz
  refine ⟨?_, ?_, ?_, ?_, ?_, fSub_eq hf.sound mode ftz a hb, ?_, ?_⟩
  · rintro rfl
    rw [ftzIn_false]
  · intro neg v h
    have := ftzIn_mag hf.sound ftz h
    split at this
    · rw [if_pos ‹_›]; exact this
    · rw [if_neg ‹_›, this]
  · exact fun h => congrArg (val f) (ftzIn_of_not_mag hf.sound ftz h)
  · rw [fAdd_eq]; exact sumOf_clash
  · rw [fAdd_eq]; exact fun r => sumOf_rounded hf.sound hf.ieee hf.nan_lt
  · exact fun h => ⟨fMul_clash h, fFma_clash h⟩
  · exact fun r h => ⟨fMul_rounded hf.sound hf.ieee hf.nan_lt h, fFma_rounded hf h⟩

/-- Settles O10: sums, products, quotients and roots come to `roundFit` with an integer just below the exact value, which delivers it
(`roundFit_delivers`); FMIN and FMAX order by `fKey`; the special and exact inputs are read off case by case. -/
theorem floatResultsRoundOnce : Obligations.FloatResultsRoundOnce := by
  unfold Obligations.FloatResultsRoundOnce
  refine ⟨?_, ?_, ?_⟩
  · intro f mode ftz a b c x y z hfmt _ _ hb _ hx hy hz
    have hf := arith_of_mem hfmt
    obtain ⟨h1, h2, h3, h4, h5, h6, h7, h8⟩ := arithmetic_rounds (mode := mode) hf hb hx hy hz
    refine ⟨h1, h2, h3, h4, h5, h6, h7, h8, ?_⟩
    subst hx hy
    refine ⟨?_, fRnd_nan, fRnd_of_inf_or_zero, fun neg v w hv hm hw => fRnd_mag hf.sound hf.small hf.large hv hm hw⟩
    rintro isMax m rfl
    obtain ⟨n1, n2, n3⟩ := fMinMax_nan (f := f) ftz isMax a b
    exact ⟨n1, n2, n3, fMinMax_numbers hf.sound hf.ieee isMax⟩
  · intro mode ftz a b x y q r hmode _ _ hx hy hq hr
    have hinf (s : Bool) := (fmtF32_sound.inf_val rfl s).1
    have hzero (s : Bool) := (encFin_zero fmtF32_sound s 0).1
    rw [fDiv_eq, ← hx, ← hy] at hq
    refine ⟨fun h => hq.trans (quotOf_nan h), fun h => hq.trans (quotOf_invalid h), fun s w h1 h2 => ?_, fun s v h1 h2 => ?_,
      fun v hv h1 h2 => ?_, fun w hw h1 h2 => ?_, fun v w hv hw h1 h2 => ?_, ?_, ?_, ?_, ?_, ?_, ?_⟩
    · rw [hq, quotOf_inf h1 h2]; exact ⟨hinf _, rfl⟩
    · rw [hq, quotOf_by_inf h1 h2]; exact ⟨hzero _, rfl⟩
    · rw [hq, quotOf_by_zero hv h1 h2]; exact ⟨hinf _, rfl⟩
    · rw [hq, quotOf_zero hw h1 h2]; exact ⟨hzero _, rfl⟩
    · rw [hx] at h1
      rw [hy] at h2
      rw [hq, hx, hy, ← fDiv_eq]
      exact fDiv_rounded hmode hv hw h1 h2
    all_goals subst hx hr
    · exact fSqrt_nan
    · exact fSqrt_negInf
    · exact fun h => by rw [fSqrt_inf h]; exact ⟨h, rfl⟩
    · exact fun h => by rw [fSqrt_zero h]; exact ⟨h.mag_sign, rfl⟩
    · exact fun v hv h => fSqrt_neg hv h
    · exact fun v hv h => fSqrt_rounded hmode hv h
  · intro a x _ hx
    subst hx
    have hinf (s : Bool) := (fmtF32_sound.inf_val rfl s).1
    have hzero (s : Bool) := (encFin_zero fmtF32_sound s 0).1
    refine ⟨fun fn hfn h => special_nan h fn hfn, fun s h => ?_, fun h => ?_, fun v hv h => ?_, fun h => ?_, fun h => ?_, fun h => ?_,
      fun v hv h => ?_, fun s h => ⟨fSin_inf h, fCos_inf h⟩, fun h => ?_, fun v h => ?_, fun s h => ?_, fun h => ?_, fun h => ?_,
      fun v h => fExp2_spec h, fun h => ?_, fun h => ?_, fun v hv h => fLog2_spec hv h⟩
    · rw [fRcp_inf h]; exact ⟨hzero s, rfl⟩
    · obtain ⟨e, he⟩ := h.zero_fin
      rw [fRcp_zero he]; exact ⟨hinf _, rfl⟩
    · obtain ⟨s, m, e, hx⟩ := h.fin
      rw [hx] at h ⊢
      rw [abs_div, abs_one, h.abs]
      exact fRcp_delivers hx (h.ne_zero hv)
    · rw [fRsq_inf h]; exact ⟨val_f32_zero, rfl⟩
    · obtain ⟨e, he⟩ := h.zero_fin
      rw [fRsq_zero he]; exact ⟨hinf _, rfl⟩
    · rcases h with h | ⟨v, hv, h⟩
      · exact ⟨fRsq_negInf h, fLog2_negInf h⟩
      · obtain ⟨s, m, e, hx⟩ := h.fin
        rw [hx] at h
        obtain ⟨rfl, hm⟩ := h.of_neg hv
        exact ⟨fRsq_neg hx hm, fLog2_neg hx hm⟩
    · obtain ⟨s, m, e, hx⟩ := h.fin
      rw [hx] at h
      obtain ⟨rfl, hm, rfl⟩ := h.of_pos hv
      exact fRsq_delivers hx hm
    · obtain ⟨e, he⟩ := h.zero_fin
      rw [fSin_zero he, fCos_zero he, fTanh_zero he]
      exact ⟨hzero _, val_f32_one false, hzero _⟩
    · obtain ⟨s, m, e, hx⟩ := h.fin
      exact ⟨fSin_flags hx, fCos_flags hx, fTanh_flags hx⟩
    · rw [fTanh_inf h]; exact ⟨val_f32_one s, rfl⟩
    · rw [fExp2_inf h]; exact ⟨hinf _, rfl⟩
    · rw [fExp2_negInf h]; exact ⟨val_f32_zero, rfl⟩
    · rw [fLog2_inf h]; exact ⟨hinf _, rfl⟩
    · obtain ⟨e, he⟩ := h.zero_fin
      rw [fLog2_zero he]; exact ⟨hinf _, rfl⟩

end Sys2Proof.Machine
end

section
/-! SUPPORT. Conversions (R125, R126, R219): the integers of a width, and what `convert` makes of a NaN, an infinity and a number. -/

namespace Sys2Proof.Machine

/-! ## Integers of a width (R114) -/

section
variable {w : Nat} (hw : 1 ≤ w) {sg : Bool}

theorem wrapTo_lt (w : Nat) (y : Int) : wrapTo w y < 2^w := by
  have hpos : (0 : Int) < 2^w := by positivity
  have h := Int.emod_lt_of_pos y hpos
  have h0 := Int.emod_nonneg y hpos.ne'
  unfold wrapTo
  zify
  rw [Int.toNat_of_nonneg h0]
  exact h

theorem wrapTo_cast (w : Nat) (y : Int) : ((wrapTo w y : ℕ) : Int) = y % 2^w :=
  Int.toNat_of_nonneg (Int.emod_nonneg y (by positivity))

include hw

theorem two_pow_half : (2 : Int)^w = 2 * 2^(w - 1) := by
  rw [← pow_succ']
  congr 1
  omega

theorem intMin_le_intMax : intMin w sg ≤ intMax w sg := by
  have hH : (0 : Int) < 2^(w - 1) := by positivity
  unfold intMin intMax
  rw [two_pow_half hw]
  cases sg <;> simp only [Bool.false_eq_true, if_false, if_true] <;> omega

/-- A value in range is what its bits encode. -/
theorem intOf_wrapTo {y : Int} (h1 : intMin w sg ≤ y) (h2 : y ≤ intMax w sg) : intOf w sg (wrapTo w y) = y := by
  have hH : (0 : Int) < 2^(w - 1) := by positivity
  have hle : 2^(w - 1) ≤ wrapTo w y ↔ (2 : Int)^(w - 1) ≤ y % 2^w := by
    rw [← wrapTo_cast]
    exact_mod_cast Iff.rfl
  unfold intOf
  unfold intMin at h1
  unfold intMax at h2
  simp only [Bool.and_eq_true, decide_eq_true_eq, hle, wrapTo_cast]
  rw [two_pow_half hw] at *
  generalize (2 : Int)^(w - 1) = H at *
  cases sg
  · simp only [Bool.false_eq_true, if_false, false_and] at *
    exact Int.emod_eq_of_lt h1 (by omega)
  · simp only [if_true, true_and] at *
    by_cases hy : 0 ≤ y
    · rw [Int.emod_eq_of_lt hy (by omega), if_neg (by omega)]
    · have hmod : y % (2 * H) = y + 2 * H := by rw [← Int.add_emod_right, Int.emod_eq_of_lt (by omega) (by omega)]
      rw [hmod, if_pos (by omega)]
      omega

theorem intOf_bounds {b : Nat} (hb : b < 2^w) : intMin w sg ≤ intOf w sg b ∧ intOf w sg b ≤ intMax w sg := by
  have hb' : (b : Int) < 2^w := by exact_mod_cast hb
  have hle : 2^(w - 1) ≤ b ↔ (2 : Int)^(w - 1) ≤ b := by exact_mod_cast Iff.rfl
  unfold intOf intMin intMax
  simp only [Bool.and_eq_true, decide_eq_true_eq, hle]
  rw [two_pow_half hw] at *
  generalize (2 : Int)^(w - 1) = H at *
  cases sg
  · simp only [Bool.false_eq_true, if_false, false_and]
    omega
  · simp only [if_true, true_and]
    split <;> omega

/-- An exact value clamped is what its bits encode. -/
theorem intOf_clamp (y : Int) :
    intOf w sg (wrapTo w (clampInt (intMin w sg) (intMax w sg) y)) = clampInt (intMin w sg) (intMax w sg) y := by
  have hle := intMin_le_intMax hw (sg := sg)
  unfold clampInt
  exact intOf_wrapTo hw (by omega) (by omega)

theorem clampInt_ne_iff (y : Int) : clampInt (intMin w sg) (intMax w sg) y ≠ y ↔ y < intMin w sg ∨ intMax w sg < y := by
  have hle := intMin_le_intMax hw (sg := sg)
  unfold clampInt
  omega

end

theorem ntyInt_pos (t : NTy) : 1 ≤ (ntyInt t).1 := by cases t <;> decide

/-! ## Floats to integers (R125) -/

section
variable {w : Nat} (hw : 1 ≤ w) {sg : Bool} {mode : RMode}

theorem floatToInt_lt (v : FVal) : (floatToInt w sg mode v).1 < 2^w := by
  cases v with
  | nan => exact Nat.two_pow_pos w
  | inf s => exact wrapTo_lt ..
  | fin s m e => exact wrapTo_lt ..

include hw

theorem floatToInt_inf (s : Bool) :
    intOf w sg (floatToInt w sg mode (.inf s)).1 = (if s then intMin w sg else intMax w sg) ∧ (floatToInt w sg mode (.inf s)).2 = flNV := by
  have hle := intMin_le_intMax hw (sg := sg)
  refine ⟨?_, rfl⟩
  unfold floatToInt
  dsimp only
  cases s
  · exact intOf_wrapTo hw hle (le_refl _)
  · exact intOf_wrapTo hw (le_refl _) hle

/-- A number is rounded to an integer once, and clamped. -/
theorem floatToInt_mag {x : FVal} {neg : Bool} {a r : ℝ} {y : Int} (hx : x.Mag neg a) (hr : RoundsOn mode neg 1 a r) (hy : (y : ℝ) = if neg then -r else r) :
    intOf w sg (floatToInt w sg mode x).1 = clampInt (intMin w sg) (intMax w sg) y ∧
      (floatToInt w sg mode x).2 = if y < intMin w sg ∨ intMax w sg < y then flNV else if r = a then 0 else flNX := by
  obtain ⟨m, e, rfl, rfl⟩ := hx
  obtain ⟨hon, hix⟩ := roundTo_spec (mode := mode) (neg := neg) (m := m) (e := e) (k := 0) (sticky := false) (le_refl _)
    (mul_lt_mul_of_pos_right (lt_add_one _) (scale_pos e)) (by simp) (by simp) (by simp)
  rw [zpow_zero, mul_one] at hon hix
  obtain rfl := hon.unique one_pos hr
  have hval : (if neg then -((roundTo mode neg m e false 0).1 : Int) else (roundTo mode neg m e false 0).1) = y := by
    cases neg
    · rw [if_neg Bool.false_ne_true] at hy ⊢; exact_mod_cast hy.symm
    · rw [if_pos rfl] at hy ⊢; exact_mod_cast hy.symm
  have hclamp := clampInt_ne_iff hw (sg := sg) y
  unfold floatToInt
  dsimp only
  rw [hval]
  refine ⟨intOf_clamp hw y, ?_⟩
  by_cases hc : y < intMin w sg ∨ intMax w sg < y
  · rw [if_pos (hclamp.2 hc), if_pos hc]
  · rw [if_neg (mt hclamp.1 hc), if_neg hc]
    by_cases h : ((roundTo mode neg m e false 0).1 : ℝ) = m * 2^e
    · rw [if_neg (fun h' => hix.1 h' h), if_pos h]
    · rw [if_pos (hix.2 h), if_neg h]

end

/-! ## The formats of the conversions -/

theorem ntyFmt_sound (t : NTy) : (ntyFmt t).Sound := by
  cases t with
  | f16 => exact fmtF16_sound
  | bf16 => exact fmtBF16_sound
  | e4m3 => exact fmtE4M3_sound
  | e5m2 => exact fmtE5M2_sound
  | e2m1 => exact fmtE2M1_sound
  | _ => exact fmtF32_sound

theorem ntyFmt_nan_lt (t : NTy) : (ntyFmt t).nan < 2^(ntyFmt t).bits := by cases t <;> decide

/-- The largest finite number is determined. -/
theorem Fmt.Sound.maxMag_eq {f : Fmt} (hf : f.Sound) {m : ℝ} (h : (val f f.maxPat).Mag false m) : m = f.maxMag := by
  have hval := hf.max_val false
  rw [show maxFin f false = f.maxPat by simp [maxFin]] at hval
  rw [hval, FVal.mag_fin] at h
  exact h.2

/-! ## Floats to floats (R126) -/

/-- What a conversion to a float makes of a value. -/
def toFloat (t : NTy) (mode : RMode) (sat ftz : Bool) : FVal → Nat × FlagSet
  | .nan => nanTo t
  | .inf s => infTo t sat s
  | .fin s m e => if m = 0 then (encFin (ntyFmt t) s 0 0, 0) else roundFit (ntyFmt t) mode sat ftz s m e false

section
variable {dst src : NTy} {mode : RMode} {sat ftz : Bool} {b : Nat}

theorem convert_float_float (hs : src.isFloat = true) (hd : dst.isFloat = true) :
    convert dst src mode sat ftz b = toFloat dst mode sat ftz (val (ntyFmt src) (ftzIn (ntyFmt src) ftz b)) := by
  unfold convert
  rw [if_pos hs]
  exact if_pos hd

theorem convert_float_int (hs : src.isFloat = true) (hd : dst.isFloat = false) :
    convert dst src mode sat ftz b = floatToInt (ntyInt dst).1 (ntyInt dst).2 mode (val (ntyFmt src) (ftzIn (ntyFmt src) ftz b)) := by
  unfold convert
  rw [if_pos hs]
  exact if_neg (by rw [hd]; exact Bool.false_ne_true)

theorem convert_int_float (hs : src.isFloat = false) (hd : dst.isFloat = true) :
    convert dst src mode sat ftz b = intToFloat dst mode sat (intOf (ntyInt src).1 (ntyInt src).2 b) := by
  unfold convert
  rw [if_neg (by rw [hs]; exact Bool.false_ne_true)]
  exact if_pos hd

theorem convert_int_int (hs : src.isFloat = false) (hd : dst.isFloat = false) :
    convert dst src mode sat ftz b = writeInt (ntyInt dst).1 (ntyInt dst).2 sat (intOf (ntyInt src).1 (ntyInt src).2 b) := by
  unfold convert
  rw [if_neg (by rw [hs]; exact Bool.false_ne_true)]
  exact if_neg (by rw [hd]; exact Bool.false_ne_true)

theorem nanTo_eq (t : NTy) : nanTo t = if t = .e2m1 then (0, flNV) else ((ntyFmt t).nan, 0) := by cases t <;> rfl

theorem infTo_f32 (s : Bool) : val fmtF32 (infTo .f32 sat s).1 = .inf s ∧ (infTo .f32 sat s).2 = 0 :=
  ⟨(fmtF32_sound.inf_val rfl s).1, rfl⟩

theorem infTo_sat (h : dst ≠ .f32) (s : Bool) : infTo dst true s = (maxFin (ntyFmt dst) s, flSAT) := by
  unfold infTo
  rw [if_neg h]
  rfl

/-- An infinity in a narrow target without .sat (R126). -/
theorem infTo_table (hd : dst.isFloat = true) (h : dst ≠ .f32) (s : Bool) :
    if dst = .e4m3 then infTo dst false s = (if s then 0xFF else 0x7F, flNV)
    else if dst = .e2m1 then (val fmtE2M1 (infTo dst false s).1).Mag s 6 ∧ (infTo dst false s).2 = flNV
    else val (ntyFmt dst) (infTo dst false s).1 = .inf s ∧ (infTo dst false s).2 = 0 := by
  cases dst with
  | e4m3 => rw [if_pos rfl]; cases s <;> rfl
  | e2m1 =>
    rw [if_neg (by decide), if_pos rfl]
    have hval : val fmtE2M1 (infTo .e2m1 false s).1 = .fin s 3 1 := by cases s <;> decide
    rw [hval, FVal.mag_fin]
    exact ⟨⟨rfl, by norm_num⟩, rfl⟩
  | f16 => rw [if_neg (by decide), if_neg (by decide)]; exact ⟨(fmtF16_sound.inf_val rfl s).1, rfl⟩
  | bf16 => rw [if_neg (by decide), if_neg (by decide)]; exact ⟨(fmtBF16_sound.inf_val rfl s).1, rfl⟩
  | e5m2 => rw [if_neg (by decide), if_neg (by decide)]; exact ⟨(fmtE5M2_sound.inf_val rfl s).1, rfl⟩
  | f32 => exact absurd rfl h
  | _ => exact Bool.noConfusion hd

theorem infTo_lt (s : Bool) : (infTo dst sat s).1 < 2^(ntyFmt dst).bits := by
  have hf := ntyFmt_sound dst
  unfold infTo
  dsimp only
  split
  case isTrue h => subst h; exact (fmtF32_sound.inf_val rfl s).2
  split
  · exact hf.max_lt s
  split
  case isTrue hi => exact (hf.inf_val hi s).2
  split
  case isTrue h => subst h; exact (fmtE4M3_sound.nan_val rfl rfl s).2.2
  exact hf.max_lt s

theorem toFloat_zero {x : FVal} (h : x.Is 0) : toFloat dst mode sat ftz x = (encFin (ntyFmt dst) x.sign 0 0, 0) := by
  obtain ⟨s, m, e, rfl⟩ := h.fin
  obtain rfl := FVal.is_zero_iff.1 h
  rw [toFloat, if_pos rfl]
  rfl

/-- Every nonzero number is rounded once. -/
theorem toFloat_delivers {x : FVal} {neg : Bool} {a : ℝ} (ha : 0 < a) (hx : x.Mag neg a) :
    Delivers (ntyFmt dst) mode sat ftz neg a (toFloat dst mode sat ftz x) := by
  obtain ⟨m, e, rfl, rfl⟩ := hx
  have hm : m ≠ 0 := by rintro rfl; simp at ha
  rw [toFloat, if_neg hm]
  exact roundFit_delivers_exact (ntyFmt_sound dst) hm

theorem intToFloat_delivers {y : Int} (hy : y ≠ 0) :
    Delivers (ntyFmt dst) mode sat false (decide (y < 0)) |(y : ℝ)| (intToFloat dst mode sat y) := by
  have habs : |(y : ℝ)| = (y.natAbs : ℝ) * 2^(0 : Int) := by rw [zpow_zero, mul_one, Nat.cast_natAbs, Int.cast_abs]
  rw [intToFloat, if_neg hy, habs]
  exact roundFit_delivers_exact (ntyFmt_sound dst) (Int.natAbs_ne_zero.2 hy)

/-- An integer in an integer (R125): clamped with SAT, or wrapped. -/
theorem writeInt_spec {w : Nat} (hw : 1 ≤ w) {sg : Bool} (y : Int) : (writeInt w sg sat y).1 < 2^w ∧
    (sat = true → intOf w sg (writeInt w sg sat y).1 = clampInt (intMin w sg) (intMax w sg) y ∧
      (writeInt w sg sat y).2 = if y < intMin w sg ∨ intMax w sg < y then flSAT else 0) ∧
    (sat = false → ((writeInt w sg sat y).1 : ℤ) % (2^w : ℤ) = y % (2^w : ℤ) ∧ (writeInt w sg sat y).2 = 0) := by
  have hclamp := clampInt_ne_iff hw (sg := sg) y
  cases sat
  · refine ⟨wrapTo_lt .., fun h => Bool.noConfusion h, fun _ => ⟨?_, rfl⟩⟩
    show ((wrapTo w y : ℕ) : ℤ) % 2^w = _
    rw [wrapTo_cast, Int.emod_emod_of_dvd _ (dvd_refl _)]
  · refine ⟨wrapTo_lt .., fun _ => ⟨intOf_clamp hw y, ?_⟩, fun h => Bool.noConfusion h⟩
    unfold writeInt
    rw [if_pos rfl]
    dsimp only
    by_cases hc : y < intMin w sg ∨ intMax w sg < y
    · rw [if_neg (hclamp.2 hc), if_pos hc]
    · rw [if_pos (not_not.1 (mt hclamp.1 hc)), if_neg hc]

theorem toFloat_lt (x : FVal) : (toFloat dst mode sat ftz x).1 < 2^(ntyFmt dst).bits := by
  have hf := ntyFmt_sound dst
  cases x with
  | nan => exact ntyFmt_nan_lt dst
  | inf s => exact infTo_lt s
  | fin s m e =>
    rw [toFloat]
    by_cases hm : m = 0
    · rw [if_pos hm]
      exact (encFin_zero hf s 0).2
    · rw [if_neg hm]
      obtain ⟨_, _, _, _, hlt, _⟩ := roundFit_delivers_exact (mode := mode) (sat := sat) (ftz := ftz) (neg := s) (e := e) hf hm
      exact hlt

/-- A conversion gives an element of its target. -/
theorem convert_lt : (convert dst src mode sat ftz b).1 < 2^(ntyBits dst) := by
  unfold ntyBits
  cases hd : dst.isFloat
  · rw [if_neg Bool.false_ne_true]
    cases hs : src.isFloat
    · rw [convert_int_int hs hd]; exact (writeInt_spec (ntyInt_pos dst) _).1
    · rw [convert_float_int hs hd]; exact floatToInt_lt _
  · rw [if_pos rfl]
    cases hs : src.isFloat
    · rw [convert_int_float hs hd, intToFloat]
      split
      · exact Nat.two_pow_pos _
      · obtain ⟨_, _, _, _, hlt, _⟩ := roundFit_delivers_exact (f := ntyFmt dst) (mode := mode) (sat := sat) (ftz := false) (e := 0)
          (neg := decide (intOf (ntyInt src).1 (ntyInt src).2 b < 0)) (ntyFmt_sound dst) (Int.natAbs_ne_zero.2 ‹_›)
        exact hlt
    · rw [convert_float_float hs hd]; exact toFloat_lt _

end

/-- What a conversion computes, by the kinds of its types. -/
theorem convert_spec {dst src : NTy} {mode : RMode} {sat ftz : Bool} {b : Nat} {out : Nat × FlagSet} (hout : out = convert dst src mode sat ftz b) :
    (src.isFloat = true → ∀ x, x = val (ntyFmt src) (ftzIn (ntyFmt src) ftz b) →
      (dst.isFloat = true → ∀ m, (val (ntyFmt dst) (ntyFmt dst).maxPat).Mag false m →
        (x = .nan → out = if dst = .e2m1 then (0, flNV) else ((ntyFmt dst).nan, 0)) ∧
        (∀ s, x = .inf s →
          (dst = .f32 → val fmtF32 out.1 = .inf s ∧ out.2 = 0) ∧
          (dst ≠ .f32 → sat = true → (val (ntyFmt dst) out.1).Mag s m ∧ out.2 = flSAT) ∧
          (dst ≠ .f32 → sat = false →
            if dst = .e4m3 then out = (if s then 0xFF else 0x7F, flNV)
            else if dst = .e2m1 then (val fmtE2M1 out.1).Mag s 6 ∧ out.2 = flNV
            else val (ntyFmt dst) out.1 = .inf s ∧ out.2 = 0)) ∧
        (x.Is 0 → (val (ntyFmt dst) out.1).Mag x.sign 0 ∧ out.2 = 0) ∧
        (∀ neg a, 0 < a → x.Mag neg a → Delivers (ntyFmt dst) mode sat ftz neg a out)) ∧
      (dst.isFloat = false → ∀ w sg, (w, sg) = ntyInt dst → out.1 < 2^w ∧
        (x = .nan → out = (0, flNV)) ∧
        (∀ s, x = .inf s → intOf w sg out.1 = (if s then intMin w sg else intMax w sg) ∧ out.2 = flNV) ∧
        (∀ neg a r (y : ℤ), x.Mag neg a → RoundsOn mode neg 1 a r → (y : ℝ) = (if neg then -r else r) →
          intOf w sg out.1 = clampInt (intMin w sg) (intMax w sg) y ∧
          out.2 = if y < intMin w sg ∨ intMax w sg < y then flNV else if r = a then 0 else flNX))) ∧
    (src.isFloat = false → ∀ y, y = intOf (ntyInt src).1 (ntyInt src).2 b →
      (dst.isFloat = true → (y = 0 → out = (0, 0)) ∧
        (y ≠ 0 → Delivers (ntyFmt dst) mode sat false (decide (y < 0)) |(y : ℝ)| out)) ∧
      (dst.isFloat = false → ∀ w sg, (w, sg) = ntyInt dst → out.1 < 2^w ∧
        (sat = true → intOf w sg out.1 = clampInt (intMin w sg) (intMax w sg) y ∧
          out.2 = if y < intMin w sg ∨ intMax w sg < y then flSAT else 0) ∧
        (sat = false → (out.1 : ℤ) % (2^w : ℤ) = y % (2^w : ℤ) ∧ out.2 = 0))) := by
  subst hout
  refine ⟨fun hs x hx => ⟨fun hd m hm => ?_, fun hd w sg hw => ?_⟩, fun hs y hy => ⟨fun hd => ?_, fun hd w sg hw => ?_⟩⟩
  · rw [convert_float_float hs hd, ← hx]
    refine ⟨?_, ?_, fun h => ?_, fun neg a ha h => toFloat_delivers ha h⟩
    · rintro rfl
      exact nanTo_eq dst
    · rintro s rfl
      refine ⟨?_, fun h hsat => ?_, fun h hsat => ?_⟩
      · rintro rfl
        exact infTo_f32 (sat := sat) s
      · rw [hsat, toFloat, infTo_sat h, (ntyFmt_sound dst).maxMag_eq hm]
        exact ⟨(ntyFmt_sound dst).maxMag_mag s, rfl⟩
      · rw [hsat]
        exact infTo_table hd h s
    · rw [toFloat_zero h]
      exact ⟨(encFin_zero (ntyFmt_sound dst) _ 0).1, rfl⟩
  · rw [convert_float_int hs hd, ← hx]
    obtain ⟨rfl, rfl⟩ : w = (ntyInt dst).1 ∧ sg = (ntyInt dst).2 := by rw [← hw]; exact ⟨rfl, rfl⟩
    refine ⟨floatToInt_lt _, ?_, ?_, fun neg a r y hm hr hy => floatToInt_mag (ntyInt_pos dst) hm hr hy⟩
    · rintro rfl
      rfl
    · rintro s rfl
      exact floatToInt_inf (ntyInt_pos dst) s
  · rw [convert_int_float hs hd, ← hy]
    exact ⟨fun h => if_pos h, fun h => intToFloat_delivers h⟩
  · rw [convert_int_int hs hd, ← hy]
    obtain ⟨rfl, rfl⟩ : w = (ntyInt dst).1 ∧ sg = (ntyInt dst).2 := by rw [← hw]; exact ⟨rfl, rfl⟩
    exact writeInt_spec (ntyInt_pos dst) y

end Sys2Proof.Machine
end

section
/-! SUPPORT. The lane forms of the conversions (R219 to R221): the elements that CVT and PACK write, the registers that UNPACK writes. -/

namespace Sys2Proof.Machine

/-! ## Elements of a register (R218) -/

theorem ntyBits_mul_count {t : NTy} (h : t.pair = false) : ntyBits t * t.count = 32 := by
  cases t with
  | s64 => exact Bool.noConfusion h
  | n64 => exact Bool.noConfusion h
  | _ => decide

theorem ntyBits_pos (t : NTy) : 0 < ntyBits t := by cases t <;> decide

theorem setElem_getLsbD {b e v j : Nat} {w : W32} (hj : j < 32) :
    (setElem b e v w).getLsbD j = (w.getLsbD j && !(decide (b * e ≤ j) && decide (j - b * e < b)) ||
      (decide (b * e ≤ j) && v.testBit (j - b * e))) := by
  simp only [setElem, BitVec.getLsbD_or, BitVec.getLsbD_and, BitVec.getLsbD_not, BitVec.getLsbD_ofNat, hj, decide_true, Bool.true_and,
    Nat.testBit_mul_two_pow, Nat.testBit_two_pow_sub_one]

/-- The replaced element reads as the new one, every other as before. -/
theorem setElem_digit {b c e n v : Nat} {w : W32} (hbc : b * c = 32) (he : e < c) (hn : n < c) (hv : v < 2^b) :
    (setElem b e v w).toNat / 2^(b * n) % 2^b = if n = e then v else w.toNat / 2^(b * n) % 2^b := by
  have hnb : b * n + b ≤ 32 := hbc ▸ Nat.mul_le_mul_left b hn
  apply Nat.eq_of_testBit_eq
  intro i
  by_cases hi : i < b
  case neg =>
    have hvi : v.testBit i = false := Nat.testBit_lt_two_pow (hv.trans_le (Nat.pow_le_pow_right two_pos (not_lt.1 hi)))
    by_cases hne : n = e <;> simp [hne, hi, hvi]
  case pos =>
    have hbit : ((setElem b e v w).toNat / 2^(b * n) % 2^b).testBit i = (w.getLsbD (i + b * n) &&
        !(decide (b * e ≤ i + b * n) && decide (i + b * n - b * e < b)) ||
        (decide (b * e ≤ i + b * n) && v.testBit (i + b * n - b * e))) := by
      rw [← setElem_getLsbD (by omega)]
      simp [hi, Nat.testBit_mod_two_pow, Nat.testBit_div_two_pow, BitVec.testBit_toNat]
    have hold : (w.toNat / 2^(b * n) % 2^b).testBit i = w.getLsbD (i + b * n) := by
      simp [hi, Nat.testBit_mod_two_pow, Nat.testBit_div_two_pow, BitVec.testBit_toNat]
    rw [hbit]
    rcases lt_trichotomy n e with h | rfl | h
    · have hlt : ¬ b * e ≤ i + b * n := by have := Nat.mul_le_mul_left b h; rw [Nat.mul_succ] at this; omega
      rw [if_neg h.ne, hold]
      simp [hlt]
    · simp [hi]
    · have hle : b ≤ i + b * n - b * e := by have := Nat.mul_le_mul_left b h; rw [Nat.mul_succ] at this; omega
      have hvi : v.testBit (i + b * n - b * e) = false := Nat.testBit_lt_two_pow (hv.trans_le (Nat.pow_le_pow_right two_pos hle))
      rw [if_neg h.ne', hold, hvi]
      simp [not_lt.2 hle]

/-! ## CVT (R219) -/

theorem laneMode_zero (g : Group) (x : Lane) (rm : Rm) : laneMode g x rm 0 = rmodeOf rm (fpRm g.fpstat) (drawAt x.key x.ctr).toNat := by
  rw [laneMode, show x.ctr + BitVec.ofNat 48 0 = x.ctr from BitVec.add_zero _]

section
variable {g : Group} {l : Nat} {x : Lane} {d a : BitVec 8} {k : CvtCtl} {r : Nat × FlagSet}
  (hr : r = convert k.dst k.src (laneMode g x k.rm 0) k.sat k.ftz (ntyElem k.src x a.toNat k.e.toNat))

include hr

theorem laneCvt_pair (hp : k.dst.pair = true) : laneCvt d a k g l x = (pairRegs (BitVec.ofNat 64 r.1) (ntyTag k.dst), r.2) := by
  subst hr
  exact if_pos hp

theorem laneCvt_word (hp : k.dst.pair = false) (hc : k.dst.count = 1) : laneCvt d a k g l x = ([⟨BitVec.ofNat 32 r.1, ntyTag k.dst⟩], r.2) := by
  subst hr
  simp [laneCvt, hp, hc]

theorem laneCvt_elem (hp : k.dst.pair = false) (hc : k.dst.count ≠ 1) :
    laneCvt d a k g l x = ([⟨setElem (ntyBits k.dst) k.f.toNat r.1 (x.reg d.toNat).val, ntyTag k.dst⟩], r.2) := by
  subst hr
  simp [laneCvt, hp, hc]

end

/-! ## PACK (R220) -/

/-- Words in element order, as PACK joins them. -/
def joinElems (b : Nat) (rs : List (Nat × FlagSet)) : Nat := rs.foldr (fun r acc => r.1 + 2^b * acc) 0

theorem joinElems_eq_ofDigits (b : Nat) (rs : List (Nat × FlagSet)) : joinElems b rs = Nat.ofDigits (2^b) (rs.map Prod.fst) := by
  rw [Nat.ofDigits_eq_foldr, List.foldr_map]
  rfl

theorem joinElems_lt {b : Nat} (hb : 0 < b) {rs : List (Nat × FlagSet)} (h : ∀ r ∈ rs, r.1 < 2^b) : joinElems b rs < 2^(b * rs.length) := by
  rw [joinElems_eq_ofDigits, Nat.pow_mul, ← List.length_map (f := Prod.fst)]
  exact Nat.ofDigits_lt_base_pow_length (Nat.one_lt_two_pow hb.ne') (by simpa using h)

theorem joinElems_digit {b : Nat} {rs : List (Nat × FlagSet)} (h : ∀ r ∈ rs, r.1 < 2^b) {n : Nat} (hn : n < rs.length) :
    joinElems b rs / 2^(b * n) % 2^b = rs[n].1 := by
  rw [joinElems_eq_ofDigits, Nat.pow_mul, Nat.ofDigits_div_pow_eq_ofDigits_drop n (Nat.two_pow_pos b) _ (by simpa using h),
    List.drop_eq_getElem_cons (by simpa using hn), Nat.ofDigits_cons]
  simp [Nat.mod_eq_of_lt (h _ (List.getElem_mem hn))]

theorem foldl_or_flags (k : Nat) (rs : List (Nat × FlagSet)) (acc : FlagSet) :
    (rs.foldl (fun acc r => acc ||| r.2) acc).getLsbD k = true ↔ acc.getLsbD k = true ∨ ∃ r ∈ rs, r.2.getLsbD k = true := by
  induction rs generalizing acc with
  | nil => simp
  | cons r rs ih => rw [List.foldl_cons, ih]; simp [or_assoc]

section
variable {f : FA} {t : NTy} {x : Lane} {el : Nat → W32}
  (hel : ∀ n, el n = if t.count = 2 then (x.reg (if n = 0 then f.a.toNat else f.b.toNat)).val
    else (x.reg (if n < 4 then f.a.toNat + n else f.b.toNat + (n - 4))).val)

include hel

/-- The sources of PACK, in element order. -/
theorem packWords_eq (hc : t.count ≠ 1) : packWords f t x = (List.range t.count).map el := by
  obtain h | h | h : t.count = 2 ∨ t.count = 4 ∨ t.count = 8 := by cases t <;> simp [NTy.count] at hc ⊢
  all_goals simp [packWords, h, wordsAt, List.range_succ, hel]

theorem lanePack_eq {g : Group} {l : Nat} {sat : Bool} {rm : Rm} {r : Nat → Nat × FlagSet} (hc : t.count ≠ 1)
    (hr : ∀ n, r n = convert t (packSrc t) (laneMode g x rm n) sat false (el n).toNat) :
    lanePack f t sat rm g l x = ([⟨BitVec.ofNat 32 (joinElems (ntyBits t) ((List.range t.count).map r)), ntyTag t⟩],
      ((List.range t.count).map r).foldl (fun acc r => acc ||| r.2) 0) := by
  have hmap : (packWords f t x).mapIdx (fun n w => convert t (packSrc t) (laneMode g x rm n) sat false w.toNat) =
      (List.range t.count).map r := by
    rw [packWords_eq hel hc]
    exact List.ext_getElem (by simp) (fun n _ _ => by simp [hr])
  unfold lanePack
  rw [hmap]
  rfl

end

/-! ## UNPACK (R221) -/

theorem laneUnpack_get {f : FA} {t : NTy} {h : Bool} {g : Group} {l : Nat} {x : Lane} {k : Nat} (hk : k < if t.count = 2 then 2 else 4) :
    (laneUnpack f t h g l x)[k]? = some ⟨BitVec.ofNat 32 (convert (unpackDst t) t .rn false false
      (ntyElem t x f.a.toNat (k + if h then 4 else 0))).1, ntyTag (unpackDst t)⟩ := by
  simp [laneUnpack, List.getElem?_range hk]

theorem ntyElem_lt {t : NTy} (hp : t.pair = false) (x : Lane) (r e : Nat) : ntyElem t x r e < 2^(ntyBits t) := by
  rw [ntyElem, if_neg (by rw [hp]; exact Bool.false_ne_true)]
  exact Nat.mod_lt _ (Nat.two_pow_pos _)

/-- The exponent field of a number stays below the special one. -/
theorem expField_le_of_fin {f : Fmt} {b : Nat} {s : Bool} {m : Nat} {e : Int} (h : val f b = .fin s m e) :
    expField f b + (if f.ieee then 2 else 1) ≤ 2^(f.bits - f.p) := by
  have hlt : expField f b < 2^(f.bits - f.p) := Nat.mod_lt _ (Nat.two_pow_pos _)
  obtain ⟨-, hs, -⟩ := val_fin_fields h
  by_cases hi : f.ieee = true
  · have hne : expField f b ≠ 2^(f.bits - f.p) - 1 := fun hE => by simp [Fmt.special, hi, hE] at hs
    rw [if_pos hi]
    omega
  · rw [if_neg hi]
    omega

/-- A number of a narrow format is one that FP32 holds. -/
theorem narrow_bounds {t : NTy} (ht : t.isFloat = true) (hc : t.count ≠ 1) {b : Nat} {s : Bool} {m : Nat} {e : Int}
    (h : val (ntyFmt t) b = .fin s m e) : m < 2^(ntyFmt t).p ∧ (ntyFmt t).p ≤ 24 ∧ -149 ≤ e ∧ e + (ntyFmt t).p ≤ 128 := by
  have hfmt : (ntyFmt t).p ≤ 24 ∧ -149 ≤ (ntyFmt t).emin - (ntyFmt t).p + 1 ∧
      2^((ntyFmt t).bits - (ntyFmt t).p) ≤ 127 + (ntyFmt t).bias + (if (ntyFmt t).ieee then 2 else 1) := by
    cases t with
    | f16 => decide
    | bf16 => decide
    | e4m3 => decide
    | e5m2 => decide
    | e2m1 => decide
    | f32 => exact absurd rfl hc
    | _ => exact Bool.noConfusion ht
  obtain ⟨hp, hmin, htop⟩ := hfmt
  obtain ⟨hm, he⟩ := val_fin_bounds (ntyFmt_sound t) h
  obtain ⟨-, -, hfields⟩ := val_fin_fields h
  have hE := expField_le_of_fin h
  refine ⟨hm, hp, by omega, ?_⟩
  unfold Fmt.emin at *
  omega

/-- A float widens to the same value (R221). -/
theorem unpack_float {t : NTy} (ht : t.isFloat = true) (hc : t.count ≠ 1) {b : Nat} {v : W32}
    (hv : v = BitVec.ofNat 32 (convert (unpackDst t) t .rn false false b).1) :
    (val (ntyFmt t) b = .nan → v = 0x7FC00000) ∧ (∀ s, val (ntyFmt t) b = .inf s → val fmtF32 v.toNat = .inf s) ∧
      (∀ neg a, (val (ntyFmt t) b).Mag neg a → (val fmtF32 v.toNat).Mag neg a) := by
  have hdst : unpackDst t = .f32 := if_pos ht
  have hnat : v.toNat = (toFloat .f32 .rn false false (val (ntyFmt t) b)).1 := by
    rw [hv, hdst, convert_float_float ht rfl, ftzIn_false, BitVec.toNat_ofNat]
    exact Nat.mod_eq_of_lt (toFloat_lt (dst := .f32) _)
  refine ⟨fun h => ?_, fun s h => ?_, fun neg a h => ?_⟩
  · rw [h] at hnat
    exact BitVec.eq_of_toNat_eq hnat
  · rw [hnat, h]
    exact (infTo_f32 (sat := false) s).1
  · rw [hnat]
    obtain ⟨m, e, hval, rfl⟩ := h
    obtain ⟨hm, hp, h1, h2⟩ := narrow_bounds ht hc hval
    rw [hval, toFloat]
    by_cases h0 : m = 0
    · rw [if_pos h0, h0, Nat.cast_zero, zero_mul]
      exact (encFin_zero fmtF32_sound neg 0).1
    · rw [if_neg h0]
      exact roundFit_f32_exact h0 hp hm h1 h2

/-- An integer widens to the same value (R221). -/
theorem unpack_int {t : NTy} (ht : t.isFloat = false) (hp : t.pair = false) (hc : t.count ≠ 1) {b : Nat} (hb : b < 2^(ntyBits t)) :
    intOf 32 (ntyInt t).2 (BitVec.ofNat 32 (convert (unpackDst t) t .rn false false b).1).toNat = intOf (ntyInt t).1 (ntyInt t).2 b := by
  have hty : (unpackDst t).isFloat = false ∧ ntyInt (unpackDst t) = (32, (ntyInt t).2) ∧
      intMin 32 (ntyInt t).2 ≤ intMin (ntyInt t).1 (ntyInt t).2 ∧ intMax (ntyInt t).1 (ntyInt t).2 ≤ intMax 32 (ntyInt t).2 := by
    cases t with
    | s8 => decide
    | n8 => decide
    | s4 => decide
    | n4 => decide
    | _ => simp_all [NTy.isFloat, NTy.pair, NTy.count]
  obtain ⟨hdst, hint, hmin, hmax⟩ := hty
  rw [ntyBits, if_neg (by rw [ht]; exact Bool.false_ne_true)] at hb
  obtain ⟨hlo, hhi⟩ := intOf_bounds (ntyInt_pos t) hb (sg := (ntyInt t).2)
  rw [convert_int_int ht hdst, hint, BitVec.toNat_ofNat, Nat.mod_eq_of_lt (writeInt_spec (w := 32) (by decide) _).1]
  exact intOf_wrapTo (w := 32) (by decide) (hmin.trans hlo) (hhi.trans hmax)

/-! ## The obligation -/

/-- Settles O11: `convert` by the kinds of its types, and the elements that CVT, PACK and UNPACK write. -/
theorem conversionsSaturateAndRound : Obligations.ConversionsSaturateAndRound := by
  unfold Obligations.ConversionsSaturateAndRound
  refine ⟨fun dst src mode sat ftz b out _ hout => convert_spec hout, fun g l x => ⟨?_, ?_, ?_⟩⟩
  · intro d a k r hr
    rw [← laneMode_zero] at hr
    refine ⟨laneCvt_pair hr, laneCvt_word hr, fun hp hc hf => ⟨_, laneCvt_elem hr hp hc, fun n hn => ?_⟩⟩
    exact setElem_digit (ntyBits_mul_count hp) hf hn (hr ▸ convert_lt)
  · intro f t sat rm el r hp hc hel hr
    rw [lanePack_eq hel hc hr]
    have hlt : ∀ p ∈ (List.range t.count).map r, p.1 < 2^(ntyBits t) := by
      simp only [List.mem_map]
      rintro _ ⟨n, -, rfl⟩
      rw [hr]
      exact convert_lt
    have hword := joinElems_lt (ntyBits_pos t) hlt
    rw [List.length_map, List.length_range, ntyBits_mul_count hp] at hword
    refine ⟨_, rfl, fun n hn => ?_, fun k => ?_⟩
    · rw [BitVec.toNat_ofNat, Nat.mod_eq_of_lt hword, joinElems_digit hlt (by simpa using hn)]
      simp
    · rw [foldl_or_flags]
      simp
  · intro f t h k hp hc hk
    refine ⟨_, laneUnpack_get hk, rfl, ?_⟩
    rintro b rfl
    cases ht : t.isFloat
    · rw [if_neg Bool.false_ne_true]
      exact unpack_int ht hp hc (ntyElem_lt hp ..)
    · rw [if_pos rfl]
      exact unpack_float ht hc rfl

end Sys2Proof.Machine
end

section
/-! SUPPORT. Stores and the values that loads take from memory (R4, R147, R162, R234): the state after a store, field by field, the
reservations that it clears, the registers that bytes make; with the proof of O33. -/

namespace Sys2Proof.Machine

/-! ## The state after a store -/

/-- A partition without its marked regions. -/
def Part.unmarked (r : Part) : Part := { r with marks := [] }

theorem State.get?_ckCopy_parts (s : State) (k q : Nat) : Table.get? (s.ckCopy k).parts q = (Table.get? s.parts q).map (fun p =>
    { p with marks := Table.mapAll p.marks (fun _ r => r.copy s.mem k) }) := by
  unfold State.ckCopy
  dsimp only
  rw [Table.get?_mapAll]

/-- A fold of snapshots changes the marked regions of partitions and nothing else (R302). -/
theorem State.foldl_ckCopy_spec (ks : List Nat) (s : State) : ∃ ps, ks.foldl State.ckCopy s = { s with parts := ps } ∧
    ∀ q, (Table.get? ps q).map Part.unmarked = (Table.get? s.parts q).map Part.unmarked := by
  induction ks generalizing s with
  | nil => exact ⟨s.parts, rfl, fun _ => rfl⟩
  | cons k ks ih =>
    obtain ⟨ps, he, hp⟩ := ih (s.ckCopy k)
    refine ⟨ps, he, fun q => (hp q).trans ?_⟩
    rw [State.get?_ckCopy_parts]
    cases Table.get? s.parts q <;> rfl

/-- A store writes its bytes, cures the codewords that it covers, breaks reservations, and copies granules into snapshots (R162, R302,
R372); it changes nothing else. -/
theorem State.store_spec (s : State) (a : Nat) (bs : List Byte) (own : Option (Nat × Nat)) : ∃ ps bad,
    s.store a bs own = ({ s with parts := ps, mem := writeBytes s.mem a bs, badCw := bad } : State).breakResv a bs.length own ∧
    (∀ q, (Table.get? ps q).map Part.unmarked = (Table.get? s.parts q).map Part.unmarked) ∧
    (s.badCw = [] → bad = []) := by
  obtain ⟨ps, he, hp⟩ : ∃ ps, (if bs.isEmpty then s else (List.range ((a + bs.length - 1) / ckBytes - a / ckBytes + 1)).foldl
      (fun s i => s.ckCopy (a / ckBytes + i)) s) = { s with parts := ps } ∧
      ∀ q, (Table.get? ps q).map Part.unmarked = (Table.get? s.parts q).map Part.unmarked := by
    split
    · exact ⟨s.parts, rfl, fun _ => rfl⟩
    · rw [← List.foldl_map (f := fun i => a / ckBytes + i) (g := State.ckCopy)]
      exact State.foldl_ckCopy_spec _ s
  refine ⟨ps, s.badCw.filter (fun k => !(decide (a ≤ 16 * k.1) && decide (16 * k.1 + 16 ≤ a + bs.length))), ?_, hp, fun h => by rw [h]; rfl⟩
  unfold State.store
  dsimp only
  rw [he]

/-- The lane of group `k` that stores, if one does. -/
def ownLane (own : Option (Nat × Nat)) (k : Nat) : Option Nat :=
  match own with
  | some (c, l) => if c = k then some l else none
  | none => none

theorem ownLane_bne (own : Option (Nat × Nat)) (k l : Nat) : (ownLane own k != some l) = decide (own ≠ some (k, l)) := by
  unfold ownLane
  rcases own with _ | ⟨c, m⟩
  · simp
  · by_cases hc : c = k <;> simp [hc, bne, beq_eq_decide]

/-- The reservations of a group after a store by another agent or by one of its lanes. -/
def Group.afterStore (s : State) (a n : Nat) (own : Option (Nat × Nat)) (k : Nat) (g : Group) : Group :=
  if s.isSolstice g.blk then g else g.breakResv a n (ownLane own k)

theorem State.group?_store (s : State) (a : Nat) (bs : List Byte) (own : Option (Nat × Nat)) (k : Nat) :
    (s.store a bs own).group? k = (s.group? k).map (Group.afterStore s a bs.length own k) := by
  obtain ⟨ps, bad, h, -, -⟩ := State.store_spec s a bs own
  rw [h]
  exact Table.get?_mapAll s.groups k (Group.afterStore s a bs.length own)

/-- The bytes from `a` on touch a granule when they meet its 16 bytes. -/
theorem touchesGranule_iff {a n k : Nat} : touchesGranule a n k = true ↔ 0 < n ∧ a < 16 * k + 16 ∧ 16 * k < a + n := by
  simp only [touchesGranule, Bool.and_eq_true, decide_eq_true_eq]
  unfold granule
  omega

/-- What a write leaves of a lane's reservation (R162). -/
theorem Group.resv_breakResv (g : Group) (a n l : Nat) (own : Option Nat) : ((g.breakResv a n own).lane l).resv =
    (g.lane l).resv.bind (fun k => if touchesGranule a n k && own != some l then none else some k) := by
  simp only [Group.lane, Group.breakResv, List.getD, List.getElem?_mapIdx]
  cases g.lanes[l]? with
  | none => rfl
  | some x =>
    simp only [Option.map_some, Option.getD_some]
    cases hr : x.resv with
    | none => simp [hr]
    | some k =>
      rw [Option.bind_some]
      dsimp only
      split <;> [rfl; exact hr]

/-- A store of bytes leaves a reservation outside Solstice mode when it is the lane's own or touches no byte of the granule (R162). -/
theorem Group.resv_afterStore {s : State} {g : Group} {a n k l r : Nat} {own : Option (Nat × Nat)} (hn : n ≠ 0)
    (hs : s.isSolstice g.blk = false) (hr : (g.lane l).resv = some r) :
    ((g.afterStore s a n own k).lane l).resv = if own ≠ some (k, l) ∧ a < 16 * r + 16 ∧ 16 * r < a + n then none else some r := by
  have ht : touchesGranule a n r = decide (a < 16 * r + 16 ∧ 16 * r < a + n) := by
    rw [Bool.eq_iff_iff, touchesGranule_iff, decide_eq_true_eq]; omega
  unfold Group.afterStore
  rw [hs, if_neg Bool.false_ne_true, Group.resv_breakResv, hr, Option.bind_some, ownLane_bne, ht, ← Bool.decide_and]
  simp only [decide_eq_true_eq, and_comm]

/-! ## Bytes as registers -/

theorem readBytes_drop (m : List Host.Cell) (a : Nat) : ∀ i n, (readBytes m a n).drop i = readBytes m (a + i) (n - i)
  | 0, n => by simp
  | i + 1, 0 => by simp [readBytes]
  | i + 1, n + 1 => by
    rw [readBytes, List.drop_succ_cons, readBytes_drop m (a + 1) i n, Nat.add_right_comm, Nat.add_sub_add_right, Nat.add_assoc]

theorem readBytes_take (m : List Host.Cell) (a : Nat) : ∀ i n, (readBytes m a n).take i = readBytes m a (min i n)
  | 0, n => by simp [readBytes]
  | i + 1, 0 => by simp [readBytes]
  | i + 1, n + 1 => by rw [readBytes, List.take_succ_cons, readBytes_take m (a + 1) i n, Nat.add_min_add_right, readBytes]

theorem readNat_succ (m : List Host.Cell) (a n : Nat) : readNat m a (n + 1) = (readByte m a).toNat + 256 * readNat m (a + 1) n := rfl

@[simp] theorem readNat_zero (m : List Host.Cell) (a : Nat) : readNat m a 0 = 0 := rfl

theorem readNat_one (m : List Host.Cell) (a : Nat) : readNat m a 1 = (readByte m a).toNat := by simp [readNat_succ]

theorem readNat_two (m : List Host.Cell) (a : Nat) : readNat m a 2 = (readByte m a).toNat + 256 * (readByte m (a + 1)).toNat := by
  simp [readNat_succ]

theorem readNat_four (m : List Host.Cell) (a : Nat) : readNat m a 4 = (readByte m a).toNat + 2^8 * (readByte m (a + 1)).toNat +
    2^16 * (readByte m (a + 2)).toNat + 2^24 * (readByte m (a + 3)).toNat := by
  simp only [readNat_succ, readNat_zero, Nat.add_assoc, Nat.reduceAdd]
  omega

/-- Registers from bytes of memory hold its 4-byte numbers, low register first (R234). -/
theorem regsOfBytes_readBytes (tag : BitVec 4) (m : List Host.Cell) (a n : Nat) :
    regsOfBytes tag (readBytes m a (4 * n)) n = (List.range n).map (fun k => ⟨BitVec.ofNat 32 (readNat m (a + 4 * k) 4), tag⟩) := by
  refine List.map_congr_left (fun k hk => ?_)
  have hk : k < n := List.mem_range.1 hk
  rw [readBytes_drop, readBytes_take, readNat, show min 4 (4 * n - 4 * k) = 4 by omega]

/-- A number of fewer than 32 bits, extended by zeros or sign (R234). -/
theorem extendTo_zero (n v : Nat) : extendTo n false v = BitVec.ofNat 32 v := rfl

theorem extendTo_sign {w v : Nat} (hw : 8 * w ≤ 32) (hv : v < 2^(8 * w)) :
    extendTo w true v = (BitVec.ofNat (8 * w) v).signExtend 32 := by
  apply BitVec.eq_of_toNat_eq
  have hpow : 2^(8 * w) ≤ 2^32 := Nat.pow_le_pow_right (by omega) hw
  have hmsb : (BitVec.ofNat (8 * w) v).msb = decide (2^(8 * w - 1) ≤ v) := by
    rw [BitVec.msb_eq_decide, BitVec.toNat_ofNat, Nat.mod_eq_of_lt hv]
  rw [BitVec.toNat_signExtend, hmsb, BitVec.toNat_setWidth, BitVec.toNat_ofNat, Nat.mod_eq_of_lt hv, Nat.mod_eq_of_lt (by omega)]
  unfold extendTo
  by_cases hs : 2^(8 * w - 1) ≤ v
  · simp only [hs, decide_true, Bool.and_self, if_true, BitVec.toNat_ofNat]
    omega
  · simp only [hs, decide_false, Bool.and_false, Bool.false_eq_true, if_false, BitVec.toNat_ofNat]
    omega

/-! ## The landings of a load -/

section
variable (m : List Host.Cell) {f : FMg} (tag : BitVec 4) (l a : Nat)

theorem loadLands_narrow (x : Bool) {n : Nat} (hn : szBytes f.sz = n) (h : n < 4) :
    loadLands m f (.reg x tag) l a = [.vec l f.r.toNat ⟨extendTo n x (readNat m a n), tag⟩] := by
  subst hn
  exact if_pos h

theorem loadLands_words (x : Bool) {n : Nat} (hn : szBytes f.sz = 4 * n) (h : n ≠ 0) : loadLands m f (.reg x tag) l a =
    (List.range n).map (fun k => .vec l (f.r.toNat + k) ⟨BitVec.ofNat 32 (readNat m (a + 4 * k) 4), tag⟩) := by
  unfold loadLands
  dsimp only
  rw [hn, if_neg (by omega), Nat.mul_div_cancel_left n (by omega), regsOfBytes_readBytes]
  apply List.ext_getElem <;> simp

end

/-- Settles O33: a store's bytes are read back, a load's registers are the numbers that bytes spell, and a store breaks the
reservations on the granules that it meets. -/
theorem memoryReadsWhatWasWritten : Obligations.MemoryReadsWhatWasWritten := by
  unfold Obligations.MemoryReadsWhatWasWritten
  refine ⟨fun s a n v k own hv => ⟨?_, fun hk => ?_, State.store_wf s a _ own⟩, fun m f tag l a b hb => ⟨?_, ?_, ?_⟩, ?_⟩
  · rw [State.store_mem, readNat_writeBytes, Nat.mod_eq_of_lt (by rwa [show 256^n = 2^(8 * n) by rw [Nat.pow_mul]])]
  · rw [State.store_mem, readByte_writeBytes_outside _ _ (by rwa [bytesOfNat_length])]
  · intro hf
    have hn : szBytes f.sz = 1 := by rw [hf]; rfl
    rw [loadLands_narrow m tag l a _ hn (by omega), loadLands_narrow m tag l a _ hn (by omega), extendTo_zero,
      extendTo_sign (by omega) (readNat_lt m a 1), readNat_one, hb 0]
    refine ⟨rfl, ?_⟩
    rw [show 8 * 1 = 8 from rfl, BitVec.ofNat_toNat, BitVec.setWidth_eq]
  · intro hf
    have hn : szBytes f.sz = 2 := by rw [hf]; rfl
    rw [loadLands_narrow m tag l a _ hn (by omega), loadLands_narrow m tag l a _ hn (by omega), extendTo_zero,
      extendTo_sign (by omega) (readNat_lt m a 2), readNat_two, hb 0, hb 1]
    exact ⟨rfl, rfl⟩
  · intro x w hw
    have hword (k : Nat) : BitVec.ofNat 32 (readNat m (a + 4 * k) 4) = w k := by
      rw [hw, readNat_four, hb, hb, hb, hb]
      rfl
    refine ⟨fun hf => ?_, fun hf => ?_, fun hf => ?_⟩
    · rw [loadLands_words m tag l a x (n := 1) (by rw [hf]; rfl) (by omega)]; simp [← hword]
    · rw [loadLands_words m tag l a x (n := 2) (by rw [hf]; rfl) (by omega)]; simp [List.range_succ, ← hword]
    · rw [loadLands_words m tag l a x (n := 4) (by rw [hf]; rfl) (by omega)]; simp [← hword]
  · intro s a bs own k l r g h hbs _ hsol hg hh hr
    rw [State.group?_store, hg, Option.map_some, Option.some.injEq] at hh
    rw [← hh]
    exact Group.resv_afterStore (mt List.length_eq_zero_iff.1 hbs) hsol hr

end Sys2Proof.Machine
end

section
/-! SUPPORT. Store-conditionals (R146, R162, R163, R241): an instruction that writes memory lane after lane and lands late, and the proof
of O32. -/

namespace Sys2Proof.Machine

/-! ## What a store leaves alone -/

@[simp] theorem Group.sansResv_breakResv (g : Group) (a n : Nat) (own : Option Nat) : (g.breakResv a n own).sansResv = g.sansResv := by
  have hl : (g.breakResv a n own).lanes.map (fun x => { x with resv := none }) = g.lanes.map (fun x => { x with resv := none }) := by
    apply List.ext_getElem?
    intro l
    simp only [Group.breakResv, List.getElem?_map, List.getElem?_mapIdx]
    cases g.lanes[l]? with
    | none => rfl
    | some x =>
      simp only [Option.map_some, Option.some.injEq]
      split
      · rfl
      · split <;> rfl
  unfold Group.sansResv
  rw [hl]
  rfl

@[simp] theorem Group.sansResv_afterStore (s : State) (a n k : Nat) (own : Option (Nat × Nat)) (g : Group) :
    (g.afterStore s a n own k).sansResv = g.sansResv := by
  unfold Group.afterStore
  split <;> simp

theorem StoreRest.refl (s : State) : StoreRest s s := by constructor <;> simp

theorem State.part_unmarked {s t : State} {p : Nat} (h : (Table.get? t.parts p).map Part.unmarked = (Table.get? s.parts p).map Part.unmarked) :
    (t.part p).unmarked = (s.part p).unmarked := by
  unfold State.part
  rw [← Option.getD_map Part.unmarked, ← Option.getD_map Part.unmarked, h]

/-- A further store changes nothing else. -/
theorem StoreRest.store {s u : State} (h : StoreRest s u) (a : Nat) (bs : List Byte) (own : Option (Nat × Nat)) :
    StoreRest s (u.store a bs own) := by
  have hgroup (k : Nat) : ((u.store a bs own).group? k).map Group.sansResv = (u.group? k).map Group.sansResv := by
    rw [State.group?_store, Option.map_map]
    congr 1
    exact funext (Group.sansResv_afterStore u a bs.length k own)
  obtain ⟨ps, bad, e, hp, -⟩ := State.store_spec u a bs own
  constructor
  · exact fun k hk => (hgroup k).trans (h.groups k hk)
  case parts => exact fun p => (State.part_unmarked (by rw [e]; exact hp p)).trans (h.parts p)
  all_goals rw [e]
  exacts [h.blocks, h.work, h.nodes, h.units, h.turn]

/-- The group that issues, or another, after its own change. -/
theorem StoreRest.setGroup (s : State) (x : Group) : StoreRest s (s.setGroup s.cur x) :=
  { StoreRest.refl s with groups := fun k hk => by rw [State.group?_setGroup, if_neg hk] }

/-- Retirement after stores. -/
theorem StoreRest.retire {s u t : State} (h : StoreRest s u) (hr : Rest u t) (ho : OthersAt s.cur u t) : StoreRest s t where
  groups k hk := by
    have e : (Group.sansResv ∘ fun x : Group => { x with yielded := false }) = Group.sansResv := rfl
    have := congrArg (Option.map Group.sansResv) (ho.groups k hk)
    rw [Option.map_map, Option.map_map, e] at this
    exact this.trans (h.groups k hk)
  blocks b := (ho.blocks b).trans (h.blocks b)
  work := ⟨hr.work.1.trans h.work.1, hr.work.2.1.trans h.work.2.1, hr.work.2.2.trans h.work.2.2⟩
  nodes := by
    obtain ⟨a1, a2, a3, a4⟩ := hr.nodes
    obtain ⟨b1, b2, b3, b4⟩ := h.nodes
    exact ⟨a1.trans b1, a2.trans b2, a3.trans b3, a4.trans b4⟩
  units := by
    obtain ⟨a1, a2, -, a4, a5⟩ := hr.parts
    obtain ⟨b1, b2, b3, b4⟩ := h.units
    exact ⟨a1.trans b1, a2.trans b2, a4.trans b3, a5.trans b4⟩
  parts p := by
    have e : t.part p = u.part p := by unfold State.part; rw [hr.parts.2.2.1]
    rw [e]
    exact h.parts p
  turn := ⟨hr.turn.1.trans h.turn.1, hr.turn.2.trans h.turn.2⟩

/-! ## Late results of every kind -/

/-- A list of landings leaves in a place the value that all of them give it: `rd` reads the place, `mk` is a landing there. -/
theorem foldl_landOne_read {α : Type} {rd : Group → α} {mk : α → Landing} (same : ∀ (g : Group) y, rd (g.landOne (mk y)) = y)
    (other : ∀ (g : Group) a, (∀ y, a ≠ mk y) → rd (g.landOne a) = rd g) {x : α} : ∀ (ls : List Landing) (g : Group), rd g = x ∨ mk x ∈ ls →
      (∀ y, mk y ∈ ls → y = x) → rd (ls.foldl Group.landOne g) = x
  | [], g, h, _ => by simpa using h
  | a :: ls, g, h, hu => by
    refine foldl_landOne_read same other ls (g.landOne a) ?_ (fun y hy => hu y (List.mem_cons_of_mem _ hy))
    by_cases ha : ∃ y, a = mk y
    · obtain ⟨y, rfl⟩ := ha
      exact .inl ((same g y).trans (hu y (List.mem_cons_self ..)))
    · have hne (y : α) : a ≠ mk y := fun e => ha ⟨y, e⟩
      rcases h with h | h
      · exact .inl ((other g a hne).trans h)
      · exact .inr ((List.mem_cons.1 h).resolve_left (fun e => hne x e.symm))

theorem foldl_landOne_pred {l p : Nat} {b : Bool} (hl : l < 32) (hp0 : p ≠ 0) (hp : p < 8) {ls : List Landing} (g : Group)
    (hb : Landing.pred l p b ∈ ls) (hu : ∀ c, Landing.pred l p c ∈ ls → c = b) : ((ls.foldl Group.landOne g).lane l).pred p = b := by
  refine foldl_landOne_read (rd := fun g => (g.lane l).pred p) (mk := Landing.pred l p) (fun g c => ?_) (fun g a ha => ?_) ls g (.inr hb) hu
  · show ((g.mapLanes (BitVec.ofNat 32 (2^l)) (fun _ y => y.setPred p c)).lane l).pred p = c
    rw [Group.lane_mapLanes _ _ _ _ hl, getLsbD_twoPow_lane l l hl, if_pos (decide_eq_true rfl), Lane.pred_setPred _ _ hp, if_pos ⟨rfl, hp0⟩]
  · refine (Group.landOne_same g a).pred l p hl hp ?_
    cases a with
    | pred m q c => rintro ⟨rfl, rfl⟩; exact ha c rfl
    | vec => exact id
    | scalar => exact id

theorem foldl_landOne_sreg {r : Nat} {x : W32} {ls : List Landing} (g : Group) (hx : Landing.scalar r x ∈ ls)
    (hu : ∀ y, Landing.scalar r y ∈ ls → y = x) : (ls.foldl Group.landOne g).sreg r = x := by
  refine foldl_landOne_read (rd := fun g => g.sreg r) (mk := Landing.scalar r) (fun g y => ?_) (fun g a ha => ?_) ls g (.inr hx) hu
  · show (g.setS r y).sreg r = y
    rw [Group.sreg_setS, if_pos rfl]
  · refine (Group.landOne_same g a).scal r ?_
    cases a with
    | scalar q y => rintro rfl; exact ha y rfl
    | vec => exact id
    | pred => exact id

/-- The window of a late result of instruction `i`. -/
def lateWindow (g : Group) (i : Instr) (ls : List Landing) : Window := { pc := g.pc, path := g.path, left := effLa g i, lands := ls }

/-- Where LA acts as 0 the registers after retirement are those after the landing of the instruction's own result. -/
theorem Group.retireOne_lateWindow (k : Group) {g : Group} {i : Instr} (ls : List Landing) (h0 : effLa g i = 0) : ∃ k',
    (k.retireOne g i (some (lateWindow g i ls))).lanes = (ls.foldl Group.landOne k').lanes ∧
    (k.retireOne g i (some (lateWindow g i ls))).s = (ls.foldl Group.landOne k').s := by
  refine ⟨(k.release (released (useOf i))).countWindows g.path, ?_⟩
  have ht (x : Group) : x.takeResult (some (lateWindow g i ls)) = ls.foldl Group.landOne x := by
    simp [Group.takeResult, lateWindow, h0, Group.land]
  unfold Group.retireOne
  dsimp only
  rw [ht]
  generalize ls.foldl Group.landOne ((k.release (released (useOf i))).countWindows g.path) = x
  unfold Group.holds
  split <;> (constructor <;> (split <;> rfl))

/-- The landings of an instruction that has retired with its late result. -/
theorem lands_retire {g k : Group} (i : Instr) (ls : List Landing) (q : Nat) (st : Steady g k) :
    Lands g { k.advance.retireOne g i (some (lateWindow g i ls)) with qcount := q } i ls := by
  refine ⟨fun h0 => ?_, fun h0 => ?_⟩
  · obtain ⟨k', hl, hs⟩ := Group.retireOne_lateWindow k.advance ls h0
    have hlane (l : Nat) : ({ k.advance.retireOne g i (some (lateWindow g i ls)) with qcount := q } : Group).lane l =
        (ls.foldl Group.landOne k').lane l := by unfold Group.lane; rw [hl]
    have hsreg (r : Nat) : ({ k.advance.retireOne g i (some (lateWindow g i ls)) with qcount := q } : Group).sreg r =
        (ls.foldl Group.landOne k').sreg r := by unfold Group.sreg; rw [hs]
    refine ⟨fun l r x hl hr hx hu => ?_, fun l p b hl hp0 hp hb hu => ?_, fun r x hx hu => ?_⟩
    · rw [hlane]; exact foldl_landOne_reg hl hr ls k' (.inr hx) hu
    · rw [hlane]; exact foldl_landOne_pred hl hp0 hp k' hb hu
    · rw [hsreg]; exact foldl_landOne_sreg k' hx hu
  · obtain ⟨-, -, ws⟩ := advance_retire st i (some (lateWindow g i ls)) q
    rw [ws]
    simp [lateWindow, h0]

/-- What lands as the instruction retires, where LA acts as 0. -/
theorem Same.of_lateWindow {g k h : Group} {i : Instr} {ls : List Landing} (w : Touches)
    (a : Same (retireTouches g i (some (lateWindow g i ls))) k h)
    (vec : ∀ l r, effLa g i = 0 → (∃ x, Landing.vec l r x ∈ ls) → w.vec l r)
    (pred : ∀ l p, effLa g i = 0 → (∃ b, Landing.pred l p b ∈ ls) → w.pred l p)
    (scal : ∀ r, effLa g i = 0 → (∃ x, Landing.scalar r x ∈ ls) → w.scal r) : Same (w.retire i g) k h := by
  have hin {v : Window} (hv : v ∈ now (some (lateWindow g i ls))) : effLa g i = 0 ∧ v.lands = ls := by
    unfold now at hv
    dsimp only at hv
    split at hv
    · rename_i h0
      rw [List.mem_singleton.1 hv]
      exact ⟨h0, rfl⟩
    · cases hv
  refine a.mono (w.retire i g) (vec := ?_) (pred := ?_) (scal := ?_)
  · rintro l r (h | h | ⟨v, hv, x, hx⟩)
    · exact .inr (.inl h)
    · exact .inr (.inr h)
    · obtain ⟨h0, e⟩ := hin hv
      exact .inl (vec l r h0 ⟨x, e ▸ hx⟩)
  · rintro l p (h | ⟨v, hv, x, hx⟩)
    · exact .inr h
    · obtain ⟨h0, e⟩ := hin hv
      exact .inl (pred l p h0 ⟨x, e ▸ hx⟩)
  · rintro r (h | ⟨v, hv, x, hx⟩)
    · exact .inr h
    · obtain ⟨h0, e⟩ := hin hv
      exact .inl (scal r h0 ⟨x, e ▸ hx⟩)

/-- A body that has written memory and answers late: the instruction completes with those writes, and its landings land. -/
theorem stores_late {s u : State} {g g' : Group} {i : Instr} {body : State → Group → Lanes → Res} {ls : List Landing} {as : List Nat} {n : Nat}
    {P : State → Group → Prop}
    (hl : ∀ sol, landsAt sol i = false) (hi : Issues s g i) (he : exec i s = run i body s) (hb : body s g (actOf g i) = .late u ls none)
    (hd : ∀ l r x, Landing.vec l r x ∈ ls → r ∉ released (useOf i))
    (hg : u.group? s.cur = some g') (hr : StoreRest s u) (st : Steady g g') (sw : Same { resv := fun _ => True } g g')
    (hm : ∀ a, (∀ x ∈ as, a < x ∨ x + n ≤ a) → readByte u.mem a = readByte s.mem a)
    (hP : ∀ t h, t.mem = u.mem → (∀ l, l < 32 → (h.lane l).resv = (g'.lane l).resv) → Lands g h i ls → P t h) :
    Stores s g i (landTouch g i ls) as n P := by
  obtain ⟨q, h1, r1, o1⟩ := complete_spec u s.cur g i (some (lateWindow g i ls)) hg
  obtain ⟨av, sm, -⟩ := advance_retire st i (some (lateWindow g i ls)) q
  refine ⟨_, _, ?_, h1, av, hr.retire r1 o1, ?_, ?_, ?_, hP _ _ r1.mem.1 (fun l hl => sm.resv l hl id) (lands_retire i ls q st)⟩
  · rw [he, issue_conclude hi hl, hb]
    rfl
  · exact (sw.mono _ (resv := fun _ _ => trivial)).trans
      (sm.of_lateWindow { landTouch g i ls with resv := fun _ => True } (fun _ _ h0 hx => ⟨h0, hx⟩) (fun _ _ h0 hx => ⟨h0, hx⟩)
        (fun _ h0 hx => ⟨h0, hx⟩))
  · refine released_of rfl st.windows (fun l r _ hr => ?_)
    rintro ⟨v, hv, x, hx⟩
    unfold now at hv
    dsimp only at hv
    split at hv
    · rw [List.mem_singleton.1 hv] at hx
      exact hd l r x hx hr
    · cases hv
  · intro a ha
    rw [r1.mem.1]
    exact hm a ha

/-! ## Stores lane after lane -/

/-- The stores of lanes, in the order of the list. -/
def State.storeAll (s : State) (c : Nat) (xs : List (Nat × Nat × List Byte)) : State :=
  xs.foldl (fun s x => s.store x.2.1 x.2.2 (some (c, x.1))) s

theorem State.laneStores_eq {s : State} {g : Group} (h : s.isSolstice g.blk = false) (c : Nat) (xs : List (Nat × Nat × List Byte)) :
    s.laneStores c g xs true = s.storeAll c xs := by
  unfold State.laneStores
  rw [h]
  rfl

theorem StoreRest.storeAll {s u : State} (h : StoreRest s u) (c : Nat) (xs : List (Nat × Nat × List Byte)) : StoreRest s (u.storeAll c xs) :=
  foldl_keeps (P := StoreRest s) (fun _ x hb => hb.store x.2.1 x.2.2 _) xs h

/-- A byte that no store of the list covers stays. -/
theorem State.storeAll_outside {c a : Nat} {xs : List (Nat × Nat × List Byte)} (s : State)
    (h : ∀ x ∈ xs, a < x.2.1 ∨ x.2.1 + x.2.2.length ≤ a) : readByte (s.storeAll c xs).mem a = readByte s.mem a := by
  induction xs generalizing s with
  | nil => rfl
  | cons x xs ih =>
    show readByte ((s.store x.2.1 x.2.2 _).storeAll c xs).mem a = _
    rw [ih _ (fun y hy => h y (List.mem_cons_of_mem _ hy)), State.store_mem, readByte_writeBytes_outside _ _ (h x (List.mem_cons_self ..))]

/-- Of lanes in ascending order, what a lane stores stands unless a higher one stores over it (R146). -/
theorem State.storeAll_reads {c : Nat} {xs : List (Nat × Nat × List Byte)} (hs : xs.Pairwise (fun x y => x.1 < y.1)) (s : State)
    {x : Nat × Nat × List Byte} (hx : x ∈ xs)
    (hover : ∀ y ∈ xs, x.1 < y.1 → y.2.1 + y.2.2.length ≤ x.2.1 ∨ x.2.1 + x.2.2.length ≤ y.2.1) :
    readBytes (s.storeAll c xs).mem x.2.1 x.2.2.length = x.2.2 := by
  induction xs generalizing s with
  | nil => cases hx
  | cons z xs ih =>
    obtain ⟨hz, hs⟩ := List.pairwise_cons.1 hs
    show readBytes ((s.store z.2.1 z.2.2 _).storeAll c xs).mem x.2.1 x.2.2.length = x.2.2
    rcases List.mem_cons.1 hx with rfl | hx
    · have hrest : readBytes ((s.store x.2.1 x.2.2 (some (c, x.1))).storeAll c xs).mem x.2.1 x.2.2.length =
          readBytes (s.store x.2.1 x.2.2 (some (c, x.1))).mem x.2.1 x.2.2.length := by
        refine readBytes_congr (fun k h1 h2 => State.storeAll_outside _ (fun y hy => ?_))
        have := hover y (List.mem_cons_of_mem _ hy) (hz y hy)
        omega
      rw [hrest, State.store_mem, readBytes_writeBytes]
    · exact ih hs _ hx (fun y hy => hover y (List.mem_cons_of_mem _ hy))

/-- Stores change nothing of a group but reservations. -/
structure Resv (g h : Group) : Prop where
  steady : Steady g h
  same : Same { resv := fun _ => True } g h
  kept : ∀ l, (g.lane l).resv = none → (h.lane l).resv = none

theorem Resv.refl (g : Group) : Resv g g := ⟨Steady.refl g, Same.refl _ g, fun _ h => h⟩
theorem Resv.trans {g h k : Group} (a : Resv g h) (b : Resv h k) : Resv g k :=
  ⟨a.steady.trans b.steady, a.same.trans b.same, fun l hl => b.kept l (a.kept l hl)⟩

/-- A lane after a write differs in its reservation alone. -/
theorem Group.lane_breakResv (g : Group) (a n l : Nat) (own : Option Nat) : ∃ r, (g.breakResv a n own).lane l = { g.lane l with resv := r } := by
  simp only [Group.lane, Group.breakResv, List.getD, List.getElem?_mapIdx]
  cases g.lanes[l]? with
  | none => exact ⟨none, rfl⟩
  | some x =>
    simp only [Option.map_some, Option.getD_some]
    split
    · exact ⟨x.resv, rfl⟩
    · split <;> exact ⟨_, rfl⟩

theorem Same.of_breakResv (g : Group) (a n : Nat) (own : Option Nat) : Same { resv := fun _ => True } g (g.breakResv a n own) where
  vec l r _ _ := by obtain ⟨_, e⟩ := g.lane_breakResv a n l own; rw [e]; rfl
  pred l p _ _ _ := by obtain ⟨_, e⟩ := g.lane_breakResv a n l own; rw [e]; rfl
  ctr l _ _ := by obtain ⟨_, e⟩ := g.lane_breakResv a n l own; rw [e]
  will l _ _ := by obtain ⟨_, e⟩ := g.lane_breakResv a n l own; rw [e]
  resv _ _ h := absurd trivial h
  lane l _ := by obtain ⟨_, e⟩ := g.lane_breakResv a n l own; rw [e]; exact ⟨rfl, rfl, rfl, rfl⟩
  scal _ _ := rfl
  addr _ _ := rfl
  fpTop := rfl
  flags _ := rfl
  em _ := rfl
  path := ⟨rfl, rfl, rfl, rfl⟩
  mode := ⟨rfl, rfl, rfl, rfl, rfl⟩
  exc := ⟨rfl, rfl, rfl, rfl, rfl, rfl⟩
  ident := ⟨rfl, rfl, rfl, rfl, rfl, rfl⟩

theorem Resv.breakResv (g : Group) (a n : Nat) (own : Option Nat) : Resv g (g.breakResv a n own) :=
  ⟨⟨rfl, rfl, rfl, rfl⟩, Same.of_breakResv g a n own, fun l hl => by rw [Group.resv_breakResv, hl]; rfl⟩

theorem Resv.afterStore (s : State) (a n : Nat) (own : Option (Nat × Nat)) (k : Nat) (g : Group) : Resv g (g.afterStore s a n own k) := by
  unfold Group.afterStore
  split <;> [exact Resv.refl g; exact Resv.breakResv g a n _]

theorem State.group?_storeAll {s : State} {k : Nat} {g : Group} (h : s.group? k = some g) (c : Nat) (xs : List (Nat × Nat × List Byte)) :
    ∃ g', (s.storeAll c xs).group? k = some g' ∧ Resv g g' := by
  refine foldl_keeps (P := fun u : State => ∃ g', u.group? k = some g' ∧ Resv g g') (fun u x hu => ?_) xs ⟨g, h, Resv.refl g⟩
  obtain ⟨g', hg, hr⟩ := hu
  exact ⟨_, by rw [State.group?_store, hg]; rfl, hr.trans (Resv.afterStore u _ _ _ k g')⟩

/-! ## The lanes of an access -/

/-- The lanes of an access come in ascending order (R146). -/
theorem State.access_ascending {s : State} {g : Group} {act : Lanes} {f : FMg} {n : Nat} {need : Need} {xs : List (Nat × W64 × Nat)}
    (h : s.access g act f n need = .ok xs) : xs.Pairwise (fun x y => x.1 < y.1) := by
  unfold State.access State.checkLanes at h
  dsimp only at h
  split at h
  · cases h
  · cases h
    refine List.Pairwise.filterMap _ (R := fun x y => x.1 < y.1) (fun x y hxy a ha b hb => ?_) ?_
    · split at ha <;> split at hb <;> cases ha <;> cases hb
      exact hxy
    · simp only [List.pairwise_map, lanesOf]
      exact (List.pairwise_lt_range).filter _

/-! ## SC -/

theorem regBytes_length (x : Lane) (r n : Nat) : (regBytes x r n).length = 4 * n := by
  induction n with
  | zero => rfl
  | succ n ih =>
    unfold regBytes at ih ⊢
    rw [List.range_succ, List.flatMap_append, List.length_append, ih]
    simp
    omega

/-- An SC writes whole registers (R233, R241). -/
theorem szBytes_of_sc {f : FMg} {pd : BitVec 3} (h : Instr.wf (.sc f pd) = true) : szBytes f.sz = 4 * szRegs f.sz := by
  have hsz : 2 ≤ f.sz.toNat ∧ f.sz.toNat ≤ 4 := by
    simp only [Instr.wf, Bool.and_eq_true, decide_eq_true_eq] at h
    tauto
  unfold szBytes szRegs
  generalize f.sz.toNat = k at hsz
  obtain ⟨h1, h2⟩ := hsz
  interval_cases k <;> rfl

/-- The winners of an SC, as a condition on each lane (R163; log entry 26). -/
theorem scMay_eq (g : Group) (xs : List (Nat × W64 × Nat)) (x : Nat × W64 × Nat) : scMay g xs x =
    (decide ((g.lane x.1).resv = some (granule x.2.2)) &&
      xs.all (fun y => decide (y.1 ≤ x.1) || decide ((g.lane y.1).resv ≠ some (granule x.2.2)))) := by
  unfold scMay
  rw [List.not_any_eq_all_not, beq_eq_decide]
  congr 2
  funext y
  rw [Bool.not_and, beq_eq_decide]
  congr 1
  · rw [← decide_not, decide_eq_decide, Nat.not_lt]
  · simp

/-- A group whose lanes of `m` hold no reservation. -/
def Group.clearResv (g : Group) (m : Lanes) : Group := g.mapLanes m (fun _ x => { x with resv := none })

theorem Group.clearResv_steady (g : Group) (m : Lanes) : Steady g (g.clearResv m) := ⟨rfl, rfl, rfl, rfl⟩

theorem Group.clearResv_same (g : Group) (m : Lanes) : Same { resv := fun _ => True } g (g.clearResv m) :=
  Same.of_lanes _ g m _ (fun _ _ _ _ _ => rfl) (fun _ _ _ _ _ _ => rfl) (fun _ _ _ _ => rfl) (fun _ _ _ _ => rfl)
    (fun _ _ _ h => absurd trivial h) (fun _ _ _ => ⟨rfl, rfl, rfl, rfl⟩)

theorem Group.resv_clearResv (g : Group) {m : Lanes} {l : Nat} (hl : l < 32) (hm : m.getLsbD l = true) : ((g.clearResv m).lane l).resv = none := by
  unfold Group.clearResv
  rw [Group.lane_mapLanes _ _ _ _ hl, if_pos hm]

/-- The stores of an SC: lane, address and bytes of each winner (R241). -/
def scStores (f : FMg) (g : Group) (win : List (Nat × W64 × Nat)) : List (Nat × Nat × List Byte) :=
  win.map (fun x => (x.1, x.2.2, regBytes (g.lane x.1) f.r.toNat (szRegs f.sz)))

theorem mem_scStores {f : FMg} {g : Group} {win : List (Nat × W64 × Nat)} {y : Nat × Nat × List Byte} :
    y ∈ scStores f g win ↔ ∃ x ∈ win, (x.1, x.2.2, regBytes (g.lane x.1) f.r.toNat (szRegs f.sz)) = y := List.mem_map

/-- An SC outside Solstice mode: the winners' stores follow the clearing of every active lane's reservation (R163, R241). -/
theorem bodySc_late {s : State} {g : Group} {f : FMg} {pd : BitVec 3} {act : Lanes} {xs win : List (Nat × W64 × Nat)}
    (hx : s.access g act f (szBytes f.sz) .rmw = .ok xs) (hwin : xs.filter (scMay g xs) = win) (hbusy : s.anyBusy g xs (szBytes f.sz) true = false)
    (hbad : s.badTrap win (szBytes f.sz) true = none) (hsol : s.isSolstice g.blk = false) :
    bodySc f pd s g act = .late ((s.setGroup s.cur (g.clearResv act)).storeAll s.cur (scStores f g win))
      (xs.map (fun x => .pred x.1 pd.toNat (win.any (fun y => y.1 == x.1)))) none := by
  have hsol' : (s.setGroup s.cur (g.clearResv act)).isSolstice g.blk = false := hsol
  unfold bodySc
  dsimp only
  rw [hx]
  dsimp only
  rw [hwin, hbusy, hbad]
  unfold scRes
  dsimp only
  rw [show g.mapLanes act (fun _ x => { x with resv := none }) = g.clearResv act from rfl, hsol', ← State.laneStores_eq hsol']
  rfl

/-- Settles O32: the winners' stores follow the clearing of every active lane's reservation, and the predicates land late. -/
theorem storeConditionalCompletes : Obligations.StoreConditionalCompletes := by
  unfold Obligations.StoreConditionalCompletes
  rintro s g f pd xs win n ls hi rfl hx hsol hbusy hwin hbad rfl
  have hmay : xs.filter (scMay g xs) = win := by rw [hwin]; exact List.filter_congr (fun x _ => scMay_eq g xs x)
  have hlen (x : Nat × W64 × Nat) : (regBytes (g.lane x.1) f.r.toNat (szRegs f.sz)).length = szBytes f.sz := by
    rw [szBytes_of_sc hi.form, regBytes_length]
  have hord : (scStores f g win).Pairwise (fun x y => x.1 < y.1) := by
    rw [scStores, List.pairwise_map, hwin]
    exact (State.access_ascending hx).filter _
  obtain ⟨act, hact⟩ : ∃ act, act = actOf g (.sc f pd) := ⟨_, rfl⟩
  rw [← hact] at hx ⊢
  have hcleared : (s.setGroup s.cur (g.clearResv act)).group? s.cur = some (g.clearResv act) := by rw [State.group?_setGroup, if_pos rfl]
  obtain ⟨g', hg', hresv⟩ := State.group?_storeAll hcleared s.cur (scStores f g win)
  refine stores_late (fun _ => rfl) hi rfl (hact ▸ bodySc_late hx hmay hbusy hbad hsol) ?_ hg' ((StoreRest.setGroup s _).storeAll _ _)
    ((g.clearResv_steady act).trans hresv.steady) ((g.clearResv_same act).trans hresv.same) (fun a ha => ?_)
    (fun t h htm hh hlands => ⟨hlands, fun x hxw hover => ?_, fun l hl hm => ?_⟩)
  · simp
  · refine State.storeAll_outside _ (fun y hy => ?_)
    obtain ⟨x, hx, rfl⟩ := mem_scStores.1 hy
    rw [hlen x]
    exact ha _ (List.mem_map_of_mem hx)
  · have hread := State.storeAll_reads (c := s.cur) hord (s.setGroup s.cur (g.clearResv act)) (mem_scStores.2 ⟨x, hxw, rfl⟩) (fun y hy hlt => ?_)
    · dsimp only at hread
      rwa [hlen x, ← htm] at hread
    · obtain ⟨z, hz, rfl⟩ := mem_scStores.1 hy
      dsimp only
      rw [hlen z, hlen x]
      exact hover z hz hlt
  · rw [hh l hl]
    exact hresv.kept l (g.resv_clearResv hl hm)

end Sys2Proof.Machine
end

section
/-! SUPPORT. The end of a job (R48, R159, R251, R262, R264, R276, R301, R382): what a job tells its group, what its end leaves alone, the
follow-on that it hands over, and a job that fails. -/

namespace Sys2Proof.Machine

theorem Table.mem_of_get? {β : Type} {m : List (Nat × β)} {k : Nat} {v : β} (h : Table.get? m k = some v) : (k, v) ∈ m := by
  induction m with
  | nil => cases h
  | cons x r ih =>
    obtain ⟨a, w⟩ := x
    unfold Table.get? at h
    split at h
    · rename_i hk
      rw [← hk, Option.some.inj h]
      exact List.mem_cons_self ..
    · exact List.mem_cons_of_mem _ (ih h)

/-! ## A living issuer -/

/-- The group that issued a job is in the job's block and has not retired. -/
structure IssuerLives (s : State) (j : Job) (g : Group) : Prop where
  here : s.group? j.gid = some g
  blk : g.blk = j.blk
  live : g.st ≠ .retired

/-- A block with a group that lives does not retire (R48). -/
theorem IssuerLives.retireBlock {s : State} {j : Job} {g : Group} (h : IssuerLives s j g) : s.retireBlock j.blk = s := by
  have hlive : s.liveGroups j.blk ≠ [] := List.ne_nil_of_mem (a := (j.gid, g))
    (List.mem_filter.2 ⟨Table.mem_of_get? h.here, by simp [h.blk, h.live]⟩)
  unfold State.retireBlock
  split
  · rfl
  · exact if_pos (by simp [hlive])

/-- A cause falls due for an issuer that lives (R364). -/
theorem IssuerLives.post {s : State} {j : Job} {g : Group} (h : IssuerLives s j g) (d : Due) :
    s.post j.gid j.blk d = s.updGroup j.gid (fun g => { g with due := g.due ++ [d] }) := by
  unfold State.post
  rw [h.here]
  exact if_pos (by simp [h.blk, h.live])

/-- An issuer whose record changes lives on in its block. -/
theorem IssuerLives.updGroup {s : State} {j : Job} {g : Group} (h : IssuerLives s j g) (f : Group → Group) (hb : (f g).blk = g.blk)
    (hs : (f g).st = g.st) : IssuerLives (s.updGroup j.gid f) j (f g) :=
  ⟨by rw [State.group?_updGroup, if_pos rfl, h.here]; rfl, hb.trans h.blk, hs ▸ h.live⟩

/-- Two states with the same memory, jobs and quads. -/
structure SameWork (s t : State) : Prop where
  mem : t.mem = s.mem
  jobs : t.jobs = s.jobs
  quads : t.quads = s.quads

/-- Group and block of job `id` after it has told its group the cause `d`: it falls due at once, in Solstice mode where the block sees the
job (R382). -/
def Told (s t : State) (id : Nat) (j : Job) (g : Group) (d : Due) : Prop :=
  if s.isSolstice j.blk then t.group? j.gid = some g ∧
    (t.block? j.blk).map (·.later) = (s.block? j.blk).map (fun b => b.later ++ [{ job := id, gid := j.gid, due := some d }])
  else t.group? j.gid = some { g with due := g.due ++ [d] }

/-- What a job tells reaches its issuer, and nothing else changes. -/
theorem IssuerLives.tell {s : State} {j : Job} {g : Group} (h : IssuerLives s j g) (id : Nat) (d : Due) :
    SameWork s (s.tell id j d) ∧ Told s (s.tell id j d) id j g d := by
  unfold State.tell Told
  cases s.isSolstice j.blk with
  | true =>
    rw [if_pos rfl, if_pos rfl]
    refine ⟨⟨rfl, rfl, rfl⟩, h.here, ?_⟩
    rw [State.block?_updBlock, if_pos rfl, Option.map_map]
    rfl
  | false =>
    rw [if_neg Bool.false_ne_true, if_neg Bool.false_ne_true, h.post]
    refine ⟨⟨rfl, rfl, rfl⟩, ?_⟩
    rw [State.group?_updGroup, if_pos rfl, h.here]
    rfl

/-- An issuer that has been told lives on. -/
theorem IssuerLives.told {s t : State} {id : Nat} {j : Job} {g : Group} {d : Due} (h : IssuerLives s j g) (ht : Told s t id j g d) :
    ∃ g', IssuerLives t j g' := by
  unfold Told at ht
  split at ht
  · exact ⟨g, ht.1, h.blk, h.live⟩
  · exact ⟨_, ht, h.blk, h.live⟩

/-! ## Replay entries -/

/-- With no job that waits for an entry, free entries stay free (R369). -/
theorem State.serveQuad_of_none {s : State} (h : ∀ k ∈ s.jobs, k.2.st ≠ .parked none) (q : Nat) : s.serveQuad q = s := by
  have hw : s.waitingEntry q = none := by
    have : s.jobs.filter (fun j => j.2.quad == q && s.jobHere j.2 && j.2.st == .parked none) = [] :=
      List.filter_eq_nil_iff.2 (fun k hk => by simp [h k hk])
    unfold State.waitingEntry
    rw [this]
    rfl
  unfold State.serveQuad State.serveEntries
  split
  · rfl
  · rw [hw]

/-- A job leaves the scheduler, and no entry is given away. -/
theorem State.dropJob_of_none {s : State} (h : ∀ k ∈ s.jobs, k.2.st ≠ .parked none) (id : Nat) (j : Job) :
    s.dropJob id j = ({ s with jobs := Table.del s.jobs id } : State).updQuad j.quad (fun q => q.dropJob id) :=
  State.serveQuad_of_none (fun k hk => h k (List.mem_filter.1 hk).1) _

/-! ## The count of feedback -/

/-- What a feedback job that has started adds to FBC (R276). -/
def Job.feedCount (j : Job) : BitVec 48 := if j.feeds then 1 else 0

/-- FBC of a job's quad counts one more. -/
def State.countFbc (s : State) (j : Job) : State := s.updQuad j.quad (fun q => { q with lathe := { q.lathe with fbc := q.lathe.fbc + 1 } })

theorem State.fbc_countFbc (s : State) (j : Job) : ((s.countFbc j).quad j.quad).lathe.fbc = (s.quad j.quad).lathe.fbc + 1 := by
  unfold State.countFbc
  rw [State.quad_updQuad, if_pos rfl]

/-- The count of a feedback job's end, with FBC's wrap shown at once or, in Solstice mode, where the block sees the job (R276, R382). -/
theorem State.countFeedback_eq (s : State) (id : Nat) (j : Job) : s.countFeedback id j =
    if !j.feeds then s
    else if ((s.countFbc j).quad j.quad).lathe.fbc ≠ 0 then s.countFbc j
    else if s.isSolstice j.blk then
      (s.countFbc j).updBlock j.blk (fun b => { b with later := b.later ++ [{ job := id, gid := j.gid, due := none, wr := true }] })
    else (s.countFbc j).wrapFeedback j.gid j.blk := rfl

/-- A feedback job that ends counts, and without a wrap nothing else changes (R276). -/
theorem State.countFeedback_of_no_wrap {s : State} (id : Nat) {j : Job} (h : j.feeds = true → (s.quad j.quad).lathe.fbc + j.feedCount ≠ 0) :
    (s.countFeedback id j).groups = s.groups ∧ (s.countFeedback id j).blocks = s.blocks := by
  rw [State.countFeedback_eq]
  cases hf : j.feeds with
  | false => exact ⟨rfl, rfl⟩
  | true =>
    have hw : (s.quad j.quad).lathe.fbc + 1 ≠ 0 := by simpa [Job.feedCount, hf] using h hf
    rw [State.fbc_countFbc, if_neg (by decide), if_pos hw]
    exact ⟨rfl, rfl⟩

/-- A wrap of FBC changes its group's flags and causes (R276). -/
theorem IssuerLives.wrapFeedback {s : State} {j : Job} {g : Group} (h : IssuerLives s j g) :
    SameWork s (s.wrapFeedback j.gid j.blk) ∧ ∃ g', IssuerLives (s.wrapFeedback j.gid j.blk) j g' := by
  have hflag := h.updGroup (fun g => { g with fpstat := fpSet g.fpstat flWR }) rfl rfl
  have hsame : SameWork s (s.updGroup j.gid (fun g => { g with fpstat := fpSet g.fpstat flWR })) := ⟨rfl, rfl, rfl⟩
  unfold State.wrapFeedback
  dsimp only
  rw [hflag.post, h.here]
  generalize s.updGroup j.gid (fun g => { g with fpstat := fpSet g.fpstat flWR }) = u at hflag hsame ⊢
  dsimp only
  split
  · exact ⟨⟨hsame.mem, hsame.jobs, hsame.quads⟩, _, hflag.updGroup _ rfl rfl⟩
  · exact ⟨hsame, _, hflag⟩

/-- A job's end counts for FBC, and leaves its issuer alive and the jobs and memory as they are (R276). -/
theorem IssuerLives.countFeedback {s : State} {j : Job} {g : Group} (h : IssuerLives s j g) (id : Nat) :
    (s.countFeedback id j).jobs = s.jobs ∧ (s.countFeedback id j).mem = s.mem ∧
    ((s.countFeedback id j).quad j.quad).lathe.fbc = (s.quad j.quad).lathe.fbc + j.feedCount ∧ ∃ g', IssuerLives (s.countFeedback id j) j g' := by
  rw [State.countFeedback_eq, Job.feedCount]
  cases j.feeds with
  | false =>
    rw [if_pos (by decide), if_neg Bool.false_ne_true]
    exact ⟨rfl, rfl, (BitVec.add_zero _).symm, g, h⟩
  | true =>
    have hu : IssuerLives (s.countFbc j) j g := ⟨h.here, h.blk, h.live⟩
    have hq := s.fbc_countFbc j
    rw [if_neg (by decide), if_pos rfl]
    split
    · exact ⟨rfl, rfl, hq, g, hu⟩
    · split
      · exact ⟨rfl, rfl, hq, g, hu.here, hu.blk, hu.live⟩
      · obtain ⟨e, hg⟩ := hu.wrapFeedback
        refine ⟨e.jobs, e.mem, ?_, hg⟩
        unfold State.quad at hq ⊢
        rw [e.quads]
        exact hq

/-! ## The end -/

/-- The follow-on of a job that has ended: handed over, or discarded (R251; log entry 29). -/
def State.handOver (s : State) (id : Nat) (ok : Bool) : State :=
  match s.followOf id with
  | none => s
  | some f => if ok then s.arriveJob f else { s with jobs := Table.del s.jobs f }

theorem State.endJob_eq {s : State} {id : Nat} {j : Job} (h : s.job? id = some j) (ok : Bool) :
    s.endJob id ok = ((((s.countFeedback id j).dropJob id j).handOver id ok).againEnd j).retireBlock j.blk := by
  unfold State.endJob
  rw [h]
  rfl

theorem State.arriveJob_eq {s : State} {f : Nat} {r : Job} (h : s.job? f = some r) : s.arriveJob f =
    { s.updJob f (fun j => { j with st := .queued, preds := s.edgesTo f r, order := s.ticks }) with ticks := s.ticks + 1 } := by
  unfold State.arriveJob
  rw [h]

/-- Handing over changes the follow-on only. -/
theorem State.handOver_frame (s : State) (id : Nat) (ok : Bool) : (s.handOver id ok).mem = s.mem ∧ (s.handOver id ok).quads = s.quads ∧
    (s.handOver id ok).groups = s.groups ∧ (s.handOver id ok).blocks = s.blocks := by
  unfold State.handOver
  split
  · exact ⟨rfl, rfl, rfl, rfl⟩
  · split
    · unfold State.arriveJob
      split <;> exact ⟨rfl, rfl, rfl, rfl⟩
    · exact ⟨rfl, rfl, rfl, rfl⟩

/-- A job that is not there does not come by the end of another. -/
theorem State.job?_handOver_none {s : State} {k : Nat} (h : s.job? k = none) (id : Nat) (ok : Bool) : (s.handOver id ok).job? k = none := by
  unfold State.handOver
  split
  · exact h
  · split
    · unfold State.arriveJob
      split
      · exact h
      · show (State.updJob ..).job? k = none
        rw [State.job?_updJob, h]
        exact ite_self _
    · show Table.get? (Table.del s.jobs _) k = none
      rw [Table.get?_del, show Table.get? s.jobs k = none from h]
      exact ite_self _

/-- The follow-on of a job that has ended well is queued (R251). -/
theorem State.job?_handOver_follow {s : State} {id f : Nat} {r : Job} (hf : s.followOf id = some f) (hr : s.job? f = some r) :
    ∃ x, (s.handOver id true).job? f = some x ∧ x.st = .queued ∧ x.kind = r.kind := by
  unfold State.handOver
  rw [hf]
  dsimp only
  rw [if_pos rfl, State.arriveJob_eq hr]
  refine ⟨{ r with st := .queued, preds := s.edgesTo f r, order := s.ticks }, ?_, rfl, rfl⟩
  show (State.updJob ..).job? f = _
  rw [State.job?_updJob, if_pos rfl, hr]
  rfl

/-- The further quantum ends that an end owes change blocks alone, and nothing that they see later (R380). -/
theorem State.againEnd_spec (s : State) (j : Job) : SameWork s (s.againEnd j) ∧ (s.againEnd j).groups = s.groups ∧
    ∀ b, ((s.againEnd j).block? b).map (·.later) = (s.block? b).map (·.later) := by
  unfold State.againEnd
  split
  · split
    · exact ⟨⟨rfl, rfl, rfl⟩, rfl, fun _ => rfl⟩
    · split
      · refine ⟨⟨rfl, rfl, rfl⟩, rfl, fun b => ?_⟩
        unfold State.againAll State.block?
        dsimp only
        rw [Table.get?_mapAll, Option.map_map]
        refine congrArg (Option.map · _) (funext fun r => ?_)
        dsimp only [Function.comp]
        split <;> rfl
      · refine ⟨⟨rfl, rfl, rfl⟩, rfl, fun b => ?_⟩
        rw [State.block?_updBlock]
        split
        · rw [Option.map_map]; rfl
        · rfl
  · exact ⟨⟨rfl, rfl, rfl⟩, rfl, fun _ => rfl⟩

/-- What the end of job `id` leaves of the state `c` in which its feedback has been counted. -/
structure JobEnded (c t : State) (id : Nat) (j : Job) (ok : Bool) : Prop where
  gone : t.job? id = none
  mem : t.mem = c.mem
  groups : t.groups = c.groups
  later : ∀ b, (t.block? b).map (·.later) = (c.block? b).map (·.later)
  lathe : (t.quad j.quad).lathe = (c.quad j.quad).lathe
  follow : ok = true → ∀ f r, c.followOf id = some f → f ≠ id → c.job? f = some r → ∃ x, t.job? f = some x ∧ x.st = .queued ∧ x.kind = r.kind

/-- The follow-on of a job is the same once the job has left the table. -/
theorem State.followOf_del {c s : State} {id f : Nat} (hs : s.jobs = Table.del c.jobs id) (h : c.followOf id = some f) (hne : f ≠ id) :
    s.followOf id = some f := by
  obtain ⟨x, hx, rfl⟩ := Option.map_eq_some_iff.1 h
  obtain ⟨hp, as, bs, hsplit, has⟩ := List.find?_eq_some_iff_append.1 hx
  unfold State.followOf
  have hdel : s.jobs = Table.del as id ++ x :: Table.del bs id := by
    unfold Table.del at hs ⊢
    rw [hs, hsplit, List.filter_append, List.filter_cons_of_pos (by simpa using hne)]
  have : s.jobs.find? (fun j => j.2.after == some id) = some x := by
    rw [hdel]
    exact List.find?_eq_some_iff_append.2 ⟨hp, _, _, rfl, fun a ha => has a (List.mem_filter.1 ha).1⟩
  rw [this]
  rfl

theorem State.endJob_ended {s : State} {id : Nat} {j : Job} {g : Group} (hj : s.job? id = some j)
    (hp : ∀ k ∈ s.jobs, k.2.st ≠ .parked none) (hjobs : (s.countFeedback id j).jobs = s.jobs) (hg : IssuerLives (s.countFeedback id j) j g)
    (ok : Bool) : JobEnded (s.countFeedback id j) (s.endJob id ok) id j ok := by
  rw [State.endJob_eq hj]
  generalize s.countFeedback id j = c at hjobs hg ⊢
  have hdrop := State.dropJob_of_none (s := c) (by rwa [hjobs]) id j
  have hdjobs : (c.dropJob id j).jobs = Table.del c.jobs id := by rw [hdrop]; rfl
  have hdgroups : (c.dropJob id j).groups = c.groups := by rw [hdrop]; rfl
  have hdblocks : (c.dropJob id j).blocks = c.blocks := by rw [hdrop]; rfl
  have hdmem : (c.dropJob id j).mem = c.mem := by rw [hdrop]; rfl
  have hdlathe : ((c.dropJob id j).quad j.quad).lathe = (c.quad j.quad).lathe := by rw [hdrop, State.quad_updQuad, if_pos rfl]; rfl
  generalize c.dropJob id j = d at *
  obtain ⟨hmem, hquads, hgroups, hblocks⟩ := d.handOver_frame id ok
  obtain ⟨hagain, hagroups, halater⟩ := (d.handOver id ok).againEnd_spec j
  have hlive : IssuerLives ((d.handOver id ok).againEnd j) j g := by
    refine ⟨?_, hg.blk, hg.live⟩
    rw [State.group?, hagroups, hgroups, hdgroups]
    exact hg.here
  have hdjob (k : Nat) : d.job? k = Table.get? (Table.del c.jobs id) k := by rw [State.job?, hdjobs]
  have hajob (k : Nat) : ((d.handOver id ok).againEnd j).job? k = (d.handOver id ok).job? k := by rw [State.job?, hagain.jobs]; rfl
  rw [hlive.retireBlock]
  refine ⟨?_, (hagain.mem.trans hmem).trans hdmem, (hagroups.trans hgroups).trans hdgroups, fun b => (halater b).trans ?_, ?_,
    fun hok f r hf hne hr => ?_⟩
  · rw [hajob]
    exact State.job?_handOver_none ((hdjob id).trans (Table.get?_del_same c.jobs id)) id ok
  · rw [State.block?, hblocks, hdblocks]
    rfl
  · rw [State.quad, hagain.quads, hquads]
    exact hdlathe
  · subst hok
    rw [hajob]
    exact State.job?_handOver_follow (State.followOf_del hdjobs hf hne) ((hdjob f).trans ((Table.get?_del_ne c.jobs hne).trans hr))

/-! ## A job fails -/

/-- Two states that agree in all that the end of a job looks at: they may differ in cached translations. -/
structure SameJobs (s v : State) : Prop extends SameWork s v where
  groups : v.groups = s.groups
  blocks : v.blocks = s.blocks

theorem SameJobs.refl (s : State) : SameJobs s s := ⟨⟨rfl, rfl, rfl⟩, rfl, rfl⟩
theorem SameJobs.trans {s u v : State} (a : SameJobs s u) (b : SameJobs u v) : SameJobs s v :=
  ⟨⟨b.mem.trans a.mem, b.jobs.trans a.jobs, b.quads.trans a.quads⟩, b.groups.trans a.groups, b.blocks.trans a.blocks⟩
theorem SameJobs.cache (s : State) (p : Nat) (va : W64) : SameJobs s (s.cache p va) := by
  obtain ⟨ps, h, -⟩ := State.cache_spec s p va
  rw [h]
  exact ⟨⟨rfl, rfl, rfl⟩, rfl, rfl⟩

section
variable {s v : State} (h : SameJobs s v)
include h

theorem SameJobs.job? (k : Nat) : v.job? k = s.job? k := by unfold State.job?; rw [h.jobs]
theorem SameJobs.group? (k : Nat) : v.group? k = s.group? k := by unfold State.group?; rw [h.groups]
theorem SameJobs.block? (k : Nat) : v.block? k = s.block? k := by unfold State.block?; rw [h.blocks]
theorem SameJobs.quad (k : Nat) : v.quad k = s.quad k := by unfold State.quad; rw [h.quads]
theorem SameJobs.isSolstice (k : Nat) : v.isSolstice k = s.isSolstice k := by unfold State.isSolstice; rw [h.blocks]

end

/-- An event whose effect is that job `id` fails. -/
theorem jobFails_of {s v : State} {i : Instr} {id code info : Nat} {j : Job} {d : Due} (hj : s.job? id = some j) (hv : SameJobs s v)
    (he : exec i s = .next (v.failJob id code info))
    (hd : d = { kind := if code = 0x280 then .mce else .job, code := code, eaddr := j.pc, einfo := BitVec.ofNat 64 info }) :
    JobFails s i id j d := by
  rintro g n hg hblk hlive hp rfl hwrap
  have hlives : IssuerLives v j g := ⟨(hv.group? _).trans hg, hblk, hlive⟩
  obtain ⟨hsame, htold⟩ := hlives.tell id d
  have hfail : v.failJob id code info = (v.tell id j d).endJob id false := by
    unfold State.failJob
    rw [hv.job?, hj, hd]
  generalize v.tell id j d = u at hsame htold hfail
  have huquad (k : Nat) : u.quad k = s.quad k := by rw [State.quad, hsame.quads]; exact hv.quad k
  obtain ⟨hgroups, hblocks⟩ := State.countFeedback_of_no_wrap (s := u) id (j := j) (by rw [huquad]; exact hwrap)
  obtain ⟨_, hulive⟩ := hlives.told htold
  obtain ⟨hcjobs, hcmem, hcfbc, _, hclive⟩ := hulive.countFeedback id
  have hend := State.endJob_ended (by rw [State.job?, hsame.jobs]; exact (hv.job? id).trans hj) (by rwa [hsame.jobs, hv.jobs]) hcjobs hclive false
  refine ⟨_, he, ?_⟩
  rw [hfail]
  refine ⟨hend.gone, ?_, ?_, ?_⟩
  · rw [hend.mem, hcmem, hsame.mem, hv.mem]
  · unfold Told at htold
    rw [hv.isSolstice, hv.block?] at htold
    rw [State.group?, hend.groups, hgroups, hend.later, State.block?, hblocks]
    exact htold
  · rw [hend.lathe, hcfbc, huquad]
    rfl

end Sys2Proof.Machine
end

section
/-! SUPPORT. Jobs at work (R159, R249, R252, R262, R301, R347, R348, R356, R369): a job that starts, the landing of a unit, a copy out of a
tile, a fault that parks a job, a job that completes. -/

namespace Sys2Proof.Machine

/-! ## Dispatch -/

section
variable {s : State} {id : Nat} {j : Job} (hj : s.job? id = some j) (hrun : s.jobsRun j = true)
include hj hrun

/-- A ready card that no older one of its engine precedes starts; another waits (R347). -/
theorem exec_jobDispatch : exec (.jobDispatch id) s = .next (if s.ready j && s.oldestReady j then s.startJob id j else s) := by
  show execJobDispatch id s = _
  unfold execJobDispatch
  rw [hj]
  dsimp only
  rw [hrun, Bool.true_and]

theorem exec_jobDispatch_ready (hr : s.ready j = true) (ho : s.oldestReady j = true) : exec (.jobDispatch id) s = .next (s.startJob id j) := by
  rw [exec_jobDispatch hj hrun, hr, ho]
  rfl

end

theorem State.startJob_of_reason {s : State} {j : Job} {r : Nat} (h : s.startReason j = some r) (id : Nat) :
    s.startJob id j = s.failJob id 0x1C1 (r + if j.after.isSome then 256 else 0) := by
  unfold State.startJob
  rw [h]

theorem State.startJob_of_error {s : State} {j : Job} {r : Nat} (h : s.startReason j = none) (hc : s.ckStart j = .error r) (id : Nat) :
    s.startJob id j = s.failJob id 0x059 r := by
  unfold State.startJob
  rw [h]
  dsimp only
  rw [hc]

/-- A job as it starts: running, with the units of its work (R348). -/
def Job.started (u : State) (r : Job) : Job := { r with st := .running, total := r.kind.units (u.rollCount r) }

theorem State.startJob_of_ok {s u : State} {j : Job} (h : s.startReason j = none) (hc : s.ckStart j = .ok u) (id : Nat) :
    s.startJob id j = if j.kind.mma? then (u.updJob id (Job.started u)).updQuad j.quad (fun q => { q with table := q.table ++ [id] })
      else u.updJob id (Job.started u) := by
  unfold State.startJob
  rw [h]
  dsimp only
  rw [hc]
  rfl

/-- Only the checkpoint unit acts when a job starts (R301). -/
theorem State.ckStart_of_engine (s : State) {j : Job} (h : j.kind.engine ≠ 4) : s.ckStart j = .ok s := by
  unfold State.ckStart
  split
  case h_5 => rfl
  all_goals rename_i hk; rw [hk] at h; exact absurd rfl h

/-- A job that starts on another engine runs, an MMA with a place in the reservation table, and nothing else changes (R347, R348). -/
theorem State.startJob_spec {s : State} {id : Nat} {j : Job} (hj : s.job? id = some j) (h : s.startReason j = none) (he : j.kind.engine ≠ 4) :
    (s.startJob id j).job? id = some (j.started s) ∧ (s.startJob id j).mem = s.mem ∧ (s.startJob id j).groups = s.groups ∧
    (s.startJob id j).blocks = s.blocks ∧ (j.kind.mma? = true → id ∈ ((s.startJob id j).quad j.quad).table) ∧
    (j.kind.mma? = false → (s.startJob id j).quads = s.quads) := by
  rw [State.startJob_of_ok h (s.ckStart_of_engine he)]
  have hjob : (s.updJob id (Job.started s)).job? id = some (j.started s) := by
    rw [State.job?_updJob, if_pos rfl, hj]
    rfl
  cases hm : j.kind.mma? with
  | false =>
    rw [if_neg Bool.false_ne_true]
    exact ⟨hjob, rfl, rfl, rfl, (fun h => nomatch h), fun _ => rfl⟩
  | true =>
    rw [if_pos rfl]
    refine ⟨hjob, rfl, rfl, rfl, fun _ => ?_, (fun h => nomatch h)⟩
    rw [State.quad_updQuad, if_pos rfl]
    simp

/-! ## Credits and caches -/

/-- A credit changes copy barriers of blocks alone (R159, R253). -/
theorem State.creditJob_frame (s : State) (j : Job) (n : Nat) : SameWork s (s.creditJob j n) ∧ (s.creditJob j n).groups = s.groups ∧
    ∀ b h, (s.creditJob j n).tile? b h = s.tile? b h := by
  unfold State.creditJob
  split
  · exact ⟨⟨rfl, rfl, rfl⟩, rfl, fun _ _ => rfl⟩
  · refine ⟨⟨rfl, rfl, rfl⟩, rfl, fun b h => ?_⟩
    unfold State.tile?
    rw [State.block?_updBlock]
    split
    · rw [Option.bind_map]; rfl
    · rfl

theorem SameJobs.cacheUnit (s : State) (j : Job) : SameJobs s (s.cacheUnit j) := by
  unfold State.cacheUnit
  split
  · exact SameJobs.cache s _ _
  · exact SameJobs.refl s

theorem State.badCw_cacheUnit (s : State) (j : Job) : (s.cacheUnit j).badCw = s.badCw := by
  unfold State.cacheUnit
  split
  · obtain ⟨ps, h, -⟩ := State.cache_spec s j.part (BitVec.ofNat 64 ‹Nat›)
    rw [h]
  · rfl

/-! ## The landing of a unit -/

/-- A job has a unit to land (R159): it runs, and it is no MMA, which lands by passes. -/
structure HasUnit (s : State) (id : Nat) (j : Job) : Prop where
  here : s.job? id = some j
  run : s.jobsRun j = true
  st : j.st = .running
  mma : j.kind.mma? = false
  off : j.off < j.total

section
variable {s : State} {id : Nat} {j : Job} (h : HasUnit s id j)
include h

theorem HasUnit.waits : (j.st != .running || j.kind.mma? || decide (j.total ≤ j.off)) = false := by
  rw [h.st, h.mma, decide_eq_false (Nat.not_le.2 h.off)]
  rfl

/-- What the landing of a job's next unit comes to. -/
theorem HasUnit.exec_lands : exec (.jobDataLands id 1) s = .next (match landUnit (s.cacheUnit j) id j with
    | .ok u k => (u.creditJob j k).updJob id (fun r => { r with off := r.off + 1 })
    | .fault va perm => (s.cacheUnit j).parkJob id j va perm
    | .bad k => (s.cacheUnit j).failJob id 0x280 k
    | .reason r => (s.cacheUnit j).failJob id 0x1C1 (r + if j.after.isSome then 256 else 0)) := by
  show execJobDataLands id 1 s = _
  unfold execJobDataLands State.landJob
  rw [h.here]
  dsimp only
  rw [h.run, if_pos rfl, h.waits, if_neg Bool.false_ne_true]
  cases landUnit (s.cacheUnit j) id j <;> rfl

/-- What a fault at a job's next unit comes to (R252). -/
theorem HasUnit.exec_faults {va : Nat} {perm : Bool} (hf : landUnit s id j = .fault va perm) :
    exec (.jobTranslationFault id) s = .next ((s.cacheUnit j).parkJob id j va perm) := by
  show execJobTranslationFault id s = _
  unfold execJobTranslationFault
  rw [h.here]
  dsimp only
  have hpark : (s.jobsRun j && j.st == .parked none) = false := by rw [h.st, h.run]; rfl
  have hwait : (!s.jobsRun j || j.st != .running || j.kind.mma? || decide (j.total ≤ j.off)) = false := by
    rw [h.run, Bool.not_true, Bool.false_or]
    exact h.waits
  rw [hpark, hwait, if_neg Bool.false_ne_true, if_neg Bool.false_ne_true, hf]

end

/-! ## A copy out of a tile -/

/-- A job's write where no codeword of memory is in error, outside Solstice mode (R159, R249). -/
theorem State.jobPut_eq {v : State} {j : Job} {va a : Nat} (ha : v.jobAddr j va .store = .ok a) (hbad : v.badCw = [])
    (hsol : v.isSolstice j.blk = false) (bs : List Byte) (lo hi k : Nat) : v.jobPut j va bs lo hi k = .ok (v.store a bs none) k := by
  obtain ⟨u, hu⟩ : ∃ u : State, u = { v with badCw := [] } := ⟨_, rfl⟩
  have huv : u = v := by rw [hu, ← hbad]
  unfold State.jobPut
  rw [ha]
  dsimp only
  rw [hbad, List.any_nil, if_neg Bool.false_ne_true, List.filter_nil, ← hu, huv]
  unfold State.jobStore
  rw [hsol]
  rfl

theorem State.tile?_cacheUnit (s : State) (j : Job) (b h : Nat) : (s.cacheUnit j).tile? b h = s.tile? b h := by
  unfold State.tile?
  rw [(SameJobs.cacheUnit s j).block?]

theorem State.jobs_store (s : State) (a : Nat) (bs : List Byte) (own : Option (Nat × Nat)) : (s.store a bs own).jobs = s.jobs := by
  obtain ⟨ps, bad, h, -, -⟩ := State.store_spec s a bs own
  rw [h]
  rfl

/-- A unit of a copy out of a tile stores its 8 bytes (R249). -/
theorem landCpy_t2g {v : State} {j : Job} {tl : Tile} {h hs row0 srow0 addr pitch rb i a : Nat} (ht : v.tile? j.blk h = some tl)
    (hgood : tl.isBad ((row0 + 8 * i / rb) * rb + 8 * i % rb) 8 = false) (hbad : v.badCw = []) (hsol : v.isSolstice j.blk = false)
    (ha : v.jobAddr j (addr + 8 * i / rb * pitch + 8 * i % rb) .store = .ok a) :
    landCpy v j .t2g h hs row0 srow0 addr pitch rb i =
      .ok (v.store a (tl.bytes ((row0 + 8 * i / rb) * rb + 8 * i % rb) 8) none) 8 := by
  have hjt : v.jobTile j h = tl := by unfold State.jobTile; rw [ht]; rfl
  unfold landCpy cpyPlace
  dsimp only
  unfold State.tileGet
  dsimp only
  rw [hjt, hgood, if_neg Bool.false_ne_true, State.jobPut_eq ha hbad hsol]

/-- The next unit of a copy out of a tile lands in memory and nowhere else (R249). -/
theorem HasUnit.copies_out {s : State} {id : Nat} {j : Job} (hu : HasUnit s id j) {h hs row0 rows srow0 addr pitch rb a : Nat} {tl : Tile}
    (hk : j.kind = .cpy .t2g h hs row0 rows srow0 addr pitch rb) (hsol : s.isSolstice j.blk = false) (ht : s.tile? j.blk h = some tl)
    (hgood : tl.isBad ((row0 + 8 * j.off / rb) * rb + 8 * j.off % rb) 8 = false) (hbad : s.badCw = [])
    (ha : (s.cacheUnit j).jobAddr j (addr + 8 * j.off / rb * pitch + 8 * j.off % rb) .store = .ok a) :
    ∃ t r, exec (.jobDataLands id 1) s = .next t ∧ t.job? id = some r ∧ r.off = j.off + 1 ∧
      readBytes t.mem a 8 = tl.bytes ((row0 + 8 * j.off / rb) * rb + 8 * j.off % rb) 8 ∧
      ∀ k, k < a ∨ a + 8 ≤ k → readByte t.mem k = readByte s.mem k := by
  have hcache := SameJobs.cacheUnit s j
  have hland : landUnit (s.cacheUnit j) id j =
      .ok ((s.cacheUnit j).store a (tl.bytes ((row0 + 8 * j.off / rb) * rb + 8 * j.off % rb) 8) none) 8 := by
    unfold landUnit
    rw [hk]
    exact landCpy_t2g ((State.tile?_cacheUnit ..).trans ht) hgood ((State.badCw_cacheUnit s j).trans hbad) ((hcache.isSolstice _).trans hsol) ha
  obtain ⟨bs, hbs⟩ : ∃ bs, bs = tl.bytes ((row0 + 8 * j.off / rb) * rb + 8 * j.off % rb) 8 := ⟨_, rfl⟩
  have hlen : bs.length = 8 := by rw [hbs]; exact readBytes_length ..
  rw [← hbs] at hland ⊢
  obtain ⟨hframe, -, -⟩ := ((s.cacheUnit j).store a bs none).creditJob_frame j 8
  have hmem : (((s.cacheUnit j).store a bs none).creditJob j 8).mem = writeBytes s.mem a bs := by
    rw [hframe.mem, State.store_mem, hcache.mem]
  refine ⟨_, { j with off := j.off + 1 }, by rw [hu.exec_lands, hland], ?_, rfl, ?_, fun k hk => ?_⟩
  · rw [State.job?_updJob, if_pos rfl, State.job?, hframe.jobs, State.jobs_store, hcache.jobs]
    exact congrArg _ hu.here
  · rw [State.updJob_mem, hmem, ← hlen, readBytes_writeBytes]
  · rw [State.updJob_mem, hmem, readByte_writeBytes_outside _ _ (by rwa [hlen])]

/-! ## A fault -/

theorem mem_freeEntries {q : Quad} {e : Nat} (h : e ∈ q.freeEntries) : e < 64 := List.mem_range.1 (List.mem_filter.1 h).1

/-- Where a replay entry is free one is picked (R369). -/
theorem State.pickEntry_spec {s : State} {q : Nat} (h : (s.quad q).freeEntries ≠ []) : ∃ n e, s.pickEntry q = ({ s with free := n }, some e) ∧
    e ∈ (s.quad q).freeEntries := by
  have hlen : 0 < (s.quad q).freeEntries.length := List.length_pos_iff.2 h
  unfold State.pickEntry
  dsimp only
  rw [if_neg (by simpa using h)]
  refine ⟨s.free + 1, _, congrArg _ (List.getElem?_eq_getElem (Nat.mod_lt _ hlen)), List.getElem_mem _⟩

/-- What a job that parks with entry `e` tells its group (R252). -/
def faultDue (id e : Nat) (j : Job) (va : Nat) (perm : Bool) : Due :=
  { kind := .job, code := 0x050, eaddr := BitVec.ofNat 64 va, einfo := engineInfo j e perm, job := some id }

/-- A job with a free entry parks, and its group hears of the fault (R252, R369). -/
theorem State.parkJob_spec {s : State} {id : Nat} {j : Job} {g : Group} (hj : s.job? id = some j) (hg : IssuerLives s j g)
    (he : (s.quad j.quad).freeEntries ≠ []) (va : Nat) (perm : Bool) : ∃ e, e < 64 ∧
    (s.parkJob id j va perm).job? id = some { j with st := .parked (some e), fault := some (va, perm) } ∧
    (s.parkJob id j va perm).mem = s.mem ∧ Told s (s.parkJob id j va perm) id j g (faultDue id e j va perm) := by
  obtain ⟨n, e, hpick, hmem⟩ := State.pickEntry_spec (s := s.updJob id (fun r => { r with st := .parked none, fault := some (va, perm) })) he
  obtain ⟨u, hu⟩ : ∃ u : State, u = (State.takeEntry
    { s.updJob id (fun r => { r with st := .parked none, fault := some (va, perm) }) with free := n } j.quad e id).updJob id
      (fun r => { r with st := .parked (some e) }) := ⟨_, rfl⟩
  have hpark : s.parkJob id j va perm = u.tell id j (faultDue id e j va perm) := by
    unfold State.parkJob
    dsimp only
    rw [hpick, hu]
    rfl
  have hjob : u.job? id = some { j with st := .parked (some e), fault := some (va, perm) } := by
    rw [hu, State.job?_updJob, if_pos rfl]
    show Option.map _ (Table.get? (Table.upd s.jobs id _) id) = _
    rw [Table.get?_upd, if_pos rfl, show Table.get? s.jobs id = some j from hj]
    rfl
  have humem : u.mem = s.mem := by rw [hu]; rfl
  have hgroup (k : Nat) : u.group? k = s.group? k := by rw [hu]; rfl
  have hblock (k : Nat) : u.block? k = s.block? k := by rw [hu]; rfl
  have hsol : u.isSolstice j.blk = s.isSolstice j.blk := by rw [hu]; rfl
  obtain ⟨hsame, htold⟩ := IssuerLives.tell (s := u) ⟨(hgroup _).trans hg.here, hg.blk, hg.live⟩ id (faultDue id e j va perm)
  unfold Told at htold ⊢
  rw [hsol, hblock] at htold
  rw [hpark]
  exact ⟨e, mem_freeEntries hmem, by rw [State.job?, hsame.jobs]; exact hjob, hsame.mem.trans humem, htold⟩

/-! ## Completion -/

theorem SameJobs.rollDone (s : State) (j : Job) : SameJobs s (s.rollDone j) := by
  unfold State.rollDone
  split
  · split <;> exact ⟨⟨rfl, rfl, rfl⟩, rfl, rfl⟩
  · exact SameJobs.refl s

/-- A finished job leaves the table, counts for FBC, and hands its follow-on over (R159, R251, R276). -/
theorem State.completeJob_spec {s : State} {id : Nat} {j : Job} {g : Group} (hj : s.job? id = some j) (hg : IssuerLives s j g)
    (hp : ∀ k ∈ s.jobs, k.2.st ≠ .parked none) : (s.completeJob id j).job? id = none ∧ (s.completeJob id j).mem = s.mem ∧
    ((s.completeJob id j).quad j.quad).lathe.fbc = (s.quad j.quad).lathe.fbc + j.feedCount ∧
    ∀ f r, s.followOf id = some f → f ≠ id → s.job? f = some r → ∃ x, (s.completeJob id j).job? f = some x ∧ x.st = .queued ∧ x.kind = r.kind := by
  have hroll := SameJobs.rollDone s j
  obtain ⟨hcredit, hgroups, -⟩ := (s.rollDone j).creditJob_frame j j.kind.endCredit
  unfold State.completeJob
  generalize (s.rollDone j).creditJob j j.kind.endCredit = u at hcredit hgroups ⊢
  have hjobs : u.jobs = s.jobs := hcredit.jobs.trans hroll.jobs
  have hlive : IssuerLives u j g := ⟨by rw [State.group?, hgroups, hroll.groups]; exact hg.here, hg.blk, hg.live⟩
  obtain ⟨hcjobs, hcmem, hcfbc, _, hclive⟩ := hlive.countFeedback id
  have hend := State.endJob_ended (by rw [State.job?, hjobs]; exact hj) (by rwa [hjobs]) hcjobs hclive true
  have hcj : (u.countFeedback id j).jobs = s.jobs := hcjobs.trans hjobs
  refine ⟨hend.gone, ?_, ?_, fun f r hf hne hr => hend.follow rfl f r ?_ hne ?_⟩
  · rw [hend.mem, hcmem, hcredit.mem, hroll.mem]
  · rw [hend.lathe, hcfbc, State.quad, hcredit.quads]
    exact congrArg (fun q : Quad => q.lathe.fbc + j.feedCount) (hroll.quad j.quad)
  · unfold State.followOf at hf ⊢
    rwa [hcj]
  · rw [State.job?, hcj]
    exact hr

end Sys2Proof.Machine
end

section
/-! SUPPORT. A pass of an MMA (R253, R270, R271, R348): the bytes that each C row gets, row after row, and what the pass leaves alone. -/

namespace Sys2Proof.Machine

/-! ## Bytes of a tile -/

theorem length_flatMap_words (f : Nat → List Byte) (hf : ∀ k, (f k).length = 4) (m : Nat) : ((List.range m).flatMap f).length = 4 * m := by
  induction m with
  | zero => rfl
  | succ m ih =>
    rw [List.range_succ, List.flatMap_append, List.length_append, ih, List.flatMap_singleton, hf]
    rfl

/-- A word of a row of words. -/
theorem flatMap_words_get (f : Nat → List Byte) (hf : ∀ k, (f k).length = 4) {m k : Nat} (hk : k < m) :
    (((List.range m).flatMap f).drop (4 * k)).take 4 = f k := by
  induction m with
  | zero => exact absurd hk (Nat.not_lt_zero k)
  | succ m ih =>
    have hlen := length_flatMap_words f hf m
    rw [List.range_succ, List.flatMap_append, List.flatMap_singleton]
    rcases Nat.lt_succ_iff_lt_or_eq.1 hk with hlt | rfl
    · rw [List.drop_append_of_le_length (by omega), List.take_append_of_le_length (by rw [List.length_drop]; omega), ih hlt]
    · rw [← hlen, List.drop_left, ← hf k, List.take_length]

theorem Tile.byte_write_outside (t : Tile) {a k : Nat} {bs : List Byte} (h : k < a ∨ a + bs.length ≤ k) : (t.write a bs).byte k = t.byte k :=
  readByte_writeBytes_outside t.data bs h

theorem Tile.bytes_write_disjoint (t : Tile) {a b n : Nat} {bs : List Byte} (h : b + n ≤ a ∨ a + bs.length ≤ b) :
    (t.write a bs).bytes b n = t.bytes b n := readBytes_writeBytes_disjoint t.data bs h

theorem Tile.bytes_congr {t u : Tile} {a n : Nat} (h : ∀ k, a ≤ k → k < a + n → t.byte k = u.byte k) : t.bytes a n = u.bytes a n :=
  readBytes_congr h

/-- A part of what was written. -/
theorem Tile.bytes_write (t : Tile) {a o n : Nat} {bs : List Byte} (h : o + n ≤ bs.length) :
    (t.write a bs).bytes (a + o) n = (bs.drop o).take n := by
  have hall := readBytes_writeBytes t.data a bs
  have hpart : ((readBytes (writeBytes t.data a bs) a bs.length).drop o).take n = readBytes (writeBytes t.data a bs) (a + o) n := by
    rw [readBytes_drop, readBytes_take, Nat.min_eq_left (by omega)]
  rw [hall] at hpart
  exact hpart.symm

/-! ## The rows of a pass -/

/-- What a row of an MMA depends on: the tiles of A and C, the formats, the window. -/
structure MmaCard where
  ha : Nat
  hc : Nat
  kind : Nat
  fmt : Nat
  kp : Nat
  bop : Bool
  sca : Bool
  acc : Bool
  arow0 : Nat
  wn : Nat
  wj : Nat
  crow0 : Nat

namespace MmaCard
variable (c : MmaCard)

/-- Offset of C row `i` in a tile. -/
def place (tc : Tile) (i : Nat) : Nat := (c.crow0 + i) * tc.rowBytes

/-- Element `k` of the window in C row `i` (R270). -/
def word (p : Panel) (ta tc : Tile) (i k : Nat) : Nat :=
  mmaElement p c.kind c.fmt c.kp c.sca c.bop (ta.row (c.arow0 + i)) (64 * c.wj + k)
    (if c.acc then natOfBytes (tc.bytes (c.place tc i + 4 * k) 4) else 0)

/-- The bytes of the window in C row `i`. -/
def rowBytes (p : Panel) (ta tc : Tile) (i : Nat) : List Byte :=
  (List.range (64 * (c.wn + 1))).flatMap (fun k => bytesOfNat 4 (c.word p ta tc i k))

theorem length_rowBytes (p : Panel) (ta tc : Tile) (i : Nat) : (c.rowBytes p ta tc i).length = 256 * (c.wn + 1) := by
  rw [rowBytes, length_flatMap_words _ (fun _ => bytesOfNat_length ..)]
  omega

/-- One C row (R270), by its card. -/
def run (s : State) (j : Job) (i : Nat) : State :=
  s.mmaRow j c.ha c.hc c.kind c.fmt c.kp c.bop c.sca c.acc c.arow0 c.wn c.wj c.crow0 i

theorem run_eq (s : State) (j : Job) (i : Nat) : c.run s j i = s.tilePut j c.hc (c.place (s.jobTile j c.hc) i)
    (c.rowBytes (s.quad j.quad).lathe.active (s.jobTile j c.ha) (s.jobTile j c.hc) i) := rfl

/-- C tile `v` is `tc` with the rows `i0` to `i0 + n - 1` of the window written, from A tile `ta` where it is another tile. -/
structure Written (p : Panel) (ta tc v : Tile) (i0 n : Nat) : Prop where
  shape : v.rows = tc.rows ∧ v.rowBytes = tc.rowBytes ∧ v.tag = tc.tag
  words : c.ha ≠ c.hc → ∀ i k, i < n → k < 64 * (c.wn + 1) →
    v.bytes (c.place tc (i0 + i) + 4 * k) 4 = bytesOfNat 4 (c.word p ta tc (i0 + i) k)
  rest : ∀ k, (∀ i, i < n → k < c.place tc (i0 + i) ∨ c.place tc (i0 + i) + 256 * (c.wn + 1) ≤ k) → v.byte k = tc.byte k

variable {c}

/-- The windows of two rows do not meet. -/
theorem place_lt {tc : Tile} (hw : 256 * (c.wn + 1) ≤ tc.rowBytes) {i m : Nat} (h : i < m) :
    c.place tc i + 256 * (c.wn + 1) ≤ c.place tc m := calc
  _ ≤ (c.crow0 + i) * tc.rowBytes + tc.rowBytes := Nat.add_le_add_left hw _
  _ = (c.crow0 + i + 1) * tc.rowBytes := (Nat.succ_mul _ _).symm
  _ ≤ _ := Nat.mul_le_mul_right _ (by omega)

/-- The next row reads of C what no earlier row has written, and writes its own window. -/
theorem Written.next {p : Panel} {ta ta' tc v : Tile} {i0 n : Nat} (h : c.Written p ta tc v i0 n) (hw : 256 * (c.wn + 1) ≤ tc.rowBytes)
    (hta : c.ha ≠ c.hc → ta' = ta) :
    c.Written p ta tc (v.write (c.place v (i0 + n)) (c.rowBytes p ta' v (i0 + n))) i0 (n + 1) := by
  obtain ⟨hrows, hrb, htag⟩ := h.shape
  have hplace (i : Nat) : c.place v i = c.place tc i := by unfold place; rw [hrb]
  have hlen := c.length_rowBytes p ta' v (i0 + n)
  have hold (k : Nat) (hk : k < 64 * (c.wn + 1)) : v.bytes (c.place tc (i0 + n) + 4 * k) 4 = tc.bytes (c.place tc (i0 + n) + 4 * k) 4 := by
    refine Tile.bytes_congr (fun x hx _ => h.rest x (fun i hi => .inr ?_))
    exact (place_lt hw (Nat.add_lt_add_left hi i0)).trans ((Nat.le_add_right _ _).trans hx)
  rw [hplace]
  refine ⟨⟨hrows, hrb, htag⟩, fun hne i k hi hk => ?_, fun k hk => ?_⟩
  · rcases Nat.lt_succ_iff_lt_or_eq.1 hi with hlt | rfl
    · rw [Tile.bytes_write_disjoint _ (.inl ?_)]
      · exact h.words hne i k hlt hk
      · have := place_lt hw (show i0 + i < i0 + n by omega)
        omega
    · rw [Tile.bytes_write _ (by omega), rowBytes, flatMap_words_get _ (fun _ => bytesOfNat_length ..) hk]
      unfold word
      rw [hta hne, hplace, hold k hk]
  · rw [Tile.byte_write_outside _ (by rw [hlen]; exact hk n (Nat.lt_succ_self n))]
    exact h.rest k (fun i hi => hk i (Nat.lt_succ_of_lt hi))

/-- The state after `n` rows from row `i0` on: the C tile has them, and nothing else of tiles, copy barriers, groups and jobs has changed. -/
structure Passed (c : MmaCard) (s u : State) (j : Job) (tc : Tile) (i0 n : Nat) : Prop where
  work : SameWork s u
  groups : u.groups = s.groups
  cbs : (u.block? j.blk).map (·.cbs) = (s.block? j.blk).map (·.cbs)
  other : ∀ h, h ≠ c.hc → u.tile? j.blk h = s.tile? j.blk h
  tile : ∃ v, u.tile? j.blk c.hc = some v ∧ c.Written (s.quad j.quad).lathe.active (s.jobTile j c.ha) tc v i0 n

end MmaCard

theorem State.tile?_tilePut (s : State) (j : Job) (h off k : Nat) (bs : List Byte) :
    (s.tilePut j h off bs).tile? j.blk k = if k = h then (s.tile? j.blk k).map (·.write off bs) else s.tile? j.blk k := by
  unfold State.tilePut State.tile?
  rw [State.block?_updBlock, if_pos rfl]
  cases s.block? j.blk with
  | none => exact (ite_self _).symm
  | some b => exact Table.get?_upd ..

theorem State.jobTile_of_some {s : State} {j : Job} {h : Nat} {t : Tile} (ht : s.tile? j.blk h = some t) : s.jobTile j h = t := by
  unfold State.jobTile
  rw [ht]
  rfl

open MmaCard in
theorem MmaCard.Passed.next {c : MmaCard} {s u : State} {j : Job} {tc : Tile} {i0 n : Nat} (h : c.Passed s u j tc i0 n)
    (hw : 256 * (c.wn + 1) ≤ tc.rowBytes) : c.Passed s (c.run u j (i0 + n)) j tc i0 (n + 1) := by
  obtain ⟨v, hv, hwritten⟩ := h.tile
  have hpanel : (u.quad j.quad).lathe.active = (s.quad j.quad).lathe.active := by unfold State.quad; rw [h.work.quads]
  have hta : c.ha ≠ c.hc → u.jobTile j c.ha = s.jobTile j c.ha := fun hne => by unfold State.jobTile; rw [h.other c.ha hne]
  rw [run_eq, State.jobTile_of_some hv, hpanel]
  refine ⟨⟨h.work.mem, h.work.jobs, h.work.quads⟩, h.groups, ?_, fun k hk => ?_, _, ?_, hwritten.next hw hta⟩
  · rw [← h.cbs, State.tilePut, State.block?_updBlock, if_pos rfl, Option.map_map]
    rfl
  · rw [State.tile?_tilePut, if_neg hk]
    exact h.other k hk
  · rw [State.tile?_tilePut, if_pos rfl, hv]
    rfl

/-- The rows of a pass, one after another. -/
theorem MmaCard.passed {c : MmaCard} {s : State} {j : Job} {tc : Tile} (ht : s.tile? j.blk c.hc = some tc)
    (hw : 256 * (c.wn + 1) ≤ tc.rowBytes) (i0 n : Nat) :
    c.Passed s ((List.range n).foldl (fun s k => c.run s j (i0 + k)) s) j tc i0 n := by
  induction n with
  | zero => exact ⟨⟨rfl, rfl, rfl⟩, rfl, rfl, fun _ _ => rfl, tc, ht, ⟨rfl, rfl, rfl⟩, fun _ _ _ hi => absurd hi (Nat.not_lt_zero _), fun _ _ => rfl⟩
  | succ n ih =>
    rw [List.range_succ, List.foldl_append]
    exact ih.next hw

/-! ## The pass -/

/-- A credit on a copy barrier of the job's block (R159, R253). -/
theorem State.creditJob_cbs {s : State} {j : Job} {cb ph : Nat} {x : CopyBar} {cbs : List (Nat × CopyBar)} (hc : j.credit = some (cb, ph))
    (hb : (s.block? j.blk).map (·.cbs) = some cbs) (hx : Table.get? cbs cb = some x) (n : Nat) :
    ∃ d, (s.creditJob j n).block? j.blk = some d ∧ Table.get? d.cbs cb = some (x.credit ph n) := by
  obtain ⟨b, hblock, rfl⟩ := Option.map_eq_some_iff.1 hb
  unfold State.creditJob
  rw [hc]
  dsimp only
  rw [State.block?_updBlock, if_pos rfl, hblock]
  refine ⟨_, rfl, ?_⟩
  show Table.get? (Table.upd b.cbs cb _) cb = _
  rw [Table.get?_upd, if_pos rfl, hx]
  rfl

/-- The arbiter grants a pass to a job of its table that no request ahead of it outranks (R348; log entry 38). -/
theorem exec_mmaPassGrant {s : State} {id : Nat} {j : Job} (hj : s.job? id = some j) (hrun : s.jobsRun j = true) :
    exec (.mmaPassGrant j.quad id) s = .next (if (s.quad j.quad).table.contains id && j.st == .running && decide (j.off < j.total) &&
      !s.outranked j.quad id j.kind.pri then s.mmaPass id j else s) := by
  show execMmaPassGrant j.quad id s = _
  unfold execMmaPassGrant
  rw [hj]
  dsimp only
  rw [hrun, beq_self_eq_true, Bool.true_and, Bool.true_and]

theorem State.mmaPass_bad {s : State} {j : Job} (hm : j.kind.mma? = true) {k : Nat} (hb : s.latheBad j j.off = some k) (id : Nat) :
    s.mmaPass id j = s.failJob id 0x280 k := by
  unfold State.mmaPass
  split
  · rw [hb]
  · rename_i hk
    unfold JobKind.mma? at hm
    split at hm
    · exact (hk _ _ _ _ _ _ _ _ _ _ _ _ _ _ _ _ ‹_›).elim
    · cases hm

/-- A pass: its rows, their credit, and one unit more (R271). -/
theorem State.mmaPass_good {s : State} {j : Job} {c : MmaCard} {pid lm rows pri : Nat}
    (hk : j.kind = .mma c.ha c.hc pid lm c.kind c.fmt c.kp c.bop c.sca c.acc rows c.arow0 c.wn c.wj c.crow0 pri)
    (hb : s.latheBad j j.off = none) (id : Nat) : s.mmaPass id j =
      (((List.range (min 64 (rows - 64 * j.off))).foldl (fun s k => c.run s j (64 * j.off + k)) s).creditJob j
        (256 * (c.wn + 1) * min 64 (rows - 64 * j.off))).updJob id (fun j => { j with off := j.off + 1 }) := by
  unfold State.mmaPass
  rw [hk]
  dsimp only
  rw [hb]
  rfl

end Sys2Proof.Machine
end

section
/-! SUPPORT. Passes granted and parameters exchanged (R256, R257, R348), and the proof of O52, event by event. -/

namespace Sys2Proof.Machine

/-! ## A pass granted -/

section
variable {s : State} {id : Nat} {j : Job} (hj : s.job? id = some j) (hrun : s.jobsRun j = true)
include hj hrun

theorem exec_mmaPassGrant_outranked (h : s.outranked j.quad id j.kind.pri = true) : exec (.mmaPassGrant j.quad id) s = .next s := by
  rw [exec_mmaPassGrant hj hrun, h, Bool.not_true, Bool.and_false]
  rfl

theorem exec_mmaPassGrant_granted (hst : j.st = .running) (hoff : j.off < j.total) (htable : (s.quad j.quad).table.contains id = true)
    (h : s.outranked j.quad id j.kind.pri = false) : exec (.mmaPassGrant j.quad id) s = .next (s.mmaPass id j) := by
  rw [exec_mmaPassGrant hj hrun, h, htable, hst, decide_eq_true hoff]
  rfl

end

/-- A pass writes the rows of its window and credits them, and nothing else changes (R270, R271). -/
theorem State.mmaPass_spec {s : State} {id : Nat} {j : Job} {c : MmaCard} {pid lm rows pri n : Nat} {tc : Tile} (hj : s.job? id = some j)
    (hk : j.kind = .mma c.ha c.hc pid lm c.kind c.fmt c.kp c.bop c.sca c.acc rows c.arow0 c.wn c.wj c.crow0 pri)
    (hb : s.latheBad j j.off = none) (ht : s.tile? j.blk c.hc = some tc) (hw : 256 * (c.wn + 1) ≤ tc.rowBytes)
    (hn : n = min 64 (rows - 64 * j.off)) :
    (s.mmaPass id j).mem = s.mem ∧ (s.mmaPass id j).job? id = some { j with off := j.off + 1 } ∧ (s.mmaPass id j).groups = s.groups ∧
    (s.mmaPass id j).quads = s.quads ∧
    (∃ v, (s.mmaPass id j).tile? j.blk c.hc = some v ∧ c.Written (s.quad j.quad).lathe.active (s.jobTile j c.ha) tc v (64 * j.off) n) ∧
    (∀ h, h ≠ c.hc → (s.mmaPass id j).tile? j.blk h = s.tile? j.blk h) ∧
    (∀ b cb ph x, s.block? j.blk = some b → j.credit = some (cb, ph) → Table.get? b.cbs cb = some x →
      ∃ d, (s.mmaPass id j).block? j.blk = some d ∧ Table.get? d.cbs cb = some (x.credit ph (256 * (c.wn + 1) * n))) := by
  have hpass := MmaCard.passed ht hw (64 * j.off) n
  rw [State.mmaPass_good hk hb, ← hn]
  generalize (List.range n).foldl (fun s k => c.run s j (64 * j.off + k)) s = u at hpass ⊢
  obtain ⟨hcredit, hgroups, htiles⟩ := u.creditJob_frame j (256 * (c.wn + 1) * n)
  obtain ⟨v, hv, hwritten⟩ := hpass.tile
  refine ⟨hcredit.mem.trans hpass.work.mem, ?_, hgroups.trans hpass.groups, hcredit.quads.trans hpass.work.quads,
    ⟨v, (htiles _ _).trans hv, hwritten⟩, fun h hne => (htiles _ _).trans (hpass.other h hne), fun b cb ph x hblock hc hx => ?_⟩
  · rw [State.job?_updJob, if_pos rfl, State.job?, hcredit.jobs, hpass.work.jobs]
    exact congrArg _ hj
  · exact State.creditJob_cbs hc (hpass.cbs.trans (congrArg _ hblock)) hx _

/-! ## Collectives -/

theorem SameJobs.cacheRange (s : State) (p : Nat) (va : W64) (n : Nat) : SameJobs s (s.cacheRange p va n) := by
  unfold State.cacheRange
  split
  · exact SameJobs.refl s
  · exact foldl_keeps (P := SameJobs s) (fun u _ h => h.trans (SameJobs.cache u _ _)) _ (SameJobs.refl s)

theorem length_rankWords (params : List (CollKind × CollOp × Nat)) (words : List (List W32)) : (rankWords params words).length = params.length := by
  simp [rankWords]

theorem getElem?_rankWords (params : List (CollKind × CollOp × Nat)) (words : List (List W32)) (q : Nat) :
    (rankWords params words)[q]? = params[q]?.map (fun x => (x.1, x.2.1, x.2.2, words.getD q [])) := by
  simp [rankWords, Function.comp_def]

/-- A rank but `r` brings other parameters (R257). -/
def collDiffers (ranks : List RankWords) (kind : CollKind) (op : CollOp) (n r : Nat) : Bool :=
  !ranks.zipIdx.all (fun x => x.2 == r || (x.1.1 == kind && x.1.2.1 == op && x.1.2.2.1 == n))

theorem collDiffers_eq_false {params : List (CollKind × CollOp × Nat)} {words : List (List W32)} {kind : CollKind} {op : CollOp} {n r : Nat} :
    collDiffers (rankWords params words) kind op n r = false ↔ ∀ q x, q ≠ r → params[q]? = some x → x = (kind, op, n) := by
  unfold collDiffers
  rw [Bool.not_eq_false', List.all_eq_true]
  constructor
  · rintro h q ⟨a, b, m⟩ hq hx
    have := h ((a, b, m, words.getD q []), q) (List.mem_zipIdx_iff_getElem?.2 (by rw [getElem?_rankWords, hx]; rfl))
    simpa [hq, and_assoc] using this
  · rintro h ⟨y, q⟩ hy
    have hget : (rankWords params words)[q]? = some y := List.mem_zipIdx_iff_getElem?.1 hy
    rw [getElem?_rankWords, Option.map_eq_some_iff] at hget
    obtain ⟨x, hx, rfl⟩ := hget
    by_cases hq : q = r
    · simp [hq]
    · simp [h q x hq hx]

/-- The contributions of the ranks, the own source in the own place (R256). -/
theorem rankWords_contributions {params : List (CollKind × CollOp × Nat)} (words : List (List W32)) (own : List W32) (r : Nat) :
    (rankWords params words).zipIdx.map (fun x => if x.2 = r then own else x.1.2.2.2) =
      (List.range params.length).map (fun i => if i = r then own else words.getD i []) := by
  apply List.ext_getElem?
  intro i
  rw [List.getElem?_map, List.getElem?_zipIdx, getElem?_rankWords, List.getElem?_map]
  by_cases hi : i < params.length
  · rw [List.getElem?_eq_getElem hi, List.getElem?_range hi]
    simp
  · rw [List.getElem?_eq_none (Nat.not_lt.1 hi), List.getElem?_eq_none (by simpa using hi)]
    rfl

section
variable {s : State} {id : Nat} {j : Job} (hj : s.job? id = some j) (hrun : s.jobsRun j = true) (hst : j.st = .running) (hres : j.result = none)
include hj hrun hst hres

theorem exec_collParamExchange (params : List (CollKind × CollOp × Nat)) (words : List (List W32)) :
    exec (.collParamExchange id params words) s = .next (s.collExchange id j (rankWords params words)) := by
  show execCollParamExchange id params words s = _
  unfold execCollParamExchange
  rw [hj]
  dsimp only
  rw [hrun, hst, hres]
  rfl

end

section
variable {s : State} {j : Job} {kind : CollKind} {op : CollOp} {c n src dst p r : Nat} (hk : j.kind = .coll kind op c n src dst)
  (hcomm : (s.group? j.gid).bind (fun g => s.communicator g c) = some (p, r))
include hk hcomm

/-- The exchange waits for every rank, for an earlier one on the communicator, and for a link (R257, R415). -/
theorem State.collExchange_waits {ranks : List RankWords} (h : ranks.length ≠ p ∨ s.collAhead j c = true ∨ (1 < p ∧ s.dev.life ≠ .full)) (id : Nat) :
    s.collExchange id j ranks = s := by
  unfold State.collExchange
  rw [hk]
  dsimp only
  rw [hcomm]
  dsimp only
  rw [if_pos (by simpa [or_assoc] using h)]

theorem State.collExchange_eq {ranks : List RankWords} (hlen : ranks.length = p) (hahead : s.collAhead j c = false)
    (hlink : p ≤ 1 ∨ s.dev.life = .full) (id : Nat) : s.collExchange id j ranks =
      if collDiffers ranks kind op n r then s.failJob id 0x142 c
      else match s.jobWords j src (collExtents kind n p r).1 with
        | .error (.fault va perm) => s.parkJob id j va perm
        | .error (.bad k) => s.failJob id 0x280 k
        | .error _ => s
        | .ok own => (s.cacheRange j.part (BitVec.ofNat 64 src) (4 * own.length)).updJob id (fun j => { j with
            result := some (collResult kind op n r (ranks.zipIdx.map (fun x => if x.2 = r then own else x.1.2.2.2)))
            total := (collResult kind op n r (ranks.zipIdx.map (fun x => if x.2 = r then own else x.1.2.2.2))).length }) := by
  have hwait : (decide (ranks.length ≠ p) || s.collAhead j c || (decide (1 < p) && s.dev.life != .full)) = false := by
    rw [hahead, decide_eq_false (not_not.2 hlen), Bool.or_false, Bool.false_or]
    rcases hlink with h | h
    · rw [decide_eq_false (Nat.not_lt.2 h), Bool.false_and]
    · rw [h, bne_self_eq_false, Bool.and_false]
  unfold State.collExchange
  rw [hk]
  dsimp only
  rw [hcomm]
  dsimp only
  rw [hwait, if_neg Bool.false_ne_true]
  rfl

end

/-- Parameters that agree: the result is formed, and nothing else of the machine's work changes (R256, R257). -/
theorem State.collExchange_agrees {s : State} {id : Nat} {j : Job} {kind : CollKind} {op : CollOp} {c n src dst p r : Nat} {own : List W32}
    {params : List (CollKind × CollOp × Nat)} (hj : s.job? id = some j) (hk : j.kind = .coll kind op c n src dst)
    (hcomm : (s.group? j.gid).bind (fun g => s.communicator g c) = some (p, r)) (hlen : params.length = p) (hahead : s.collAhead j c = false)
    (hlink : p ≤ 1 ∨ s.dev.life = .full) (hall : ∀ q x, q ≠ r → params[q]? = some x → x = (kind, op, n))
    (hown : s.jobWords j src (collExtents kind n p r).1 = .ok own) (words : List (List W32)) {res : List W32}
    (hr : res = collResult kind op n r ((List.range p).map (fun i => if i = r then own else words.getD i []))) :
    (s.collExchange id j (rankWords params words)).mem = s.mem ∧ (s.collExchange id j (rankWords params words)).groups = s.groups ∧
    (s.collExchange id j (rankWords params words)).job? id = some { j with result := some res, total := res.length } := by
  have hcache := SameJobs.cacheRange s j.part (BitVec.ofNat 64 src) (4 * own.length)
  rw [State.collExchange_eq hk hcomm ((length_rankWords ..).trans hlen) hahead hlink, collDiffers_eq_false.2 hall, if_neg Bool.false_ne_true, hown]
  dsimp only
  rw [rankWords_contributions, hlen, ← hr]
  refine ⟨hcache.mem, hcache.groups, ?_⟩
  show (State.updJob ..).job? id = _
  rw [State.job?_updJob, if_pos rfl, hcache.job?, hj]
  rfl

/-! ## Job events -/

/-- What a fault at the next unit of a job does, with a replay entry free (R252, R369). -/
theorem HasUnit.faults {s : State} {id : Nat} {j : Job} {g : Group} {va : Nat} {perm : Bool} (h : HasUnit s id j)
    (hf : landUnit s id j = .fault va perm) (he : (s.quad j.quad).freeEntries ≠ []) (hg : IssuerLives s j g) :
    ∃ t r e, exec (.jobTranslationFault id) s = .next t ∧ t.job? id = some r ∧ r.st = .parked (some e) ∧ e < 64 ∧ r.fault = some (va, perm) ∧
      r.off = j.off ∧ t.mem = s.mem ∧
      ∀ d : Due, d = faultDue id e j va perm → Told s t id j g d := by
  have hcache := SameJobs.cacheUnit s j
  obtain ⟨e, hlt, hjob, hmem, htold⟩ := State.parkJob_spec ((hcache.job? id).trans h.here) ⟨(hcache.group? _).trans hg.here, hg.blk, hg.live⟩
    (by rwa [hcache.quad]) va perm
  refine ⟨_, _, e, h.exec_faults hf, hjob, rfl, hlt, rfl, rfl, hmem.trans hcache.mem, ?_⟩
  rintro d rfl
  unfold Told at htold ⊢
  rwa [hcache.isSolstice, hcache.block?] at htold

/-- Settles O52: each event is its lemma above; a job that fails does so by `jobFails_of`. -/
theorem jobEvents : Obligations.JobEvents := by
  unfold Obligations.JobEvents
  intro s id j hj hrun
  refine ⟨fun hr => ?_, fun hr ho hs he => ?_, fun u hr ho hs hm hc => ?_, fun r hr ho hs => ?_, fun r hr ho hs hc => ?_, fun v hst hm hoff hv => ?_,
    fun g hfin hg hblk hlive hp => ?_, exec_mmaPassGrant_outranked hj hrun, fun hst hm hoff htable hrank => ?_,
    fun kind op c n src dst p r params xs hk hst hres hcomm => ⟨fun hwait => ?_, fun hlen hahead hlink => ⟨?_, ?_⟩⟩⟩
  · rw [exec_jobDispatch hj hrun, hr]
    rfl
  · exact ⟨_, exec_jobDispatch_ready hj hrun hr ho, State.startJob_spec hj hs he⟩
  · rw [exec_jobDispatch_ready hj hrun hr ho, State.startJob_of_ok hs hc, hm]
    rfl
  · exact jobFails_of hj (SameJobs.refl s) ((exec_jobDispatch_ready hj hrun hr ho).trans (by rw [State.startJob_of_reason hs])) rfl
  · exact jobFails_of hj (SameJobs.refl s) ((exec_jobDispatch_ready hj hrun hr ho).trans (by rw [State.startJob_of_error hs hc])) rfl
  · subst hv
    have hunit : HasUnit s id j := ⟨hj, hrun, hst, hm, hoff⟩
    have hcache := SameJobs.cacheUnit s j
    refine ⟨fun u k hu => ?_, fun k hb => ?_, fun r hr => ?_, fun va perm g hf he hg hblk hlive => hunit.faults hf he ⟨hg, hblk, hlive⟩,
      fun h hs row0 rows srow0 addr pitch rb a tl hk hsol ht hgood hbad ha => hunit.copies_out hk hsol ht hgood hbad ha⟩
    · rw [hunit.exec_lands, hu]
    · exact jobFails_of hj hcache (by rw [hunit.exec_lands, hb]) rfl
    · exact jobFails_of hj hcache (by rw [hunit.exec_lands, hr]) rfl
  · refine ⟨_, ?_, State.completeJob_spec hj ⟨hg, hblk, hlive⟩ hp⟩
    show execJobComplete id s = _
    unfold execJobComplete
    rw [hj]
    dsimp only
    rw [hrun, hfin]
    rfl
  · have hgrant := exec_mmaPassGrant_granted hj hrun hst hoff htable hrank
    refine ⟨?_, fun k hb => jobFails_of hj (SameJobs.refl s) (hgrant.trans (by rw [State.mmaPass_bad hm hb])) rfl⟩
    rintro ha hc pid lm kind afmt kp bop sca acc rows arow0 wn wj crow0 pri n ta tc hk hb ht hw rfl hn
    obtain ⟨hmem, hjob, hgroups, hquads, ⟨v, hv, hwritten⟩, hother, hcredit⟩ :=
      State.mmaPass_spec (c := ⟨ha, hc, kind, afmt, kp, bop, sca, acc, arow0, wn, wj, crow0⟩) hj hk hb ht hw hn
    obtain ⟨hrows, hrb, htag⟩ := hwritten.shape
    exact ⟨_, v, hgrant, hmem, hjob, hgroups, hquads, hv, hrows, hrb, htag, hwritten.words, hwritten.rest, hother, hcredit⟩
  · rw [exec_collParamExchange hj hrun hst hres, State.collExchange_waits hk hcomm (by rwa [length_rankWords])]
  · rintro ⟨q, x, hq, hx, hne⟩
    have hdiff : collDiffers (rankWords params xs) kind op n r = true := by
      rw [← Bool.not_eq_false, collDiffers_eq_false]
      exact fun h => hne (h q x hq hx)
    refine jobFails_of (code := 0x142) (info := c) hj (SameJobs.refl s) ((exec_collParamExchange hj hrun hst hres params xs).trans ?_) rfl
    rw [State.collExchange_eq hk hcomm ((length_rankWords ..).trans hlen) hahead hlink, hdiff, if_pos rfl]
  · rintro own cs hall hown rfl
    obtain ⟨hmem, hgroups, hjob⟩ := State.collExchange_agrees hj hk hcomm hlen hahead hlink hall hown xs rfl
    exact ⟨_, exec_collParamExchange hj hrun hst hres params xs, hmem, hgroups, hjob⟩

end Sys2Proof.Machine
end

section
/-! SUPPORT. Instructions that reach their meaning with open results landed (R95), and those that set the PC themselves: how a body's
answer becomes the next state, and what that leaves of the group. -/

namespace Sys2Proof.Machine

/-! ## The group as it reaches an instruction -/

/-- With no window open nothing lands. -/
theorem Group.landAll_of_nil {g : Group} (h : g.windows = []) : g.landAll = g := by
  cases g
  cases h
  rfl

/-- What a group that reaches an instruction keeps: PC and loops, and all that no open window lands. -/
structure Reached (g r : Group) : Prop where
  pc : r.pc = g.pc
  lc : r.lc = g.lc
  nest : r.nest = g.nest
  windows : r.windows = g.windows ∨ r.windows = []
  same : Same (windowTouches g.windows) g r

theorem Reached.refl (g : Group) : Reached g g := ⟨rfl, rfl, rfl, .inl rfl, Same.refl _ g⟩

theorem Group.landAll_reached (g : Group) : Reached g g.landAll := by
  have st := foldl_steady Group.land_steady g.windows g
  exact ⟨st.pc, st.lc, st.nest, .inr rfl, g.landAll_same⟩

theorem reachOf_reached (s : State) (g : Group) (i : Instr) : Reached g (reachOf s g i) := by
  unfold reachOf Group.reach
  split
  · exact g.landAll_reached
  · exact Reached.refl g

/-- Only a SPAWN reads the mode of its block to know its active lanes. -/
theorem reachOf_active {i : Instr} (h : ∀ f b o r a j, i ≠ .spawn f b o r a j) (s : State) (g : Group) :
    (reachOf s g i).active (useOf i).guard = actOf g i := by
  rw [reachOf, actOf, Group.reach, Group.reach, landsAt_mode h]

theorem reachOf_lands {i : Instr} (h : ∀ sol, landsAt sol i = true) (s : State) (g : Group) : reachOf s g i = g.landAll := by
  rw [reachOf, Group.reach, if_pos (h _)]

theorem reachOf_of_nil {g : Group} (h : g.windows = []) (s : State) (i : Instr) : reachOf s g i = g := by
  unfold reachOf Group.reach
  rw [Group.landAll_of_nil h]
  split <;> rfl

theorem State.reached_of_nil {s : State} {g : Group} (h : g.windows = []) (i : Instr) :
    s.reached g i = s ∨ s.reached g i = s.setGroup s.cur g := by
  unfold State.reached
  rw [Group.landAll_of_nil h]
  split
  · exact .inr rfl
  · exact .inl rfl

theorem State.reached_setGroup (s : State) (g : Group) (i : Instr) (k : Group) : (s.reached g i).setGroup s.cur k = s.setGroup s.cur k := by
  unfold State.reached
  split
  · exact State.setGroup_setGroup ..
  · rfl

@[simp] theorem State.block?_reached (s : State) (g : Group) (i : Instr) (b : Nat) : (s.reached g i).block? b = s.block? b := by
  unfold State.block?
  rw [State.blocks_reached]

@[simp] theorem State.isSolstice_reached (s : State) (g : Group) (i : Instr) (b : Nat) : (s.reached g i).isSolstice b = s.isSolstice b := by
  unfold State.isSolstice
  rw [State.blocks_reached]

/-! ## What follows from a body's answer -/

section
variable {s u : State} {g g' : Group} {i : Instr} {body : State → Group → Lanes → Res} {w : Touches} {P : Group → Prop}

/-- An instruction without errors before it comes to what its body answers of the state and the group that reach it. -/
theorem exec_conclude (hs : ∀ f b o r a j, i ≠ .spawn f b o r a j) (hi : Issues s g i) (he : exec i s = run i body s) :
    exec i s = .next ((s.reached g i).conclude s.cur (reachOf s g i) i (body (s.reached g i) (reachOf s g i) (actOf g i))) := by
  rw [he, issue_reach hi body, reachOf_active hs]

/-- What retirement writes is part of what an instruction may write. -/
theorem Same.retire {r k h : Group} (w : Touches) (a : Same (retireTouches r i none) k h) (hw : ∀ v ∈ r.windows, v ∈ g.windows) :
    Same (w.retire i g) k h :=
  a.mono (w.retire i g)
    (vec := by
      rintro l x (h | ⟨v, hv, h⟩ | ⟨_, h, _⟩)
      · exact .inr (.inl h)
      · exact .inr (.inr ⟨v, hw v hv, h⟩)
      · cases h)
    (pred := by
      rintro l p (⟨v, hv, h⟩ | ⟨_, h, _⟩)
      · exact .inr ⟨v, hw v hv, h⟩
      · cases h)
    (scal := by
      rintro x (⟨v, hv, h⟩ | ⟨_, h, _⟩)
      · exact .inr ⟨v, hw v hv, h⟩
      · cases h)

theorem Reached.mem_windows {r : Group} (hr : Reached g r) {v : Window} (hv : v ∈ r.windows) : v ∈ g.windows := by
  rcases hr.windows with h | h
  · exact h ▸ hv
  · rw [h] at hv
    cases hv

/-- The frame of an instruction that retires, from the group as it was: what landed, what the body wrote, what retirement did. -/
theorem retireOne_frame {r k : Group} (hr : Reached g r) (sw : Same (w.retire i g) r k) (hw : k.windows = r.windows) (q : Nat) :
    Same (w.retire i g) g { k.retireOne r i none with qcount := q } := by
  have landed : Same (w.retire i g) g r :=
    hr.same.mono _ (vec := fun _ _ h => .inr (.inr h)) (pred := fun _ _ h => .inr h) (scal := fun _ h => .inr h)
  have retired := Same.retire (g := g) w (Group.retireOne_same k r i none) (fun v hv => hr.mem_windows (hw ▸ hv))
  exact (landed.trans sw).trans (retired.trans (Same.of_eq _ (by simp)))

/-- An instruction that retires releases what its marks name (R100). -/
theorem retireOne_releases {r k : Group} (hr : Reached g r) (hw : k.windows = r.windows) (q : Nat) :
    Released g i { k.retireOne r i none with qcount := q } := by
  intro l x hl hx hn
  refine Group.retireOne_released k r i none hl hx ?_ (by rintro ⟨_, h, _⟩; cases h)
  rintro ⟨v, hv, h⟩
  exact hn ⟨v, hr.mem_windows (hw ▸ hv), h⟩

/-- A body that is done, in a state where group `s.cur` is `g'` and the rest stands: the instruction completes. -/
theorem completes_at (hs : ∀ f b o r a j, i ≠ .spawn f b o r a j) (hi : Issues s g i) (he : exec i s = run i body s)
    (hb : body (s.reached g i) (reachOf s g i) (actOf g i) = .done u) (hu : u.group? s.cur = some g') (hrest : Rest s u)
    (hothers : OthersAt s.cur s u) (st : Steady (reachOf s g i) g') (sw : Same (w.retire i g) (reachOf s g i) g')
    (hP : ∀ q, P { g'.advance.retireOne (reachOf s g i) i none with qcount := q }) : Completes s g i w P := by
  have hr := reachOf_reached s g i
  obtain ⟨q, h1, r1, o1⟩ := complete_spec u s.cur (reachOf s g i) i none hu
  have o2 := hothers.trans o1
  have hw : g'.advance.windows = (reachOf s g i).windows := (Group.advance_windows g').trans st.windows
  refine ⟨_, _, ?_, h1, hrest.trans r1, ⟨o2.groups, o2.blocks⟩, ?_, retireOne_frame hr (sw.trans (Group.advance_same _ g')) hw q,
    retireOne_releases hr hw q, hP q⟩
  · rw [exec_conclude hs hi he, hb]
    rfl
  · obtain ⟨a1, a2, a3⟩ := Group.advance_congr (st.pc.trans hr.pc) (st.lc.trans hr.lc) (st.nest.trans hr.nest)
    obtain ⟨r1, r2, r3⟩ := Group.retireOne_loops g'.advance (reachOf s g i) i none
    exact ⟨r1.trans a1, r2.trans a2, r3.trans a3⟩

/-- The same for a body that has changed its own group only. -/
theorem completes_reached (hs : ∀ f b o r a j, i ≠ .spawn f b o r a j) (hi : Issues s g i) (he : exec i s = run i body s)
    (hb : body (s.reached g i) (reachOf s g i) (actOf g i) = .done (s.setGroup s.cur g')) (st : Steady (reachOf s g i) g')
    (sw : Same (w.retire i g) (reachOf s g i) g') (hP : ∀ q, P { g'.advance.retireOne (reachOf s g i) i none with qcount := q }) :
    Completes s g i w P :=
  completes_at hs hi he hb (by simp) (Rest.setGroup s s.cur g') (OthersAt.setGroup s s.cur g') st sw hP

/-- A body that is done with nothing changed: the instruction only advances. -/
theorem completes_unchanged (hs : ∀ f b o r a j, i ≠ .spawn f b o r a j) (hi : Issues s g i) (he : exec i s = run i body s)
    (hb : body (s.reached g i) (reachOf s g i) (actOf g i) = .done (s.reached g i)) : Completes s g i w (fun _ => True) :=
  completes_at hs hi he hb (State.group?_reached hi.here i) (Rest.reached s g i) (OthersAt.reached s g i) (Steady.refl _) (Same.refl _ _)
    (fun _ => trivial)

/-- A body that sets the PC and has changed its own group only. -/
theorem jumps_reached (hs : ∀ f b o r a j, i ≠ .spawn f b o r a j) (hi : Issues s g i) (he : exec i s = run i body s)
    (hb : body (s.reached g i) (reachOf s g i) (actOf g i) = .jump (s.setGroup s.cur g')) (hw : g'.windows = (reachOf s g i).windows)
    (sw : Same (w.retire i g) (reachOf s g i) g') (hP : ∀ q, P { g'.retireOne (reachOf s g i) i none with qcount := q }) :
    Jumps s g i w P := by
  obtain ⟨q, h1, r1, o1⟩ := retireInstr_spec (s.setGroup s.cur g') s.cur (reachOf s g i) i none (k := g') (by simp)
  have o2 := (OthersAt.setGroup s s.cur g').trans o1
  refine ⟨_, _, ?_, h1, (Rest.setGroup s s.cur g').trans r1, ⟨o2.groups, o2.blocks⟩, retireOne_frame (reachOf_reached s g i) sw hw q, hP q⟩
  rw [exec_conclude hs hi he, hb]
  rfl

/-- The same for an instruction before which every open result lands (R95, event 5). -/
theorem completes_landing (hs : ∀ f b o r a j, i ≠ .spawn f b o r a j) (hl : ∀ sol, landsAt sol i = true) (hi : Issues s g i)
    (he : exec i s = run i body s) (hb : body (s.setGroup s.cur g.landAll) g.landAll (actOf g i) = .done (s.setGroup s.cur g'))
    (st : Steady g.landAll g') (sw : Same (w.retire i g) g.landAll g')
    (hP : ∀ q, P { g'.advance.retireOne g.landAll i none with qcount := q }) : Completes s g i w P := by
  have hr := reachOf_lands hl s g
  refine completes_reached hs hi he ?_ (hr ▸ st) (hr ▸ sw) (fun q => hr ▸ hP q)
  rw [hr, State.reached, if_pos (hl _), hb]

end

/-! ## What advancing and retirement leave of a group, field by field -/

/-- Advancing writes the PC and the loops. -/
theorem Group.advance_eq (g : Group) : ∃ pc lc nest, g.advance = { g with pc := pc, lc := lc, nest := nest } := by
  unfold Group.advance
  suffices h : ∀ (ns : List Nat) (nx : W64) (k : Group), ∃ pc lc nest, stepLoops k nx ns = { k with pc := pc, lc := lc, nest := nest } from h _ _ _
  intro ns nx
  induction ns with
  | nil => exact fun k => ⟨nx, k.lc, k.nest, rfl⟩
  | cons n r ih =>
    intro k
    unfold stepLoops
    dsimp only
    split
    · exact ih k
    · split
      · exact ⟨_, _, _, rfl⟩
      · obtain ⟨pc, lc, nest, h⟩ := ih { k.setLoop n {} with nest := k.nest.filter (· != n) }
        exact ⟨pc, lc, nest, h⟩

theorem Group.holds_eq (g : Group) (i : Instr) : ∃ latch, g.holds i = { g with latch := latch } := by
  unfold Group.holds
  dsimp only
  cases holdOf i with
  | none => exact ⟨_, rfl⟩
  | some x => exact ⟨_, rfl⟩

/-- With no window open, an instruction that retires writes the lanes that its marks release, the latch, the yield and the fairness count. -/
theorem Group.retireOne_of_nil {k : Group} (h : k.windows = []) (r : Group) (i : Instr) : ∃ latch fair, k.retireOne r i none =
    { k.release (released (useOf i)) with latch := latch, yielded := k.yielded && isYield i, fair := fair } := by
  have hc : (k.release (released (useOf i))).countWindows r.path = k.release (released (useOf i)) := by
    unfold Group.countWindows
    rw [Group.release_windows, h]
    conv_rhs => rw [← Group.landAll_of_nil ((Group.release_windows k _).trans h)]
    unfold Group.landAll
    rw [Group.release_windows, h]
    rfl
  have hy : (k.release (released (useOf i))).yielded = k.yielded := by unfold Group.release; split <;> rfl
  unfold Group.retireOne
  rw [hc, show (k.release (released (useOf i))).takeResult none = k.release (released (useOf i)) from rfl]
  obtain ⟨latch, hh⟩ := Group.holds_eq (k.release (released (useOf i))) i
  dsimp only
  split
  · exact ⟨latch, _, by rw [hh, ← hy]⟩
  · exact ⟨latch, _, by rw [hh, ← hy]⟩

theorem Group.release_nil (g : Group) : g.release [] = g := rfl

end Sys2Proof.Machine
end

section
/-! SUPPORT. Scalar forms, masks and votes (R187, R194, R196), and the forms that change only where results and the quantum stand (R107,
R186, R242, R306); with the proofs of O16 and O17. -/

namespace Sys2Proof.Machine

/-! ## Scalar forms -/

/-- A form that writes scalar register `d` and nothing else. -/
theorem computesScalar_runG {s : State} {g : Group} {i : Instr} {d : Nat} {v : W32} {f : Group → Lanes → Group}
    (hl : ∀ sol, landsAt sol i = false) (he : exec i s = runG i f s) (hf : f g (actOf g i) = g.setS d v) : ComputesScalar s g i d v :=
  computesScalar_of hl he (congrArg (fun k => Res.done (s.setGroup s.cur k)) hf)

/-- SMOV.sv with no active lane writes nothing, which leaves its destination as it was (R194). -/
theorem computesScalar_smov_sv (s : State) (g : Group) (f : FA) : ComputesScalar s g (.smov f .sv) f.d.toNat
    (match lowest (actOf g (.smov f .sv)) with | some l => ((g.lane l).reg f.a.toNat).val | none => g.sreg f.d.toNat) := by
  cases hlow : lowest (actOf g (.smov f .sv)) with
  | some l => exact computesScalar_runG (fun _ => rfl) rfl (by simp only [smov, hlow])
  | none =>
    intro hi
    refine completes_done (g' := g) (body := fun s g act => .done (s.setGroup s.cur (smov f .sv g act))) (fun _ => rfl) hi rfl
      (by simp only [smov, hlow]) (Steady.refl g) (Same.refl _ g) (fun h sm hn => sm.scal _ ?_)
    rintro (h1 | ⟨_, h1, _⟩)
    · exact hn h1
    · cases h1

/-- A count below 32 is a shift count as it stands (R194). -/
theorem count5_of_le {x : W32} (h : x.toNat ≤ 31) : count5 x = x.toNat := Nat.mod_eq_of_lt (Nat.lt_succ_of_le h)

/-- The count of an immediate shift is one of five bits. -/
theorem shiftCount_le_of_wf {f : FI} {i : Instr} (hf : i = .sshl (.i f) ∨ ∃ arith, i = .sshr (.i f) arith) (h : Instr.wf i = true) :
    f.imm.toNat ≤ 31 := by
  rcases hf with rfl | ⟨arith, rfl⟩ <;> simp_all [Instr.wf]

/-- A shift by an immediate, its count one of five bits (R194). -/
theorem computesScalar_shift {s : State} {g : Group} {f : FI} {i : Instr} {op : W32 → Nat → W32}
    (hf : i = .sshl (.i f) ∨ ∃ arith, i = .sshr (.i f) arith) (he : exec i s = runG i (scalar2 (.i f) (fun x y => op x (count5 y))) s) :
    ComputesScalar s g i f.d.toNat (op (g.sreg f.a.toNat) f.imm.toNat) := by
  intro hi
  refine computesScalar_runG ?_ he ?_ hi
  · rcases hf with rfl | ⟨arith, rfl⟩ <;> exact fun _ => rfl
  · rw [← count5_of_le (shiftCount_le_of_wf hf hi.form)]
    rfl

/-- The words of an address register's base (R196). -/
theorem lowWord_eq_setWidth (x : W64) : BitVec.ofNat 32 x.toNat = x.setWidth 32 := BitVec.eq_of_toNat_eq (by simp)

theorem highWord_eq_setWidth (x : W64) : BitVec.ofNat 32 (x.toNat / 2^32) = (x >>> 32).setWidth 32 :=
  BitVec.eq_of_toNat_eq (by simp [Nat.shiftRight_eq_div_pow])

/-- Settles O16: each form's body writes one scalar register (`computesScalar_runG`), SMOV.vs the active lanes; the counts of immediate shifts
are of five bits by the instruction's form. -/
theorem scalarFormsComplete : Obligations.ScalarFormsComplete := by
  unfold Obligations.ScalarFormsComplete
  intro s g
  refine ⟨?ss, computesScalar_smov_sv s g, ?vs, ?sl, ?movi, ?regs, ?imm, ?cmp, ?cmpi, ?sel, ?aq0, ?aq1, ?aq2⟩
  case ss => exact fun f => computesScalar_runG (fun _ => rfl) rfl rfl
  case vs =>
    exact fun f => computesPure_of (n := 1) (f := fun g _ _ => [⟨g.sreg f.a.toNat, tagRAW⟩]) (fun _ => rfl) rfl (List.mem_singleton_self _)
      (fun _ _ => le_refl 1)
  case sl => exact fun f => computesScalar_runG (fun _ => rfl) rfl rfl
  case movi => exact fun f => computesScalar_runG (fun _ => rfl) rfl rfl
  case regs =>
    rintro f i op
      (⟨rfl, rfl⟩ | ⟨rfl, rfl⟩ | ⟨rfl, rfl⟩ | ⟨rfl, rfl⟩ | ⟨rfl, rfl⟩ |
        ⟨rfl, rfl⟩ | ⟨rfl, rfl⟩ | ⟨rfl, rfl⟩ | ⟨rfl, rfl⟩) <;>
      exact computesScalar_runG (fun _ => rfl) rfl rfl
  case imm =>
    rintro f i op (⟨rfl, rfl⟩ | ⟨rfl, rfl⟩ | ⟨rfl, rfl⟩ | ⟨rfl, rfl⟩ | ⟨rfl, rfl⟩ | ⟨rfl, rfl⟩ | ⟨rfl, rfl⟩)
    · exact computesScalar_runG (fun _ => rfl) rfl rfl
    · exact computesScalar_runG (fun _ => rfl) rfl rfl
    · exact computesScalar_runG (fun _ => rfl) rfl rfl
    · exact computesScalar_runG (fun _ => rfl) rfl rfl
    · exact computesScalar_shift (op := fun x n => x <<< n) (.inl rfl) rfl
    · exact computesScalar_shift (op := fun x n => x >>> n) (.inr ⟨false, rfl⟩) rfl
    · exact computesScalar_shift (op := BitVec.sshiftRight) (.inr ⟨true, rfl⟩) rfl
  case cmp => exact fun f cc => computesScalar_runG (fun _ => rfl) rfl rfl
  case cmpi => exact fun gd d a k m cc => computesScalar_runG (fun _ => rfl) rfl rfl
  case sel => exact fun f => computesScalar_runG (fun _ => rfl) rfl rfl
  case aq0 => exact fun f => computesScalar_runG (fun _ => rfl) rfl (congrArg (g.setS _) (lowWord_eq_setWidth _))
  case aq1 => exact fun f => computesScalar_runG (fun _ => rfl) rfl (congrArg (g.setS _) (highWord_eq_setWidth _))
  case aq2 => exact fun f => computesScalar_runG (fun _ => rfl) rfl rfl

/-! ## Masks and votes -/

section
variable {s : State} {g : Group} {i : Instr} {F : Group → Lanes → Group} (hl : ∀ sol, landsAt sol i = false)
include hl

/-- A form that changes its own group only, as `F` does. -/
theorem completes_runG {g' : Group} {w : Touches} {P : Group → Prop} (hi : Issues s g i) (he : exec i s = runG i F s)
    (hF : F g (actOf g i) = g') (sw : Same w g g') (st : Steady g g') (hP : ∀ h, Same (retireTouches g i none) g' h → P h) :
    Completes s g i w P :=
  completes_done hl hi he (congrArg (fun k => Res.done (s.setGroup s.cur k)) hF) st sw hP

/-- A form that writes registers which depend on its active lanes. -/
theorem computesPure_runG {d n : Nat} {f : Nat → Lane → List Reg} (he : exec i s = runG i F s) (hd : (d, n) ∈ (useOf i).dst)
    (hn : ∀ l x, (f l x).length ≤ n) (hF : F g (actOf g i) = g.mapLanes (actOf g i) (fun l x => x.setRegs d (f l x))) :
    ComputesPure s g i d f := fun hi =>
  completes_runG hl hi he hF (Same.of_setRegs g (actOf g i) d f) ⟨rfl, rfl, rfl, rfl⟩
    (fun _ sm => holds_of_same hd hn (fun _ hl ha _ _ hx hz => lane_written hl ha hx hz) sm)

/-- A form that writes a predicate which depends on its active lanes. -/
theorem computesPred_runG {p : Nat} {f : Nat → Lane → Bool} (he : exec i s = runG i F s)
    (hF : F g (actOf g i) = g.writeP (actOf g i) p f) : ComputesPred s g i p f := by
  intro hi
  refine completes_runG hl hi he hF (Same.of_setPred g (actOf g i) p f) ⟨rfl, rfl, rfl, rfl⟩ (fun h sm l hl ha hp0 hp8 hn => ?_)
  rw [sm.pred l p hl hp8 ?_, Group.writeP, Group.lane_mapLanes _ _ _ _ hl, if_pos ha, Lane.pred_setPred _ _ hp8, if_pos ⟨rfl, hp0⟩]
  rintro (h1 | ⟨_, h1, _⟩)
  · exact hn h1
  · cases h1

end

/-- EM within PATH is written (R187). -/
theorem Same.of_setEm (g : Group) (m : Lanes) : Same { em := True } g { g with em := m } where
  vec _ _ _ _ := rfl
  pred _ _ _ _ _ := rfl
  ctr _ _ _ := rfl
  will _ _ _ := rfl
  resv _ _ _ := rfl
  lane _ _ := ⟨rfl, rfl, rfl, rfl⟩
  scal _ _ := rfl
  addr _ _ := rfl
  fpTop := rfl
  flags _ := rfl
  em h := absurd trivial h
  path := ⟨rfl, rfl, rfl, rfl⟩
  mode := ⟨rfl, rfl, rfl, rfl, rfl⟩
  exc := ⟨rfl, rfl, rfl, rfl, rfl, rfl⟩
  ident := ⟨rfl, rfl, rfl, rfl, rfl, rfl⟩

/-- What SETEM leaves in EM (R187). -/
def setemOf (g : Group) (act : Lanes) (f : FA) (k : SetemKind) : Lanes :=
  match setemMask g act f k with
  | some m => m &&& g.path
  | none => g.em

theorem completes_setem {s : State} {g : Group} {f : FA} {k : SetemKind} {P : Group → Prop} (hi : Issues s g (.setem f k))
    (hP : ∀ h : Group, h.em = setemOf g (actOf g (.setem f k)) f k → P h) : Completes s g (.setem f k) { em := True } P := by
  refine completes_runG (fun _ => rfl) hi rfl ?_ (Same.of_setEm g (setemOf g (actOf g (.setem f k)) f k)) ⟨rfl, rfl, rfl, rfl⟩
    (fun h sm => hP h (sm.em id))
  dsimp only [setemOf]
  cases setemMask g (actOf g (.setem f k)) f k <;> rfl

/-- Some lane of a vote's mask is set where some active lane's predicate holds (R187). -/
theorem voteBits_ne_zero (g : Group) (act : Lanes) (p : Nat) :
    (voteBits g act p != 0) = (lanesOf act).any (fun l => (g.lane l).pred p) := by
  cases h : (lanesOf act).any (fun l => (g.lane l).pred p) with
  | false => simpa [voteBits] using maskOf_eq_zero_iff.2 h
  | true =>
    refine bne_iff_ne.2 (fun hz => ?_)
    rw [maskOf_eq_zero_iff.1 hz] at h
    exact Bool.false_ne_true h

/-- The vote's mask is that of the active lanes where the predicate holds in all of them (R187). -/
theorem voteBits_eq_act (g : Group) (act : Lanes) (p : Nat) :
    (voteBits g act p == act) = (lanesOf act).all (fun l => (g.lane l).pred p) := by
  rw [Bool.eq_iff_iff, beq_iff_eq, List.all_eq_true]
  constructor
  · intro h l hl
    obtain ⟨h32, ha⟩ := mem_lanesOf.1 hl
    rw [← h, voteBits, getLsbD_maskOf] at ha
    simp_all
  · intro h
    refine BitVec.eq_of_getLsbD_eq fun l hl => ?_
    rw [voteBits, getLsbD_maskOf]
    cases ha : act.getLsbD l with
    | false => simp
    | true => simpa [hl] using h l (mem_lanesOf.2 ⟨hl, ha⟩)

/-! ## Results and yields (R95, R186, R306) -/

/-- Only a YIELD leaves its group just after one (R349). -/
theorem Group.yielded_retireOne (k r : Group) {i : Instr} (res : Option Window) (h : isYield i = false) :
    (k.retireOne r i res).yielded = false := by
  unfold Group.retireOne
  dsimp only
  rw [h, Bool.and_false]
  split <;> rfl

/-- A form that changes nothing but the PC (R107). -/
theorem completes_idle {s : State} {g : Group} {i : Instr} (hs : ∀ f b o r a j, i ≠ .spawn f b o r a j) (hl : ∀ sol, landsAt sol i = false)
    (hy : isYield i = false) (he : exec i s = runG i (fun g _ => g) s) (hi : Issues s g i) : Completes s g i {} (fun h => h.yielded = false) := by
  refine completes_reached (g' := g) hs hi he ?_ ?_ ?_ (fun _ => Group.yielded_retireOne _ _ none hy)
  · rw [reachOf_eq hl, State.reached_eq hl]
  · rw [reachOf_eq hl]
    exact Steady.refl g
  · rw [reachOf_eq hl]
    exact Same.refl _ g

theorem completes_yield {s : State} {g : Group} {f : FC} (hi : Issues s g (.yield f)) :
    Completes s g (.yield f) {} (fun h => h.windows = [] ∧ h.yielded = true) := by
  refine completes_landing (g' := { g.landAll with yielded := true }) (by simp) (fun _ => rfl) hi rfl
    (congrArg Res.done (State.setGroup_setGroup ..)) ⟨rfl, rfl, rfl, rfl⟩ (Same.of_eq _ (by simp)) (fun q => ?_)
  obtain ⟨pc, lc, nest, ha⟩ := Group.advance_eq { g.landAll with yielded := true }
  rw [ha]
  obtain ⟨latch, fair, hr⟩ := Group.retireOne_of_nil (k := { g.landAll with yielded := true, pc := pc, lc := lc, nest := nest }) rfl g.landAll
    (.yield f)
  rw [hr]
  exact ⟨rfl, rfl⟩

theorem completes_qend {s : State} {g : Group} {f : FS} (hi : Issues s g (.qend f)) :
    Completes s g (.qend f) {} (fun h => h.windows = [] ∧ h.quantumDone = s.isSolstice g.blk) := by
  refine completes_landing (g' := { g.landAll with quantumDone := s.isSolstice g.landAll.blk, past := false }) (by simp) (fun _ => rfl) hi rfl
    (congrArg Res.done (State.setGroup_setGroup ..)) ⟨rfl, rfl, rfl, rfl⟩ (Same.of_eq _ (by simp)) (fun q => ?_)
  obtain ⟨pc, lc, nest, ha⟩ := Group.advance_eq { g.landAll with quantumDone := s.isSolstice g.landAll.blk, past := false }
  rw [ha]
  obtain ⟨latch, fair, hr⟩ := Group.retireOne_of_nil
    (k := { g.landAll with quantumDone := s.isSolstice g.landAll.blk, past := false, pc := pc, lc := lc, nest := nest }) rfl g.landAll (.qend f)
  rw [hr]
  exact ⟨rfl, congrArg s.isSolstice g.landAll_same.ident.1⟩

/-- Settles O17: SETEM by the mask that it takes (`completes_setem`), VOTE by what its mask says of the active lanes (`voteBits_ne_zero`,
`voteBits_eq_act`), and the others by what they leave once open results have landed. -/
theorem groupFormsComplete : Obligations.GroupFormsComplete := by
  unfold Obligations.GroupFormsComplete
  refine ⟨fun s g f => ⟨?getV, ?getS, ?setV, ?setP, ?setS, ?someP, ?everyP, ?someS, ?everyS, ?bitsV, ?bitsS⟩,
    fun s g => ⟨completes_idle (by simp) (fun _ => rfl) rfl rfl,
      fun f sc => completes_idle (by simp) (fun _ => rfl) rfl rfl,
      fun f => completes_yield, fun f => completes_qend⟩⟩
  case getV =>
    exact computesPure_runG (n := 1) (fun _ => rfl) rfl (List.mem_singleton_self _) (fun _ _ => le_refl 1) rfl
  case getS => exact computesScalar_runG (fun _ => rfl) rfl rfl
  case setV =>
    refine fun hi => completes_setem hi (fun h hem => ?_)
    rw [hem, setemOf, setemMask]
    cases lowest (actOf g (.setem f .v)) <;> rfl
  case setP =>
    refine fun hi => completes_setem hi (fun h hem l hl => ?_)
    rw [hem, setemOf, setemMask]
    show (maskOf _ &&& g.path).getLsbD l = _
    rw [BitVec.getLsbD_and, getLsbD_maskOf, decide_eq_true hl, Bool.true_and, Bool.and_comm]
  case setS => exact fun hi => completes_setem hi (fun h hem => hem)
  case someP => exact computesPred_runG (fun _ => rfl) rfl (congrArg (fun b => g.writeP _ _ fun _ _ => b) (voteBits_ne_zero ..))
  case everyP => exact computesPred_runG (fun _ => rfl) rfl (congrArg (fun b => g.writeP _ _ fun _ _ => b) (voteBits_eq_act ..))
  case someS =>
    exact computesScalar_runG (fun _ => rfl) rfl (congrArg (fun b : Bool => g.setS _ (if b then 1 else 0)) (voteBits_ne_zero ..))
  case everyS =>
    exact computesScalar_runG (fun _ => rfl) rfl (congrArg (fun b : Bool => g.setS _ (if b then 1 else 0)) (voteBits_eq_act ..))
  case bitsV =>
    exact computesPure_runG (n := 1) (fun _ => rfl) rfl (List.mem_singleton_self _) (fun _ _ => le_refl 1) rfl
  case bitsS => exact computesScalar_runG (fun _ => rfl) rfl rfl

end Sys2Proof.Machine
end

section
/-! SUPPORT. A path that divides (R170, R171): the entry that a split pushes, with the proof of O20. -/

namespace Sys2Proof.Machine

/-! ## Entries -/

/-- An entry with a number of its own is the one found under that number. -/
theorem entryAt_append {es : List Entry} {e : Entry} (h : ∀ x ∈ es, x.id ≠ e.id) : entryAt (es ++ [e]) (some e.id) = some e := by
  unfold entryAt
  rw [List.find?_append, List.find?_eq_none.2 (fun x hx => by simpa using h x hx)]
  simp

/-- A path that is not at the reconvergence point of its entry runs on (R170). -/
theorem settle_of_running {g : Group} {es : List Entry} {e : Entry} (he : entryAt es g.cur = some e) (hp : g.path ≠ 0) (hpc : g.pc ≠ e.rpc) :
    settle g es = (g, es) := by
  have hl : settleLoop (2 * es.length + 1) g es = (g, es) := by
    unfold settleLoop
    rw [he]
    exact if_neg (by simpa using ⟨hp, hpc⟩)
  unfold settle
  rw [hl]
  simp [Group.restart]

/-- A path without an entry runs on. -/
theorem settle_of_none {g : Group} {es : List Entry} (he : entryAt es g.cur = none) : settle g es = (g, es) := by
  have hl : settleLoop (2 * es.length + 1) g es = (g, es) := by
    unfold settleLoop
    rw [he]
  unfold settle
  rw [hl]
  simp [Group.restart]

/-! ## The lanes of a split -/

theorem andNot_self (x : Lanes) : x &&& ~~~x = 0 := by
  apply BitVec.eq_of_getLsbD_eq
  intro l hl
  simp

theorem eq_of_andNot {x y : Lanes} (h : y &&& ~~~x = 0) (h' : x &&& ~~~y = 0) : y = x := by
  apply BitVec.eq_of_getLsbD_eq
  intro l hl
  have a := congrArg (·.getLsbD l) h
  have b := congrArg (·.getLsbD l) h'
  simp only [BitVec.getLsbD_and, BitVec.getLsbD_not, hl] at a b
  cases hx : x.getLsbD l <;> cases hy : y.getLsbD l <;> simp_all

/-- Lanes of the path that are taken out of it leave it smaller. -/
theorem andNot_ne_self {path t : Lanes} (hsub : t &&& ~~~path = 0) (ht : t ≠ 0) : path &&& ~~~t ≠ path := by
  intro h
  refine ht (BitVec.eq_of_getLsbD_eq fun l hl => ?_)
  have a := congrArg (·.getLsbD l) h
  have b := congrArg (·.getLsbD l) hsub
  simp only [BitVec.getLsbD_and, BitVec.getLsbD_not, hl] at a b
  cases hx : t.getLsbD l <;> cases hy : path.getLsbD l <;> simp_all

/-! ## The split -/

section
variable {id own : Nat} {g : Group} {es : List Entry} {t : Lanes} {tpc fpc rpc : W64} {kind : EntryKind}

/-- A branch of the whole path, or to where the rest goes on, only moves the PC. -/
theorem split_whole (h : t = g.path ∨ tpc = fpc) : split id own g es t tpc fpc rpc .br = ({ g with pc := tpc }, es) := by
  unfold split
  have h' : g.path &&& ~~~t = 0 ∨ tpc = fpc := h.imp_left (fun h => by rw [h, andNot_self])
  exact if_pos (by simpa using h')

/-- The entry that a split pushes, before lanes are parked in it or deferred (R171). -/
def splitEntry (id own : Nat) (g : Group) (rpc : W64) (kind : EntryKind) : Entry :=
  { id := id, parent := g.cur, kind := kind, owner := own, rpc := rpc, full := g.path, wait := 0, wen := 0, defl := 0, den := 0, dpc := 0 }

/-- The group that runs on under entry `id` with part of its path. -/
def Group.runUnder (g : Group) (id : Nat) (path : Lanes) (pc : W64) : Group :=
  { g with path := path, em := g.em &&& path, pc := pc, cur := some id, fair := if path = g.path then g.fair else 0 }

/-- What a split comes to once its masks are made: the entry is pushed, and the path that runs has not reached it. -/
theorem restart_settle_pushed {e : Entry} {path : Lanes} {pc : W64} (hid : ∀ x ∈ es, x.id ≠ e.id) (hp : path ≠ 0) (hpc : pc ≠ e.rpc) :
    (let x := settle { g with path := path, em := g.em &&& path, pc := pc, cur := some e.id } (es ++ [e])
     ((x.1.restart g, x.2) : Group × List Entry)) = (g.runUnder e.id path pc, es ++ [e]) := by
  rw [settle_of_running (entryAt_append hid) hp hpc]
  rfl

/-- A divided path runs the fall-through and defers the lanes that transfer. -/
theorem split_defers (hid : ∀ e ∈ es, e.id ≠ id) (hf : g.path &&& ~~~t ≠ 0) (ht : t ≠ 0) (hpc : tpc ≠ fpc) (hfr : fpc ≠ rpc) (htr : tpc ≠ rpc) :
    split id own g es t tpc fpc rpc kind = (g.runUnder id (g.path &&& ~~~t) fpc,
      es ++ [{ splitEntry id own g rpc kind with defl := t, den := g.em &&& t, dpc := tpc }]) := by
  refine Eq.trans ?_ (restart_settle_pushed
    (e := { splitEntry id own g rpc kind with defl := t, den := g.em &&& t, dpc := tpc }) hid hf hfr)
  change g.path &&& ~~~t ≠ 0#32 at hf
  change t ≠ 0#32 at ht
  unfold split
  simp [hf, ht, hpc, hfr, htr, splitEntry]

/-- A divided path whose transferring lanes go to the reconvergence point parks them there. -/
theorem split_parks (hid : ∀ e ∈ es, e.id ≠ id) (hf : g.path &&& ~~~t ≠ 0) (ht : t ≠ 0) (hfr : fpc ≠ rpc) :
    split id own g es t rpc fpc rpc kind = (g.runUnder id (g.path &&& ~~~t) fpc,
      es ++ [{ splitEntry id own g rpc kind with wait := t, wen := g.em &&& t }]) := by
  refine Eq.trans ?_ (restart_settle_pushed
    (e := { splitEntry id own g rpc kind with wait := t, wen := g.em &&& t }) hid hf hfr)
  change g.path &&& ~~~t ≠ 0#32 at hf
  change t ≠ 0#32 at ht
  unfold split
  simp [hf, ht, hfr, hfr.symm, splitEntry]

/-- A call runs under its entry, in which the lanes that do not call wait. -/
theorem split_calls (hid : ∀ e ∈ es, e.id ≠ id) (ht : t ≠ 0) (htr : tpc ≠ rpc) :
    split id own g es t tpc rpc rpc .call = (g.runUnder id t tpc,
      es ++ [{ splitEntry id own g rpc .call with wait := g.path &&& ~~~t, wen := g.em &&& (g.path &&& ~~~t) }]) := by
  refine Eq.trans ?_ (restart_settle_pushed
    (e := { splitEntry id own g rpc .call with wait := g.path &&& ~~~t, wen := g.em &&& (g.path &&& ~~~t) }) hid ht htr)
  change t ≠ 0#32 at ht
  unfold split
  by_cases hf : g.path &&& ~~~t = 0#32 <;> simp [hf, ht, htr, splitEntry]

end

/-! ## O20 -/

/-- Settles O20: the cases of R171 (`split_whole`, `split_defers`, `split_parks`, `split_calls`). -/
theorem splitPushesOneEntry : Obligations.SplitPushesOneEntry := by
  unfold Obligations.SplitPushesOneEntry
  intro id own g es t tpc fpc rpc kind hid hsub ht
  refine ⟨?whole, ?divided, ?call⟩
  case whole =>
    rintro rfl h
    exact split_whole h
  case divided =>
    intro hne hpc hfr
    have hf : g.path &&& ~~~t ≠ 0 := fun h => hne (eq_of_andNot hsub h)
    have hrun : g.runUnder id (g.path &&& ~~~t) fpc =
        { g with path := g.path &&& ~~~t, em := g.em &&& (g.path &&& ~~~t), pc := fpc, cur := some id, fair := 0 } := by
      rw [Group.runUnder, if_neg (andNot_ne_self hsub ht)]
    by_cases htr : tpc = rpc
    · subst htr
      rw [split_parks hid hf ht hfr]
      exact ⟨_, rfl, rfl, rfl, rfl, rfl, rfl, hrun, fun h => absurd rfl h, fun _ => ⟨rfl, rfl, rfl⟩⟩
    · rw [split_defers hid hf ht hpc hfr htr]
      exact ⟨_, rfl, rfl, rfl, rfl, rfl, rfl, hrun, fun _ => ⟨rfl, rfl, rfl, rfl, rfl⟩, fun h => absurd h htr⟩
  case call =>
    rintro rfl rfl htr
    rw [split_calls hid ht htr]
    exact ⟨_, rfl, rfl, rfl, rfl, rfl, rfl, rfl, rfl, rfl, rfl⟩

end Sys2Proof.Machine
end

section
/-! SUPPORT. Loops (R175, R183, R184, R185): what SBR, LOOP and LBRK leave in the loop counters, and the loop-end step, with the proof of
O21. -/

namespace Sys2Proof.Machine

/-! ## Forms that set the PC -/

/-- A form before which nothing lands that sets the PC and the loops of its group. -/
theorem jumps_of {s : State} {g g' : Group} {i : Instr} {body : State → Group → Lanes → Res} {P : Group → Prop}
    (hs : ∀ f b o r a j, i ≠ .spawn f b o r a j) (hl : ∀ sol, landsAt sol i = false) (hi : Issues s g i) (he : exec i s = run i body s)
    (hb : body s g (actOf g i) = .jump (s.setGroup s.cur g')) (hg : ∃ pc lc nest, g' = { g with pc := pc, lc := lc, nest := nest })
    (hP : ∀ h : Group, h.pc = g'.pc → h.lc = g'.lc → h.nest = g'.nest → P h) : Jumps s g i {} P := by
  refine jumps_reached (g' := g') hs hi he ?_ ?_ ?_ (fun q => ?_)
  · rw [State.reached_eq hl, reachOf_eq hl, hb]
  · obtain ⟨pc, lc, nest, rfl⟩ := hg
    rw [reachOf_eq hl]
  · obtain ⟨pc, lc, nest, rfl⟩ := hg
    rw [reachOf_eq hl]
    exact Same.of_eq _ (by simp)
  · obtain ⟨hpc, hlc, hnest⟩ := Group.retireOne_loops g' (reachOf s g i) i none
    exact hP _ hpc hlc hnest

/-! ## SBR, LOOP and LBRK -/

section
variable {s : State} {g : Group} {f : FC}

theorem jumps_sbr {z : Bool} (hi : Issues s g (.sbr f z)) (hz : g.sreg f.ra.toNat = 0 ↔ z = true) :
    Jumps s g (.sbr f z) {} (fun h => h.pc = target g f.off ∧ h.lc = g.lc ∧ h.nest = g.nest) := by
  refine jumps_of (g' := { g with pc := target g f.off }) (body := bodySbr f z) (by simp) (fun _ => rfl) hi rfl ?_ ⟨_, _, _, rfl⟩
    (fun h hpc hlc hnest => ⟨hpc, hlc, hnest⟩)
  exact if_pos (by rw [beq_iff_eq, Bool.eq_iff_iff, beq_iff_eq]; exact hz)

theorem completes_sbr {z : Bool} (hi : Issues s g (.sbr f z)) (hz : ¬ (g.sreg f.ra.toNat = 0 ↔ z = true)) :
    Completes s g (.sbr f z) {} (fun _ => True) := by
  refine completes_unchanged (body := bodySbr f z) (by simp) hi rfl ?_
  rw [reachOf_eq (fun _ => rfl)]
  exact if_neg (by rw [beq_iff_eq, Bool.eq_iff_iff, beq_iff_eq]; exact hz)

/-- LOOP passes for a counter that is not live and a body within those of the live loops (R183). -/
theorem bodyLoop_passes (hlive : (g.loop f.xp.toNat).live = false)
    (hin : ∀ k ∈ g.nest, (target g f.off).toNat ≤ (g.loop k).stop.toNat) :
    ((g.loop f.xp.toNat).live || g.nest.any (fun k => decide ((g.loop k).stop.toNat < (target g f.off).toNat))) = false := by
  rw [hlive, Bool.false_or, List.any_eq_false]
  exact fun k hk => by simpa using hin k hk

/-- The group in a loop that LOOP starts (R183). -/
def Group.startLoop (g : Group) (n : Nat) (c : W32) (stop : W64) : Group :=
  { g.setLoop n { live := true, count := c, start := g.pc + 8, stop := stop } with nest := n :: g.nest, pc := g.pc + 8 }

theorem jumps_loop_zero {imm : Bool} (hi : Issues s g (.loop f imm)) (hlive : (g.loop f.xp.toNat).live = false)
    (hin : ∀ k ∈ g.nest, (target g f.off).toNat ≤ (g.loop k).stop.toNat)
    (hc : (if imm then f.ra.setWidth 32 else g.sreg f.ra.toNat) = 0) :
    Jumps s g (.loop f imm) {} (fun h => h.pc = target g f.off ∧ h.lc = g.lc ∧ h.nest = g.nest) := by
  refine jumps_of (g' := { g with pc := target g f.off }) (body := bodyLoop f imm) (by simp) (fun _ => rfl) hi rfl ?_ ⟨_, _, _, rfl⟩
    (fun h hpc hlc hnest => ⟨hpc, hlc, hnest⟩)
  unfold bodyLoop
  dsimp only
  rw [bodyLoop_passes hlive hin, if_neg Bool.false_ne_true]
  exact if_pos hc

theorem jumps_loop_start {imm : Bool} {c : W32} (hi : Issues s g (.loop f imm)) (hlive : (g.loop f.xp.toNat).live = false)
    (hin : ∀ k ∈ g.nest, (target g f.off).toNat ≤ (g.loop k).stop.toNat)
    (hc : c = (if imm then f.ra.setWidth 32 else g.sreg f.ra.toNat)) (h0 : c ≠ 0) :
    Jumps s g (.loop f imm) {} (fun h => h.pc = g.pc + 8 ∧ h.nest = f.xp.toNat :: g.nest ∧
      h.loop f.xp.toNat = { live := true, count := c, start := g.pc + 8, stop := target g f.off } ∧
      ∀ k, k ≠ f.xp.toNat → h.loop k = g.loop k) := by
  refine jumps_of (g' := g.startLoop f.xp.toNat c (target g f.off)) (body := bodyLoop f imm) (by simp) (fun _ => rfl) hi rfl ?_
    ⟨_, _, _, rfl⟩ (fun h hpc hlc hnest => ?_)
  · subst hc
    unfold bodyLoop
    dsimp only
    rw [bodyLoop_passes hlive hin, if_neg Bool.false_ne_true]
    exact if_neg h0
  · have hloop (k : Nat) : h.loop k = (g.startLoop f.xp.toNat c (target g f.off)).loop k := by
      unfold Group.loop
      rw [hlc]
    have hstart (k : Nat) : (g.startLoop f.xp.toNat c (target g f.off)).loop k =
        if k = f.xp.toNat then { live := true, count := c, start := g.pc + 8, stop := target g f.off } else g.loop k :=
      Group.loop_setLoop g _ k _
    exact ⟨hpc, hnest, by rw [hloop, hstart, if_pos rfl], fun k hk => by rw [hloop, hstart, if_neg hk]⟩

/-- The counters of `ns` end. -/
def Group.endLoops (g : Group) (ns : List Nat) : Group := ns.foldl (fun g k => g.setLoop k {}) g

theorem Group.loop_endLoops (g : Group) (ns : List Nat) (k : Nat) : (g.endLoops ns).loop k = if k ∈ ns then {} else g.loop k := by
  unfold Group.endLoops
  induction ns generalizing g with
  | nil => rfl
  | cons n ns ih =>
    rw [List.foldl_cons, ih, Group.loop_setLoop]
    by_cases hk : k ∈ ns
    · simp [hk]
    · by_cases hn : k = n <;> simp [hk, hn]

theorem Group.endLoops_eq (g : Group) (ns : List Nat) : ∃ lc, g.endLoops ns = { g with lc := lc } := by
  unfold Group.endLoops
  induction ns generalizing g with
  | nil => exact ⟨g.lc, rfl⟩
  | cons n ns ih =>
    obtain ⟨lc, h⟩ := ih (g.setLoop n {})
    exact ⟨lc, h⟩

theorem jumps_lbrk (hi : Issues s g (.lbrk f)) (hlive : (g.loop f.xp.toNat).live = true) :
    Jumps s g (.lbrk f) {} (fun h => h.pc = (g.loop f.xp.toNat).stop ∧ (h.loop f.xp.toNat).live = false ∧
      (∀ k ∈ g.nest.takeWhile (· != f.xp.toNat), (h.loop k).live = false) ∧ f.xp.toNat ∉ h.nest) := by
  generalize hn : f.xp.toNat = n at hlive ⊢
  generalize hns : g.nest.takeWhile (· != n) ++ [n] = ns
  have hmem : n ∈ ns := by rw [← hns]; simp
  refine jumps_of (g' := { g.endLoops ns with nest := g.nest.filter (fun k => !ns.contains k), pc := (g.loop n).stop }) (body := bodyLbrk f)
    (by simp) (fun _ => rfl) hi rfl ?_ ?_ (fun h hpc hlc hnest => ?_)
  · unfold bodyLbrk
    dsimp only
    rw [hn, hlive, hns]
    rfl
  · obtain ⟨lc, h⟩ := Group.endLoops_eq g ns
    exact ⟨_, lc, _, by rw [h]⟩
  · have hend (k : Nat) (hk : k ∈ ns) : (h.loop k).live = false := by
      have : h.loop k = (g.endLoops ns).loop k := by
        unfold Group.loop
        rw [hlc]
      rw [this, Group.loop_endLoops, if_pos hk]
    refine ⟨hpc, hend n hmem, fun k hk => hend k ?_, ?_⟩
    · rw [← hns]
      exact List.mem_append_left _ hk
    · rw [hnest]
      simp [hmem]

/-! ## The loop-end step (R184) -/

theorem Group.advance_counts {n : Nat} {r : List Nat} (hnest : g.nest = n :: r) (hstop : (g.loop n).stop = g.pc + 8)
    (hc : 1 < (g.loop n).count.toNat) :
    g.advance = { g.setLoop n { g.loop n with count := (g.loop n).count - 1 } with pc := (g.loop n).start } := by
  unfold Group.advance
  rw [hnest]
  unfold stepLoops
  simp [hstop, hc]

theorem Group.advance_ends {n : Nat} (hnest : g.nest = [n]) (hstop : (g.loop n).stop = g.pc + 8) (hc : (g.loop n).count.toNat ≤ 1) :
    g.advance = { g.setLoop n {} with nest := [], pc := g.pc + 8 } := by
  unfold Group.advance
  rw [hnest]
  unfold stepLoops
  simp [hstop, Nat.not_lt.2 hc, stepLoops, hnest]

end

/-! ## O21 -/

/-- Settles O21: SBR, LOOP and LBRK by the PC and the loops that their bodies leave (`jumps_of`), an advance onto a loop's end by the two
cases of the loop-end step. -/
theorem loopsCount : Obligations.LoopsCount := by
  unfold Obligations.LoopsCount
  intro s g f
  refine ⟨fun z => jumps_sbr, fun z => completes_sbr, ?loop, jumps_lbrk, ?counts, ?ends⟩
  case loop =>
    exact fun imm c hi hlive hin hc => ⟨fun h0 => jumps_loop_zero hi hlive hin (hc ▸ h0), fun h0 => jumps_loop_start hi hlive hin hc h0⟩
  case counts =>
    intro n r hnest hstop hc
    rw [Group.advance_counts hnest hstop hc]
    exact ⟨rfl, congrArg Loop.count ((Group.loop_setLoop ..).trans (if_pos rfl)), rfl⟩
  case ends =>
    intro n hnest hstop hc
    rw [Group.advance_ends hnest hstop hc]
    exact ⟨rfl, congrArg Loop.live ((Group.loop_setLoop ..).trans (if_pos rfl)), rfl⟩

end Sys2Proof.Machine
end

section
/-! SUPPORT. Misused barriers and tiles (R190, R243, R244): the check of each body that takes a cause, with the proof of O27. -/

namespace Sys2Proof.Machine

section
variable {s : State} {g : Group}

/-! ## Barriers -/

/-- A landing changes neither the path nor the lanes that it could fill (R167). -/
theorem Reached.converged {r : Group} (h : Reached g r) : r.converged = g.converged := by
  obtain ⟨hpath, hocc, -, -⟩ := h.same.path
  obtain ⟨hsup, -, hset, -, -⟩ := h.same.mode
  simp only [Group.converged, Group.whole, hpath, hocc, hsup, hset]

theorem takes_unconverged {f : FC} {i : Instr} (hf : i = .bar f ∨ i = .bara f ∨ i = .barw f) (hc : g.converged = false) (hi : Issues s g i) :
    Takes s g i { code := 0x140, einfo := some 1 } := by
  have hr : (reachOf s g i).converged = false := (reachOf_reached s g i).converged.trans hc
  have hn : (!(reachOf s g i).converged) = true := by rw [hr]; rfl
  rcases hf with rfl | rfl | rfl
  · exact takes_of (body := bodyBar f) hi rfl (if_pos hn)
  · exact takes_of (body := bodyBara f) hi rfl (if_pos hn)
  · exact takes_of (body := bodyBarw f) hi rfl (if_pos hn)

theorem State.blockOf_of_some {b : Block} (hb : s.block? g.blk = some b) : s.blockOf g = b := by
  unfold State.blockOf
  rw [hb]
  rfl

/-- A group has arrived in the phase that its view names (R190). -/
theorem State.hasArrived_iff {b : Block} (hb : s.block? g.blk = some b) (n : Nat) :
    s.hasArrived g n = true ↔ (g.barView n).arrived = some (b.bar n).phase := by
  rw [State.hasArrived, State.blockOf_of_some hb, beq_iff_eq]

theorem countConflict_of_some {nb : NamedBar} {c n : Nat} (h : nb.count = some c) : countConflict nb n = true ↔ n ≠ 0 ∧ n ≠ c := by
  unfold countConflict
  rw [h]
  simp only [Bool.and_eq_true, bne_iff_ne]
  exact and_congr_right fun _ => ne_comm

theorem bodyBara_of_arrived {b : Block} {f : FC} (act : Lanes) (hb : s.block? g.blk = some b) (hc : g.converged = true)
    (ha : (g.barView f.ra.toNat).arrived = some (b.bar f.ra.toNat).phase) : bodyBara f s g act = .trap s (misuse 2) := by
  unfold bodyBara
  dsimp only
  rw [hc, if_neg (by simp), if_pos ((State.hasArrived_iff hb _).2 ha)]

theorem bodyBara_of_conflict {b : Block} {f : FC} {c : Nat} (act : Lanes) (hb : s.block? g.blk = some b) (hc : g.converged = true)
    (ha : (g.barView f.ra.toNat).arrived ≠ some (b.bar f.ra.toNat).phase) (hn : (b.bar f.ra.toNat).count = some c) (h0 : f.off.toNat ≠ 0)
    (hne : f.off.toNat ≠ c) : bodyBara f s g act = .trap s (misuse 3) := by
  unfold bodyBara
  dsimp only
  rw [hc, if_neg (by simp), if_neg (fun h => ha ((State.hasArrived_iff hb _).1 h)), State.blockOf_of_some hb,
    if_pos ((countConflict_of_some hn).2 ⟨h0, hne⟩)]

/-! ## A cause of a form before which nothing lands -/

theorem takes_of_body {i : Instr} {t : Trap} {body : State → Group → Lanes → Res} (hl : ∀ sol, landsAt sol i = false) (hi : Issues s g i)
    (he : exec i s = run i body s) (hb : ∀ act, body s g act = .trap s t) : Takes s g i t := by
  refine takes_of hi he ?_
  rw [State.reached_eq hl, reachOf_eq hl, hb]

/-! ## Tiles -/

section
variable {f : FI} {fromS : Bool} {x : Nat} (hx : x = (if fromS then g.sreg f.a.toNat else f.imm).toNat) (act : Lanes)
include hx

theorem bodyTalloc_of_badShape (hs : badShape x = true) : bodyTalloc f fromS s g act = .trap s { code := 0x048, einfo := some 2 } := by
  subst hx
  exact if_pos hs

theorem bodyTalloc_of_bound (hs : badShape x = false) (ht : (s.tile? g.blk f.d.toNat).isSome = true) :
    bodyTalloc f fromS s g act = .trap s { code := 0x049, einfo := some 2 } := by
  subst hx
  unfold bodyTalloc
  dsimp only
  rw [hs, if_neg Bool.false_ne_true, if_pos ht]

theorem bodyTalloc_of_full {n : Nat} (hs : badShape x = false) (ht : s.tile? g.blk f.d.toNat = none)
    (hn : n = granulesOf (shapeTile x).rows (shapeTile x).rowBytes)
    (hfull : (if (shapeTile x).quad then s.freeQuad (s.quadOf g) else s.freeCore (s.coreOf g)) < n) :
    bodyTalloc f fromS s g act = .trap s { code := 0x04A, einfo := some (BitVec.ofNat 64 n) } := by
  subst hx hn
  unfold bodyTalloc
  dsimp only
  rw [hs, if_neg Bool.false_ne_true, ht, if_neg (by simp), if_pos hfull]

end

theorem bodyTfree_of_unbound {f : FI} (act : Lanes) (ht : s.tile? g.blk f.d.toNat = none) :
    bodyTfree f s g act = .trap s { code := 0x049, einfo := some 3 } := if_pos (by rw [ht]; rfl)

end

/-! ## O27 -/

/-- Settles O27: each misuse by the branch of its body that refuses it; a group that is not converged is so when its results have landed
(`Reached.converged`). -/
theorem misusesTrap : Obligations.MisusesTrap := by
  unfold Obligations.MisusesTrap
  refine ⟨fun s g b f hb => ⟨?unconverged, ?arrived, ?conflict⟩, fun s g f x fromS hx => ⟨?shape, ?bound, ?full, ?unbound⟩⟩
  case unconverged => exact fun hc i hf hi => takes_unconverged hf hc hi
  case arrived =>
    exact fun hc ha hi => takes_of_body (body := bodyBara f) (fun _ => rfl) hi rfl (fun act => bodyBara_of_arrived act hb hc ha)
  case conflict =>
    exact fun hc ha c hn h0 hne hi =>
      takes_of_body (body := bodyBara f) (fun _ => rfl) hi rfl (fun act => bodyBara_of_conflict act hb hc ha hn h0 hne)
  case shape =>
    exact fun hi hs => takes_of_body (body := bodyTalloc f fromS) (fun _ => rfl) hi rfl (fun act => bodyTalloc_of_badShape hx act hs)
  case bound =>
    exact fun hi hs ht => takes_of_body (body := bodyTalloc f fromS) (fun _ => rfl) hi rfl (fun act => bodyTalloc_of_bound hx act hs ht)
  case full =>
    rintro t n rfl hn hi hs ht hfull
    exact takes_of_body (body := bodyTalloc f fromS) (fun _ => rfl) hi rfl (fun act => bodyTalloc_of_full hx act hs ht hn hfull)
  case unbound =>
    exact fun hi ht => takes_of_body (body := bodyTfree f) (fun _ => rfl) hi rfl (fun act => bodyTfree_of_unbound act ht)

end Sys2Proof.Machine
end

section
/-! SUPPORT. Refutations: the barrier, the budget and the compaction statements are of every state, also of one whose table of groups is
not in the order of its numbers. There an instruction that first lands its open results writes its group a second time into the table
(`Table.put` keeps the order of a table in order), and what counts the groups of a block or of a core then counts that group twice. -/

namespace Sys2Proof.Machine

/-- Group `k` and block `k` of a concrete state. -/
def State.groupAt (s : State) (k : Nat) : Group := (s.group? k).getD { blk := 0 }
def State.blockAt (s : State) (k : Nat) : Block := (s.block? k).getD { part := 0, core := 0, launch := none }

/-- The state that `i` leaves, of a concrete state. -/
def State.after (s : State) (i : Instr) : State :=
  match exec i s with
  | .next t => t
  | _ => s

theorem State.group?_groupAt {s : State} {k : Nat} (h : (s.group? k).isSome = true) : s.group? k = some (s.groupAt k) := by
  obtain ⟨g, hg⟩ := Option.isSome_iff_exists.1 h
  rw [State.groupAt, hg, Option.getD_some]

theorem State.block?_blockAt {s : State} {k : Nat} (h : (s.block? k).isSome = true) : s.block? k = some (s.blockAt k) := by
  obtain ⟨b, hb⟩ := Option.isSome_iff_exists.1 h
  rw [State.blockAt, hb, Option.getD_some]

theorem State.after_groupAt {s t : State} {i : Instr} {k : Nat} {h : Group} (he : exec i s = .next t) (hh : t.group? k = some h) :
    (s.after i).groupAt k = h := by
  rw [State.after, he, State.groupAt, hh, Option.getD_some]

/-- The loaded machine's group 0 as `f` has it, and before it in the table group 1, as `e` has it; block 0 as `b` has it. -/
def outOfOrder (e f : Group → Group) (b : Block → Block) : State :=
  let s := (State.reset.loaded.updGroup 0 f).updBlock 0 b
  { s with groups := (1, e (s.groupAt 0)) :: s.groups }

/-- A word whose fields are `off`, `ra` and `xp`, without a guard. -/
def wordC (off : W32) (ra : BitVec 8) (xp : BitVec 3) : FC := ⟨⟨0, false⟩, off, ra, xp⟩

/-! ## Named barriers -/

/-- Two groups of a block; one has arrived at barrier 3, whose count is that of the live groups. -/
def barrierOutOfOrder : State :=
  outOfOrder id id (fun b => { b with nbs := [(3, { phase := 0, arrivals := 1, count := none })] })

theorem barrierOutOfOrder_issues : Issues barrierOutOfOrder (barrierOutOfOrder.groupAt 0) (.bar (wordC 0 3 0)) where
  form := by decide +kernel
  here := State.group?_groupAt (k := 0) (by decide +kernel)
  clean := fun _ => by decide +kernel
  checks := by decide +kernel
  landed := by decide +kernel
  sound := by decide +kernel
  tags := by decide +kernel

/-- Refutes O24: the second of two groups arrives at a barrier of all live groups. The count is met, but the table of groups is out of
order, the instruction counts three live groups, and the group waits where it should go on. -/
theorem not_barriersComplete : ¬ Obligations.BarriersComplete := by
  unfold Obligations.BarriersComplete
  intro h
  obtain ⟨-, hbar, -⟩ := h barrierOutOfOrder (barrierOutOfOrder.groupAt 0) (barrierOutOfOrder.blockAt 0) (wordC 0 3 0) 3
    ((barrierOutOfOrder.blockAt 0).bar 3) ((barrierOutOfOrder.groupAt 0).barView 3) rfl (State.block?_blockAt (by decide +kernel)) rfl rfl
    (by decide +kernel) (by decide +kernel)
  obtain ⟨hmet, -⟩ := hbar barrierOutOfOrder_issues (by decide +kernel) (by decide +kernel) (by decide +kernel) (by decide +kernel)
  obtain ⟨t, h, c, he, hh, -, -, hadv, -⟩ := hmet (by decide +kernel)
  obtain ⟨hpc, -⟩ := hadv
  rw [← State.after_groupAt he hh] at hpc
  exact absurd hpc (by decide +kernel)

/-! ## Register budgets -/

/-- Group 0 of 4 blocks and group 1 of 215 in the Sapwood of a core, and 28 blocks in the pool: 247 of the 248 blocks after a claim of 28. -/
def budgetOutOfOrder : State :=
  outOfOrder (fun g => { g with budget := 215 }) id (fun b => { b with pool := 28 })

def take28 : FI := ⟨⟨0, false⟩, 0, 0, 28, false⟩

theorem budgetOutOfOrder_issues : Issues budgetOutOfOrder (budgetOutOfOrder.groupAt 0) (.rbtake take28) where
  form := by decide +kernel
  here := State.group?_groupAt (k := 0) (by decide +kernel)
  clean := fun _ => by decide +kernel
  checks := by decide +kernel
  landed := by decide +kernel
  sound := by decide +kernel
  tags := by decide +kernel

/-- Refutes O25: a claim whose blocks the Sapwood has room for. The table of groups is out of order, the group's 4 blocks are counted
twice, and the context leaves the Sapwood where it should stay. -/
theorem not_registerBudgets : ¬ Obligations.RegisterBudgets := by
  unfold Obligations.RegisterBudgets
  intro h
  obtain ⟨htake, -⟩ := h budgetOutOfOrder (budgetOutOfOrder.groupAt 0) (budgetOutOfOrder.blockAt 0) take28 28 rfl
    (State.block?_blockAt (by decide +kernel)) (by decide +kernel) (by decide +kernel) (by decide +kernel)
  obtain ⟨t, h, c, he, hh, -, -, -, -, -, -, -, hstays, -⟩ := htake budgetOutOfOrder_issues (by decide +kernel) (by decide +kernel)
    (by decide +kernel) (.inr (.inl (by decide +kernel)))
  have hst : h.st = .active := hstays (by decide +kernel) (by decide +kernel) (by decide +kernel)
  rw [← State.after_groupAt he hh] at hst
  exact absurd hst (by decide +kernel)

/-! ## Compaction -/

/-- Group 0 of the four lanes 4 to 7 in the role 0, and group 1, of no lane, in the role 1. -/
def compactionOutOfOrder : State :=
  outOfOrder (fun g => { g with role := 1, occ := 0, path := 0, em := 0 }) (fun g => { g with occ := 0xF0, path := 0xF0, em := 0xF0 }) id

theorem compactionOutOfOrder_issues : Issues compactionOutOfOrder (compactionOutOfOrder.groupAt 0) (.braC (wordC 4 1 0)) where
  form := by decide +kernel
  here := State.group?_groupAt (k := 0) (by decide +kernel)
  clean := fun _ => by decide +kernel
  checks := by decide +kernel
  landed := by decide +kernel
  sound := by decide +kernel
  tags := by decide +kernel

/-- Refutes O26: a group alone in its role packs its four work-items. The table of groups is out of order, the compaction takes the group
for two participants, and the group ends at the join, not at the target. -/
theorem not_compactionPacksAndRejoins : ¬ Obligations.CompactionPacksAndRejoins := by
  unfold Obligations.CompactionPacksAndRejoins
  intro h
  obtain ⟨hpack, -⟩ := h compactionOutOfOrder (compactionOutOfOrder.groupAt 0) (compactionOutOfOrder.blockAt 0) (wordC 4 1 0) 4
    (State.block?_blockAt (by decide +kernel)) (by decide +kernel) (by decide +kernel) (by decide +kernel) (by decide +kernel)
    (by decide +kernel) (by decide +kernel) (by decide +kernel) (by decide +kernel) (by decide +kernel) (by decide +kernel)
    (by decide +kernel) (by decide +kernel) (by decide +kernel)
  obtain ⟨t, h, c, k, he, hh, -, -, -, -, hpc, -⟩ := hpack compactionOutOfOrder_issues (by decide +kernel) (by decide +kernel)
    (by decide +kernel)
  rw [← State.after_groupAt he hh] at hpc
  exact absurd hpc (by decide +kernel)

end Sys2Proof.Machine
end

section
/-! SUPPORT. Instructions that change more than their group: what completion adds to the state that a body answers, and the group that
waits there. -/

namespace Sys2Proof.Machine

section
variable {s u : State} {g k : Group} {i : Instr} {body : State → Group → Lanes → Res}

/-- Completion of a group whose PC, loops and windows are those at issue. -/
theorem complete_group {c : Nat} (i : Instr) (hu : u.group? c = some k) (st : Steady g k) :
    ∃ h, (u.complete c g i none).group? c = some h ∧ Advanced g h ∧ Same (retireTouches g i none) k h ∧
      Rest u (u.complete c g i none) ∧ OthersAt c u (u.complete c g i none) := by
  obtain ⟨q, h1, r1, o1⟩ := complete_spec u c g i none hu
  obtain ⟨hadv, hsame, -⟩ := advance_retire st i none q
  exact ⟨_, h1, hadv, hsame, r1, o1⟩

/-- A body that is done: the next state is its answer with the group advanced and retired. -/
theorem exec_done (hl : ∀ sol, landsAt sol i = false) (hi : Issues s g i) (he : exec i s = run i body s)
    (hb : body s g (actOf g i) = .done u) (hu : u.group? s.cur = some k) (st : Steady g k) :
    ∃ t h, exec i s = .next t ∧ t.group? s.cur = some h ∧ Advanced g h ∧ Same (retireTouches g i none) k h ∧ Rest u t ∧
      OthersAt s.cur u t := by
  obtain ⟨h, hh, hadv, hsame, hrest, hothers⟩ := complete_group i hu st
  refine ⟨_, h, ?_, hh, hadv, hsame, hrest, hothers⟩
  rw [he, issue_conclude hi hl, hb]
  rfl

/-- A body that waits: the next state is its answer, in which a group of the core that has yielded may issue again (R186). -/
theorem exec_wait (hs : ∀ f b o r a j, i ≠ .spawn f b o r a j) (hi : Issues s g i) (he : exec i s = run i body s)
    (hb : body (s.reached g i) (reachOf s g i) (actOf g i) = .wait u) (hu : u.group? s.cur = some k) :
    ∃ t, exec i s = .next t ∧ t.group? s.cur = some k ∧ Rest u t ∧ OthersAt s.cur u t := by
  obtain ⟨h1, r1, o1⟩ := clearYields_spec u s.cur (reachOf s g i) k hu
  refine ⟨_, ?_, h1, r1, o1⟩
  rw [exec_conclude hs hi he, hb]
  rfl

end

theorem OthersAt.block {c b : Nat} {s t : State} {x : Block} (h : OthersAt c s t) (hx : s.block? b = some x) :
    ∃ n, t.block? b = some { x with retiredCount := n } := by
  have hb := h.blocks b
  rw [hx, Option.map_some] at hb
  obtain ⟨y, hy, e⟩ := Option.map_eq_some_iff.1 hb
  exact ⟨y.retiredCount, hy.trans (congrArg (fun z : Block => some { z with retiredCount := y.retiredCount }) e)⟩

theorem OthersAt.group {c k : Nat} {s t : State} {x : Group} (h : OthersAt c s t) (hk : k ≠ c) (hx : s.group? k = some x) :
    ∃ y, t.group? k = some { x with yielded := y } := by
  have hg := h.groups k hk
  rw [hx, Option.map_some] at hg
  obtain ⟨y, hy, e⟩ := Option.map_eq_some_iff.1 hg
  exact ⟨y.yielded, hy.trans (congrArg (fun z : Group => some { z with yielded := y.yielded }) e)⟩

theorem OthersAt.group_none {c k : Nat} {s t : State} (h : OthersAt c s t) (hk : k ≠ c) (hx : s.group? k = none) : t.group? k = none := by
  have hg := h.groups k hk
  rw [hx, Option.map_none] at hg
  exact Option.map_eq_none_iff.1 hg

theorem State.isSolstice_of_block {s : State} {b : Nat} {x : Block} (h : s.block? b = some x) : s.isSolstice b = x.solstice := by
  unfold State.isSolstice
  unfold State.block? at h
  rw [h]

/-- A group that waits stays where it is. -/
structure Waits (g h : Group) (w : Wait) : Prop where
  st : h.st = .waiting w
  pc : h.pc = g.pc
  addrs : h.a = g.a

theorem Group.waits_waits (g : Group) (w : Wait) (sol : Bool) : Waits g (g.waits w sol) w := by
  unfold Group.waits
  dsimp only
  split <;> exact ⟨rfl, rfl, rfl⟩

theorem State.park_group {u : State} {c : Nat} {h : Group} (hg : u.group? c = some h) (g : Group) (w : Wait) :
    ∃ k, (u.park c g w).group? c = some k ∧ Waits h k w := by
  unfold State.park
  rw [State.group?_updGroup, if_pos rfl, hg]
  obtain ⟨h1, h2, h3⟩ := Group.waits_waits (h.countIssue (u.isSolstice g.blk)) w (u.isSolstice g.blk)
  exact ⟨_, rfl, h1, h2, h3⟩

end Sys2Proof.Machine
end

section
/-! SUPPORT. System instructions (R196, R311 to R313, R358, R359): what binding an address register, writing a system register, mapping a
page and a shootdown leave, with the proof of O38. -/

namespace Sys2Proof.Machine

/-! ## ABIND -/

/-- An address register is written. -/
theorem Same.of_setA (g : Group) (d : Nat) (v : AddrReg) : Same { addr := fun r => r = d } g (g.setA d v) where
  vec _ _ _ _ := rfl
  pred _ _ _ _ _ := rfl
  ctr _ _ _ := rfl
  will _ _ _ := rfl
  resv _ _ _ := rfl
  lane _ _ := ⟨rfl, rfl, rfl, rfl⟩
  scal _ _ := rfl
  addr r hr := by rw [Group.areg_setA, if_neg hr]
  fpTop := rfl
  flags _ := rfl
  em _ := rfl
  path := ⟨rfl, rfl, rfl, rfl⟩
  mode := ⟨rfl, rfl, rfl, rfl, rfl⟩
  exc := ⟨rfl, rfl, rfl, rfl, rfl, rfl⟩
  ident := ⟨rfl, rfl, rfl, rfl, rfl, rfl⟩

theorem bindAddr_base (s : State) (p : Nat) (base : W64) (limit : W32) : (bindAddr s p base limit).base = base := by
  unfold bindAddr
  split
  · split <;> rfl
  · rfl

/-- A bound register spans no more than its page (R196). -/
theorem bindAddr_page {s : State} {p : Nat} {base : W64} {limit : W32} {pg : Page} (hw : s.walk p base = .page pg) (hrw : (pg.r || pg.w) = true) :
    (bindAddr s p base limit).limit.toNat = min limit.toNat (pg.bytes - base.toNat % pg.bytes) ∧
      (bindAddr s p base limit).frame = BitVec.ofNat 64 (pg.pp + base.toNat % pg.bytes) ∧ (bindAddr s p base limit).page = pg.bytes ∧
      (bindAddr s p base limit).canR = pg.r ∧ (bindAddr s p base limit).canW = pg.w := by
  unfold bindAddr
  simp only [hw, hrw, if_true]
  refine ⟨?_, trivial, trivial, trivial, trivial⟩
  have hlt := limit.isLt
  split
  · omega
  · rw [BitVec.toNat_ofNat, Nat.mod_eq_of_lt (by omega)]
    omega

/-- Where no page may be read or written the limit is 0. -/
theorem bindAddr_no_page {s : State} {p : Nat} {base : W64} {limit : W32} (hw : ∀ pg, s.walk p base = .page pg → (pg.r || pg.w) = false) :
    (bindAddr s p base limit).limit = 0 := by
  unfold bindAddr
  split
  · next pg hpg =>
    rw [hw pg hpg]
    rfl
  · rfl

theorem abind_completes {s : State} {g : Group} {f : FA} (hi : Issues s g (.abind f)) (hc : canonical (g.spair f.a.toNat) = true) :
    Completes s g (.abind f) { addr := fun r => r = f.d.toNat }
      (fun h => h.areg f.d.toNat = bindAddr s (s.partOf g) (g.spair f.a.toNat) (g.sreg f.b.toNat)) := by
  refine completes_done (g' := g.setA f.d.toNat (bindAddr s (s.partOf g) (g.spair f.a.toNat) (g.sreg f.b.toNat))) (fun _ => rfl) hi (by rfl)
    (body := bodyAbind f) ?_ ⟨rfl, rfl, rfl, rfl⟩ (Same.of_setA g f.d.toNat _) (fun h sm => ?_)
  · unfold bodyAbind
    rw [if_neg (by simp [hc])]
  · rw [sm.addr _ id, Group.areg_setA, if_pos rfl]

/-! ## MTSR -/

/-- The registers that some mode may write (R24). -/
theorem sysAccess_rw {sup : Bool} {n : Nat} (h : sysAccess sup n = .rw) : n = 0x000 ∨ n = 0x003 ∨ n = 0x010 ∨ n = 0x040 := by
  cases sup <;> unfold sysAccess at h <;> split at h <;> simp at h ⊢

theorem setHalf_eq (old : W64) (hi : Bool) (v : W32) :
    setHalf old hi v = if hi then v ++ old.setWidth 32 else (old >>> 32).setWidth 32 ++ v := by
  unfold setHalf
  split
  · exact congrArg (v ++ ·) (BitVec.eq_of_toNat_eq (by simp))
  · exact congrArg (· ++ v) (BitVec.eq_of_toNat_eq (by simp [Nat.shiftRight_eq_div_pow]))

/-- A frame from a group whose EPC, EMASKF and FPSTAT have been written is one of the rest of the group. -/
theorem Same.of_sys {w : Touches} {g h : Group} {e : W64} {m p : W32} (a : Same w { g with epc := e, emaskf := m, fpstat := p } h) :
    Same w g { h with epc := g.epc, emaskf := g.emaskf, fpstat := g.fpstat } :=
  { a with
    fpTop := rfl
    flags := fun _ => rfl
    exc := by
      obtain ⟨-, h2, h3, -, h5, h6⟩ := a.exc
      exact ⟨rfl, h2, h3, rfl, h5, h6⟩ }

/-- A body that is done where EPC, EMASKF and FPSTAT of its group and the watchdog count of its block are `e`, `m`, `p` and `x`. -/
theorem writes_sys {s u : State} {g : Group} {b : Block} {f : FS} {hi : Bool} {e : W64} {m p x : W32} (h : Issues s g (.mtsr f hi))
    (hb : bodyMtsr f hi s g (actOf g (.mtsr f hi)) = .done u) (hu : u.group? s.cur = some { g with epc := e, emaskf := m, fpstat := p })
    (hrest : Rest s u) (hx : u.block? g.blk = some { b with bwdog := x }) :
    ∃ t h, exec (.mtsr f hi) s = .next t ∧ t.group? s.cur = some h ∧ Rest s t ∧ Advanced g h ∧
      Same (({} : Touches).retire (.mtsr f hi) g) g { h with epc := g.epc, emaskf := g.emaskf, fpstat := g.fpstat } ∧
      h.epc = e ∧ h.emaskf = m ∧ h.fpstat = p ∧ ∃ c, t.block? g.blk = some c ∧ c.bwdog = x := by
  obtain ⟨t, k, he, hk, hadv, hsame, r1, o1⟩ := exec_done (fun _ => rfl) h (by rfl) hb hu ⟨rfl, rfl, rfl, rfl⟩
  obtain ⟨n, hc⟩ := o1.block hx
  obtain ⟨hepc, -, -, hmask, -, -⟩ := hsame.exc
  exact ⟨t, k, he, hk, hrest.trans r1, hadv, Same.of_sys (Same.retire {} hsame (fun _ hv => hv)), hepc, hmask, hsame.flags id, _, hc, rfl⟩

theorem mtsr_ignored {s : State} {g : Group} {f : FS} {hi : Bool} (h : Issues s g (.mtsr f hi)) (ha : sysAccess g.supervisor f.num.toNat ≠ .rw) :
    Completes s g (.mtsr f hi) {} (fun _ => True) := by
  refine completes_unchanged (by simp) h (by rfl) (body := bodyMtsr f hi) ?_
  rw [State.reached_eq (fun _ => rfl), reachOf_eq (fun _ => rfl)]
  unfold bodyMtsr
  rw [if_pos (by simpa using ha)]

theorem mtsr_writes {s : State} {g : Group} {b : Block} {f : FS} {hi : Bool} {v : W32} (h : Issues s g (.mtsr f hi)) (hb : s.block? g.blk = some b)
    (hv : v = g.sreg f.ra.toNat) (ha : sysAccess g.supervisor f.num.toNat = .rw) :
    ∃ t h, exec (.mtsr f hi) s = .next t ∧ t.group? s.cur = some h ∧ Rest s t ∧ Advanced g h ∧
      Same (({} : Touches).retire (.mtsr f hi) g) g { h with epc := g.epc, emaskf := g.emaskf, fpstat := g.fpstat } ∧
      h.epc = (if f.num = 0x000 then setHalf g.epc hi v else g.epc) ∧
      h.emaskf = (if f.num = 0x003 then v &&& g.emaskIn else g.emaskf) ∧
      h.fpstat = (if f.num = 0x010 then v &&& 0xDFFF else g.fpstat) ∧
      ∃ c, t.block? g.blk = some c ∧ c.bwdog = (if f.num = 0x040 then v else b.bwdog) := by
  have hnum : ∀ n : Nat, f.num.toNat = n → n < 4096 → f.num = BitVec.ofNat 12 n := fun n e hn => BitVec.eq_of_toNat_eq (by
    rw [e, BitVec.toNat_ofNat, Nat.mod_eq_of_lt hn])
  have here := h.here
  subst hv
  rcases sysAccess_rw ha with hn | hn | hn | hn
  · have hf := hnum _ hn (by decide)
    refine writes_sys (b := b) (u := s.setGroup s.cur { g with epc := setHalf g.epc hi (g.sreg f.ra.toNat) }) h ?_ ?_ (Rest.setGroup ..) ?_
    · simp [bodyMtsr, hn, hn ▸ ha]
    · simp [hf]
    · simpa [hf] using hb
  · have hf := hnum _ hn (by decide)
    refine writes_sys (b := b) (u := s.setGroup s.cur { g with emaskf := g.sreg f.ra.toNat &&& g.emaskIn }) h ?_ ?_ (Rest.setGroup ..) ?_
    · simp [bodyMtsr, hn, hn ▸ ha]
    · simp [hf]
    · simpa [hf] using hb
  · have hf := hnum _ hn (by decide)
    refine writes_sys (b := b) (u := s.setGroup s.cur { g with fpstat := g.sreg f.ra.toNat &&& fpMask }) h ?_ ?_ (Rest.setGroup ..) ?_
    · simp [bodyMtsr, hn, hn ▸ ha]
    · simp [hf, fpMask]
    · simpa [hf] using hb
  · have hf := hnum _ hn (by decide)
    refine writes_sys (b := b) (u := s.updBlock g.blk (fun b => { b with bwdog := g.sreg f.ra.toNat })) h ?_ ?_ (Rest.updBlock ..) ?_
    · simp [bodyMtsr, hn, hn ▸ ha]
    · simpa [hf] using here
    · simp [hf, hb]

/-! ## Cached translations and limits -/

/-- The address registers once those of them that `hit` names have lost their limit (R43, R313). -/
def limitsDropped (hit : AddrReg → Bool) (a : List (Nat × AddrReg)) : List (Nat × AddrReg) :=
  (List.range 8).foldl (fun acc n =>
    let x : AddrReg := Sparse.get {} a n
    if hit x then Sparse.set {} acc n { x with limit := 0 } else acc) a

theorem get_limitsDropped (hit : AddrReg → Bool) (a : List (Nat × AddrReg)) (r : Nat) : Sparse.get {} (limitsDropped hit a) r =
    if r < 8 ∧ hit (Sparse.get {} a r) = true then { Sparse.get {} a r with limit := 0 } else Sparse.get {} a r := by
  unfold limitsDropped
  generalize 8 = n
  induction n with
  | zero => simp
  | succ n ih =>
    rw [List.range_succ, List.foldl_concat]
    dsimp only
    split
    · next hn =>
      rw [Sparse.get_set, ih]
      by_cases hr : r = n
      · subst hr
        rw [if_pos rfl, if_pos ⟨Nat.lt_succ_self r, hn⟩]
      · rw [if_neg hr]
        simp only [show r < n + 1 ↔ r < n by omega]
    · next hn =>
      rw [ih]
      by_cases hr : r = n
      · subst hr
        rw [if_neg (fun h => hn h.2), if_neg (fun h => hn h.2)]
      · simp only [show r < n + 1 ↔ r < n by omega]

/-- The group with those of its address registers that `hit` names without their limit. -/
def Group.dropLimits (g : Group) (hit : AddrReg → Bool) : Group := { g with a := limitsDropped hit g.a }

theorem Group.areg_dropLimits (g : Group) (hit : AddrReg → Bool) (r : Nat) : (g.dropLimits hit).areg r =
    if r < 8 ∧ hit (g.areg r) = true then { g.areg r with limit := 0 } else g.areg r := get_limitsDropped hit g.a r

theorem Group.areg_dropLimits_base (g : Group) (hit : AddrReg → Bool) (r : Nat) : ((g.dropLimits hit).areg r).base = (g.areg r).base := by
  rw [Group.areg_dropLimits]
  split <;> rfl

theorem Group.areg_dropLimits_hit {g : Group} {hit : AddrReg → Bool} {r : Nat} (hr : r < 8) (h : hit (g.areg r) = true) :
    ((g.dropLimits hit).areg r).limit = 0 := by
  rw [Group.areg_dropLimits, if_pos ⟨hr, h⟩]

theorem Same.of_dropLimits (g : Group) (hit : AddrReg → Bool) : Same { addr := fun r => hit (g.areg r) = true } g (g.dropLimits hit) where
  vec _ _ _ _ := rfl
  pred _ _ _ _ _ := rfl
  ctr _ _ _ := rfl
  will _ _ _ := rfl
  resv _ _ _ := rfl
  lane _ _ := ⟨rfl, rfl, rfl, rfl⟩
  scal _ _ := rfl
  addr r hr := by rw [Group.areg_dropLimits, if_neg (fun h => hr h.2)]
  fpTop := rfl
  flags _ := rfl
  em _ := rfl
  path := ⟨rfl, rfl, rfl, rfl⟩
  mode := ⟨rfl, rfl, rfl, rfl, rfl⟩
  exc := ⟨rfl, rfl, rfl, rfl, rfl, rfl⟩
  ident := ⟨rfl, rfl, rfl, rfl, rfl, rfl⟩

/-- Block `b` is one of partition `p`. -/
def State.inPart (s : State) (p b : Nat) : Bool := match s.block? b with | some r => r.part == p | none => false

theorem State.inPart_of_block {s : State} {p b : Nat} {x : Block} (h : s.block? b = some x) : s.inPart p b = (x.part == p) := by
  rw [State.inPart, h]

/-- What a shootdown leaves of a group. -/
def State.shotDown (s : State) (p : Nat) (hit : AddrReg → Bool) (g : Group) : Group := if s.inPart p g.blk then g.dropLimits hit else g

theorem State.group?_dropLimits (s : State) (p : Nat) (hit : AddrReg → Bool) (j : Nat) :
    (s.dropLimits p hit).group? j = (s.group? j).map (s.shotDown p hit) :=
  Table.get?_mapAll s.groups j (fun _ => s.shotDown p hit)

theorem State.shotDown_steady (s : State) (p : Nat) (hit : AddrReg → Bool) (g : Group) : Steady g (s.shotDown p hit g) := by
  unfold State.shotDown
  split <;> exact ⟨rfl, rfl, rfl, rfl⟩

section
variable {s : State} {p : Nat} {hit : AddrReg → Bool} {x : Group} {r : Nat}

/-- A shootdown changes the address registers of a group and nothing else in it. -/
theorem State.shotDown_fields (s : State) (p : Nat) (hit : AddrReg → Bool) (x : Group) (a : List (Nat × AddrReg)) :
    { s.shotDown p hit x with yielded := false, a := a } = { x with yielded := false, a := a } := by
  unfold State.shotDown
  split <;> rfl

theorem State.shotDown_base (s : State) (p : Nat) (hit : AddrReg → Bool) (x : Group) (r : Nat) :
    ((s.shotDown p hit x).areg r).base = (x.areg r).base := by
  unfold State.shotDown
  split
  · exact Group.areg_dropLimits_base ..
  · rfl

theorem State.shotDown_hit {c : Block} (hr : r < 8) (hc : s.block? x.blk = some c) (hp : c.part = p) (hh : hit (x.areg r) = true) :
    ((s.shotDown p hit x).areg r).limit = 0 := by
  unfold State.shotDown
  rw [State.inPart_of_block hc, if_pos (by simp [hp])]
  exact Group.areg_dropLimits_hit hr hh

/-- A register that the shootdown does not name, or of another partition's group, stays. -/
theorem State.shotDown_kept (h : 8 ≤ r ∨ hit (x.areg r) = false ∨ ∀ c, s.block? x.blk = some c → c.part ≠ p) :
    (s.shotDown p hit x).areg r = x.areg r := by
  unfold State.shotDown
  split
  · next hin =>
    rw [Group.areg_dropLimits, if_neg]
    rintro ⟨h8, hh⟩
    rcases h with h | h | h
    · omega
    · rw [h] at hh
      cases hh
    · unfold State.inPart at hin
      split at hin
      · next c hc => exact h c hc (by simpa using hin)
      · cases hin
  · rfl

end

theorem State.blocks_dropLimits (s : State) (p : Nat) (hit : AddrReg → Bool) (j : Nat) :
    ((s.dropLimits p hit).block? j).map (fun x => { x with retiredCount := 0, compact := none }) =
      (s.block? j).map (fun x => { x with retiredCount := 0, compact := none }) := by
  unfold State.dropLimits State.block?
  dsimp only
  rw [Table.get?_mapAll]
  cases Table.get? s.blocks j with
  | none => rfl
  | some x =>
    rw [Option.map_some]
    split <;> rfl

theorem State.part_dropTlb (s : State) (p : Nat) (hit : Cached → Bool) (q : Nat) : (s.dropTlb p hit).part q =
    if q = p then { s.part p with tlb := (s.part p).tlb.filter (fun c => !hit c) } else s.part q := State.part_updPart s p q _

/-- Where no cached translation covers an address none is used for it (R356). -/
theorem cachedPage_of_uncovered {t : State} {p : Nat} {va : W64} (h : ∀ c ∈ (t.part p).tlb, c.covers va = false) : t.cachedPage p va = none := by
  unfold State.cachedPage
  rw [List.find?_eq_none.2 (fun c hc => by simp [h c hc])]
  rfl

/-! ## TLBINV -/

/-- What TLBINV leaves before it completes or waits (R313). -/
def State.invalidate (s : State) (g : Group) (f : FS) (k : TlbKind) : State :=
  (s.dropTlb (s.partOf g) (s.invTlb g f k)).dropLimits (s.partOf g) (s.invHit g f k)

theorem State.partOf_of_block {s : State} {g : Group} {b : Block} (h : s.block? g.blk = some b) : s.partOf g = b.part := by
  rw [State.partOf, h]

theorem State.group?_invalidate (s : State) (g : Group) (f : FS) (k : TlbKind) (j : Nat) :
    (s.invalidate g f k).group? j = (s.group? j).map (s.shotDown (s.partOf g) (s.invHit g f k)) := by
  unfold State.invalidate
  rw [State.group?_dropLimits]
  rfl

/-- The group that issues the shootdown is of its own partition. -/
theorem State.shotDown_own {s : State} {g : Group} {b : Block} (h : s.block? g.blk = some b) (hit : AddrReg → Bool) :
    s.shotDown (s.partOf g) hit g = g.dropLimits hit := by
  rw [State.shotDown, State.inPart_of_block h, State.partOf_of_block h, if_pos (by simp)]

theorem tlbinv_completes {s : State} {g : Group} {b : Block} {f : FS} {k : TlbKind} (hb : s.block? g.blk = some b) (hi : Issues s g (.tlbinv f k))
    (hst : s.stagedIn (s.partOf g) = false) :
    ∃ t h, exec (.tlbinv f k) s = .next t ∧ t.group? s.cur = some h ∧ Advanced g h ∧
      Same (retireTouches g (.tlbinv f k) none) (g.dropLimits (s.invHit g f k)) h ∧ Rest (s.invalidate g f k) t ∧
      OthersAt s.cur (s.invalidate g f k) t := by
  refine exec_done (fun _ => rfl) hi (by rfl) (body := bodyTlbinv f k) ?_ ?_ ⟨rfl, rfl, rfl, rfl⟩
  · unfold bodyTlbinv
    rw [hst]
    rfl
  · rw [State.group?_invalidate, hi.here, Option.map_some, State.shotDown_own hb]

theorem tlbinv_waits {s : State} {g : Group} {b : Block} {f : FS} {k : TlbKind} (hb : s.block? g.blk = some b) (hi : Issues s g (.tlbinv f k))
    (hst : s.stagedIn (s.partOf g) = true) :
    ∃ t h, exec (.tlbinv f k) s = .next t ∧ t.group? s.cur = some h ∧ h.pc = g.pc ∧ ∀ r, h.areg r = (g.dropLimits (s.invHit g f k)).areg r := by
  have hu : (s.invalidate g f k).group? s.cur = some (g.dropLimits (s.invHit g f k)) := by
    rw [State.group?_invalidate, hi.here, Option.map_some, State.shotDown_own hb]
  have hbody : bodyTlbinv f k s g (actOf g (.tlbinv f k)) = if s.isSolstice g.blk
      then .wait (((s.invalidate g f k).updGroup s.cur Group.landAll).park s.cur g .quantum) else .wait (s.invalidate g f k) := by
    unfold bodyTlbinv
    rw [hst]
    rfl
  have hreach : bodyTlbinv f k (s.reached g (.tlbinv f k)) (reachOf s g (.tlbinv f k)) (actOf g (.tlbinv f k)) =
      bodyTlbinv f k s g (actOf g (.tlbinv f k)) := by
    rw [State.reached_eq (fun _ => rfl), reachOf_eq (fun _ => rfl)]
  by_cases hsol : s.isSolstice g.blk = true
  · obtain ⟨w, hw, hwait⟩ := State.park_group (u := (s.invalidate g f k).updGroup s.cur Group.landAll) (c := s.cur)
      (h := (g.dropLimits (s.invHit g f k)).landAll) (by rw [State.group?_updGroup, if_pos rfl, hu]; rfl) g .quantum
    obtain ⟨t, he, ht, -, -⟩ := exec_wait (by simp) hi (by rfl) (body := bodyTlbinv f k) (hreach.trans (hbody.trans (if_pos hsol))) hw
    have landed := (g.dropLimits (s.invHit g f k)).landAll_reached
    refine ⟨t, w, he, ht, hwait.pc.trans landed.pc, fun r => ?_⟩
    rw [← landed.same.addr r id]
    exact congrArg (Sparse.get {} · r) hwait.addrs
  · obtain ⟨t, he, ht, -, -⟩ := exec_wait (by simp) hi (by rfl) (body := bodyTlbinv f k) (hreach.trans (hbody.trans (if_neg hsol))) hu
    exact ⟨t, _, he, ht, rfl, fun _ => rfl⟩

/-- The sizes of pages are powers of 2 from 64 KB on (R353). -/
theorem levelShift_ge (l : Nat) : 16 ≤ levelShift l := by
  unfold levelShift
  split <;> omega

theorem walkFrom_bytes {m : List Host.Cell} {d : Device} {p va l table : Nat} {pg : Page} (h : walkFrom m d p va l table = .page pg) :
    ∃ j, pg.bytes = 2^levelShift j := by
  induction l generalizing table with
  | zero =>
    unfold walkFrom at h
    split at h
    · cases h
    · dsimp only at h
      split at h <;> [cases h; split at h <;> [cases h; split at h <;> [split at h <;> cases h; cases h]]]
      exact ⟨0, rfl⟩
  | succ l ih =>
    unfold walkFrom at h
    split at h
    · cases h
    · dsimp only at h
      split at h <;> [cases h; split at h <;> [cases h; split at h <;> [split at h <;> cases h; exact ih h]]]
      exact ⟨l + 1, rfl⟩

theorem State.pageRange_spec (s : State) (p : Nat) (va : W64) : ∃ j, 16 ≤ j ∧
    s.pageRange p va = (va.toNat / 2^j * 2^j, va.toNat / 2^j * 2^j + 2^j) := by
  unfold State.pageRange
  split
  · next pg hpg =>
    obtain ⟨j, hj⟩ := walkFrom_bytes hpg
    exact ⟨_, levelShift_ge j, by rw [hj]⟩
  · exact ⟨_, levelShift_ge _, rfl⟩

/-- A register based in the 64 KB of the address is of its page. -/
theorem State.invHit_of_near {s : State} {g : Group} {f : FS} {x : AddrReg} (k : TlbKind)
    (h : x.base.toNat / 2^16 = (g.spair f.ra.toNat).toNat / 2^16) : s.invHit g f k x = true := by
  cases k with
  | areg => rfl
  | all => rfl
  | page =>
    obtain ⟨j, hj, hr⟩ := s.pageRange_spec (s.partOf g) (g.spair f.ra.toNat)
    have hdiv : x.base.toNat / 2^j = (g.spair f.ra.toNat).toNat / 2^j := by
      rw [show j = 16 + (j - 16) by omega, pow_add, ← Nat.div_div_eq_div_mul, ← Nat.div_div_eq_div_mul, h]
    have hlo := Nat.div_mul_le_self x.base.toNat (2^j)
    have hhi := Nat.lt_div_mul_add (a := x.base.toNat) (Nat.two_pow_pos j)
    unfold State.invHit AddrReg.meets
    dsimp only
    rw [hr, ← hdiv]
    simp [hlo, hhi]

/-! ## PMAP -/

/-- Every group is there in `t` with its registers, but for reservations. -/
def KeepsGroups (s t : State) : Prop := ∀ c g, s.group? c = some g → ∃ k, t.group? c = some k ∧ Resv g k

theorem KeepsGroups.refl (s : State) : KeepsGroups s s := fun _ g h => ⟨g, h, Resv.refl g⟩

theorem KeepsGroups.trans {s t u : State} (a : KeepsGroups s t) (b : KeepsGroups t u) : KeepsGroups s u := fun c g h => by
  obtain ⟨k, hk, r1⟩ := a c g h
  obtain ⟨l, hl, r2⟩ := b c k hk
  exact ⟨l, hl, r1.trans r2⟩

theorem KeepsGroups.of_eq {s t : State} (h : t.groups = s.groups) : KeepsGroups s t := fun c g hg =>
  ⟨g, by rw [← hg, State.group?, State.group?, h], Resv.refl g⟩

theorem KeepsGroups.breakResv (s : State) (a n : Nat) (own : Option (Nat × Nat)) : KeepsGroups s (s.breakResv a n own) := fun c g hg => by
  refine ⟨_, (Table.get?_mapAll s.groups c (Group.afterStore s a n own)).trans (congrArg (Option.map _) hg), Resv.afterStore s a n own c g⟩

theorem KeepsGroups.store (s : State) (a : Nat) (bs : List Byte) (own : Option (Nat × Nat)) : KeepsGroups s (s.store a bs own) := fun c g hg =>
  ⟨_, (State.group?_store s a bs own c).trans (congrArg (Option.map _) hg), Resv.afterStore s a bs.length own c g⟩

theorem KeepsGroups.zero (s : State) (a n : Nat) : KeepsGroups s (s.zero a n) := by
  unfold State.zero
  dsimp only
  refine KeepsGroups.trans (KeepsGroups.of_eq ?_) (KeepsGroups.breakResv _ a n none)
  exact foldl_field State.groups (f := State.ckCopy) (fun _ _ => rfl) _ s

/-- The walk of PMAP ends at a leaf's place, or its status is not 0 (R359). -/
theorem pmapWalk_status {m : List Host.Cell} {d : Device} {p va lv l table n : Nat} (h : pmapWalk m d p va lv l table = .status n) : n ≠ 0 := by
  induction l generalizing table with
  | zero =>
    unfold pmapWalk at h
    split at h
    · cases h; decide
    · dsimp only at h
      split at h <;> [split at h <;> [cases h; split at h <;> cases h]; split at h <;> [cases h; split at h <;> cases h]] <;> decide
  | succ l ih =>
    unfold pmapWalk at h
    split at h
    · cases h; decide
    · dsimp only at h
      split at h
      · split at h <;> [cases h; split at h <;> cases h]
        decide
      · split at h
        · cases h; decide
        · split at h
          · cases h; decide
          · exact ih h

theorem alignUp_mod (n : Nat) {k : Nat} : alignUp n k % k = 0 := Nat.mul_mod_left _ _

/-- What a mapping of status 0 leaves (R359): the groups, and a pool that stands, aligned, within its size. -/
structure Mapped (s u : State) (p lv : Nat) : Prop where
  groups : KeepsGroups s u
  next : (u.part p).poolnext.toNat ≤ (s.part p).poolsize.toNat
  aligned : (u.part p).poolnext.toNat % 2^levelShift lv = 0

/-- PMAP leaves the machine as it was, with a status other than 0, or maps the page. -/
theorem State.pmap_spec (s : State) (p : Nat) (va lv attr : Nat) :
    (∃ n, n ≠ 0 ∧ s.pmap p va lv attr = (s, n)) ∨ ∃ u, s.pmap p va lv attr = (u, 0) ∧ Mapped s u p lv := by
  unfold State.pmap
  dsimp only
  have mapped (t : State) (f : Nat) (hk : KeepsGroups s t) (hf : f % 2^levelShift lv = 0)
      (hs : f + 2^levelShift lv ≤ (s.part p).poolsize.toNat) :
      Mapped s (t.updPart p (fun x => { x with poolnext := BitVec.ofNat 64 (f + 2^levelShift lv) })) p lv := by
    have hn : (BitVec.ofNat 64 (f + 2^levelShift lv)).toNat = f + 2^levelShift lv := by
      rw [BitVec.toNat_ofNat, Nat.mod_eq_of_lt (lt_of_le_of_lt hs (s.part p).poolsize.isLt)]
    refine ⟨hk.trans (KeepsGroups.of_eq rfl), ?_, ?_⟩
    · simpa only [State.part_updPart, if_true, hn] using hs
    · simp only [State.part_updPart, if_true, hn, Nat.add_mod_right, hf]
  have leaf (t : State) (a b n : Nat) (bs : List Byte) (hk : KeepsGroups s t) : KeepsGroups s (((t.zero a n).zeroViews a n).store b bs none) :=
    ((hk.trans (KeepsGroups.zero t a n)).trans (KeepsGroups.of_eq (t := (t.zero a n).zeroViews a n) rfl)).trans (KeepsGroups.store _ b bs none)
  split
  · exact .inl ⟨3, by decide, rfl⟩
  · split
    · next n hw => exact .inl ⟨n, pmapWalk_status hw, rfl⟩
    · simp only [Option.isSome_none, Bool.false_eq_true, if_false]
      split
      · exact .inl ⟨2, by decide, rfl⟩
      · next hs =>
        split
        · exact .inr ⟨_, rfl, mapped _ _ (leaf s _ _ _ _ (KeepsGroups.refl s)) (alignUp_mod _) (not_lt.1 hs)⟩
        · exact .inl ⟨2, by decide, rfl⟩
    · simp only [Option.isSome_some, if_true]
      split
      · exact .inl ⟨2, by decide, rfl⟩
      · next hs =>
        split
        · exact .inr ⟨_, rfl, mapped _ _ (leaf _ _ _ _ _ ((KeepsGroups.zero s _ _).trans (KeepsGroups.store _ _ _ none))) (alignUp_mod _)
            (not_lt.1 hs)⟩
        · exact .inl ⟨2, by decide, rfl⟩

/-- An address below the window or off its alignment has status 3 (R359). -/
theorem State.pmap_outside {s : State} {p va lv : Nat} (attr : Nat) (h : va < (s.part p).ftwbase.toNat ∨ va % 2^levelShift lv ≠ 0) :
    s.pmap p va lv attr = (s, 3) := by
  unfold State.pmap
  dsimp only
  rw [if_pos (by simp only [Bool.or_eq_true, decide_eq_true_eq]; tauto)]

/-- What PMAP leaves before it writes its status: what stood cached for a page that it has mapped is gone (R312). -/
def State.pmapped (s : State) (f : FS) (g : Group) : State :=
  let r := s.pmap (s.partOf g) (g.spair f.ra.toNat).toNat (f.num.toNat % 4) f.num.toNat
  if r.2 = 0 then r.1.uncache (s.partOf g) (g.spair f.ra.toNat).toNat (2^levelShift (f.num.toNat % 4)) else r.1

theorem bodyPmap_eq {s u : State} {g : Group} {f : FS} {st : Nat} (act : Lanes)
    (h : (u, st) = s.pmap (s.partOf g) (g.spair f.ra.toNat).toNat (f.num.toNat % 4) f.num.toNat) :
    bodyPmap f s g act = .done ((s.pmapped f g).updGroup s.cur (fun k => k.setS f.rd.toNat (BitVec.ofNat 32 st))) := by
  unfold bodyPmap State.pmapped
  dsimp only
  rw [← h]

theorem KeepsGroups.pmap (s : State) (p va lv attr : Nat) : KeepsGroups s (s.pmap p va lv attr).1 := by
  rcases s.pmap_spec p va lv attr with ⟨n, -, h⟩ | ⟨u, h, hm⟩
  · rw [h]
    exact KeepsGroups.refl s
  · rw [h]
    exact hm.groups

/-- The group that maps a page keeps its PC, loops and windows. -/
theorem State.group?_pmapped {s : State} {g : Group} (f : FS) (hg : s.group? s.cur = some g) :
    ∃ k, (s.pmapped f g).group? s.cur = some k ∧ Steady g k := by
  obtain ⟨k, hk, r⟩ := KeepsGroups.pmap s (s.partOf g) (g.spair f.ra.toNat).toNat (f.num.toNat % 4) f.num.toNat _ _ hg
  unfold State.pmapped
  dsimp only
  split
  · refine ⟨_, (State.group?_dropLimits _ _ _ _).trans (congrArg (Option.map _) hk), r.steady.trans (State.shotDown_steady ..)⟩
  · exact ⟨k, hk, r.steady⟩

section
variable {s u : State} {g : Group} {f : FS} {st : Nat}

/-- PMAP completes: the group has the status, and what stands beside the groups is what the mapping left. -/
theorem pmap_completes (hi : Issues s g (.pmap f))
    (hu : (u, st) = s.pmap (s.partOf g) (g.spair f.ra.toNat).toNat (f.num.toNat % 4) f.num.toNat) :
    ∃ t h, exec (.pmap f) s = .next t ∧ t.group? s.cur = some h ∧ Advanced g h ∧ Rest (s.pmapped f g) t ∧
      (¬ landsS g f.rd.toNat → h.sreg f.rd.toNat = BitVec.ofNat 32 st) := by
  obtain ⟨k, hk, hst⟩ := State.group?_pmapped f hi.here
  obtain ⟨t, h, he, hh, hadv, hsame, hrest, -⟩ := exec_done (k := k.setS f.rd.toNat (BitVec.ofNat 32 st)) (fun _ => rfl) hi (by rfl)
    (bodyPmap_eq _ hu) (by rw [State.group?_updGroup, if_pos rfl, hk]; rfl) ⟨hst.pc, hst.lc, hst.nest, hst.windows⟩
  refine ⟨t, h, he, hh, hadv, (Rest.updGroup ..).trans hrest, fun hn => ?_⟩
  rw [hsame.scal _ (by rintro (h1 | ⟨_, h1, _⟩) <;> [exact hn h1; cases h1]), Group.sreg_setS, if_pos rfl]

/-- With a status other than 0 PMAP writes its status alone. -/
theorem pmap_refused (hi : Issues s g (.pmap f))
    (hu : (u, st) = s.pmap (s.partOf g) (g.spair f.ra.toNat).toNat (f.num.toNat % 4) f.num.toNat) (h0 : st ≠ 0) :
    Completes s g (.pmap f) { scal := fun r => r = f.rd.toNat } (fun _ => True) := by
  have hsame : s.pmapped f g = s := by
    unfold State.pmapped
    dsimp only
    rw [← hu, if_neg h0]
    rcases s.pmap_spec (s.partOf g) (g.spair f.ra.toNat).toNat (f.num.toNat % 4) f.num.toNat with ⟨n, -, h⟩ | ⟨v, h, -⟩
    · exact congrArg Prod.fst (hu.trans h)
    · exact absurd (congrArg Prod.snd (hu.trans h)) h0
  have hb := bodyPmap_eq (actOf g (.pmap f)) hu
  rw [hsame] at hb
  have hr := reachOf_eq (i := .pmap f) (fun _ => rfl) s g
  refine completes_at (u := s.updGroup s.cur (fun k => k.setS f.rd.toNat (BitVec.ofNat 32 st))) (g' := g.setS f.rd.toNat (BitVec.ofNat 32 st))
    (by simp) hi (by rfl) (body := bodyPmap f) ?_ ?_ (Rest.updGroup ..) (OthersAt.updGroup ..) ?_ ?_ (fun _ => trivial)
  · rw [State.reached_eq (fun _ => rfl), hr]
    exact hb
  · rw [State.group?_updGroup, if_pos rfl, hi.here]
    rfl
  · rw [hr]
    exact ⟨rfl, rfl, rfl, rfl⟩
  · rw [hr]
    exact (Same.of_setS g f.rd.toNat _).mono _ (scal := fun _ h => .inl h)

end

/-- No translation is cached for the bytes of a page that has been mapped. -/
theorem State.uncache_uncovered {s : State} {p va n : Nat} {x : W64} (h1 : va ≤ x.toNat) (h2 : x.toNat < va + n) :
    ∀ c ∈ ((s.uncache p va n).part p).tlb, c.covers x = false := by
  intro c hc
  have hp : (s.uncache p va n).part p = (s.dropTlb p (·.meets va (va + n))).part p := rfl
  rw [hp, State.part_dropTlb, if_pos rfl] at hc
  have hm : c.meets va (va + n) = false := by simpa using (List.mem_filter.1 hc).2
  simp only [Cached.meets, Bool.and_eq_false_iff, decide_eq_false_iff_not] at hm
  simp only [Cached.covers, Bool.and_eq_false_iff, decide_eq_false_iff_not]
  omega

theorem State.uncache_poolnext (s : State) (p va n : Nat) : ((s.uncache p va n).part p).poolnext = (s.part p).poolnext := by
  have hp : (s.uncache p va n).part p = (s.dropTlb p (·.meets va (va + n))).part p := rfl
  rw [hp, State.part_dropTlb, if_pos rfl]

theorem Rest.part {s t : State} (h : Rest s t) (p : Nat) : t.part p = s.part p := by
  obtain ⟨-, -, hparts, -, -⟩ := h.parts
  rw [State.part, State.part, hparts]

/-- Settles O38, form by form. -/
theorem systemFormsComplete : Obligations.SystemFormsComplete := by
  unfold Obligations.SystemFormsComplete
  intro s g b f hi v hb hv
  refine ⟨?abind, fun h ha => mtsr_ignored h ha, ?mtsr, ?pmap, ?tlbinv, ?waits, fun k x hx => State.invHit_of_near k hx⟩
  case abind =>
    intro f base hbase h hc
    subst hbase
    obtain ⟨t, k, he, hk, hrest, hothers, hadv, hsame, hrel, hP⟩ := abind_completes h hc
    refine ⟨t, k, he, hk, hrest, hothers, hadv, hsame, hrel, ?_⟩
    dsimp only
    rw [hP]
    exact ⟨bindAddr_base .., fun pg hw hrw => bindAddr_page hw hrw, fun hw => bindAddr_no_page hw⟩
  case mtsr =>
    intro h ha
    obtain ⟨t, k, he, hk, hrest, hadv, hsame, hepc, hmask, hfp, hbw⟩ := mtsr_writes h hb hv ha
    exact ⟨t, k, he, hk, hrest, hadv, hsame, by rw [hepc, setHalf_eq], hmask, hfp, hbw⟩
  case pmap =>
    intro p va u st hp hva hu h
    subst hp hva
    obtain ⟨t, k, he, hk, hadv, hrest, hrd⟩ := pmap_completes h hu
    have hu1 : s.pmap (s.partOf g) (g.spair f.ra.toNat).toNat (f.num.toNat % 4) f.num.toNat = (u, st) := hu.symm
    have hnext : (t.part (s.partOf g)).poolnext = (u.part (s.partOf g)).poolnext := by
      rw [hrest.part, State.pmapped, hu1]
      dsimp only
      split
      · exact State.uncache_poolnext ..
      · rfl
    refine ⟨t, k, he, hk, hadv, ?_, hrd, hnext, pmap_refused h hu, ?_, ?_, ?_⟩
    · obtain ⟨hmem, -⟩ := hrest.mem
      rw [hmem, State.pmapped, hu1]
      dsimp only
      split <;> rfl
    · intro h0 x h1 h2
      refine cachedPage_of_uncovered (hrest.part (s.partOf g) ▸ ?_)
      rw [State.pmapped, hu1]
      dsimp only
      rw [if_pos h0]
      exact State.uncache_uncovered h1 h2
    · intro hout
      exact congrArg Prod.snd (hu.trans (State.pmap_outside _ hout))
    · intro h0
      rcases s.pmap_spec (s.partOf g) (g.spair f.ra.toNat).toNat (f.num.toNat % 4) f.num.toNat with ⟨n, hn, hm⟩ | ⟨w, hm, mapped⟩
      · exact absurd ((congrArg Prod.snd (hu.trans hm)).symm.trans h0) hn
      · have huw : u = w := congrArg Prod.fst (hu.trans hm)
        rw [hnext, huw]
        exact ⟨mapped.next, mapped.aligned⟩
  case tlbinv =>
    intro k h hst
    obtain ⟨t, y, he, hy, hadv, hsame, hrest, hothers⟩ := tlbinv_completes hb h hst
    have hpart (q : Nat) : t.part q = { s.part q with
        tlb := if q = s.partOf g then (s.part q).tlb.filter (fun c => !s.invTlb g f k c) else (s.part q).tlb } := by
      refine (hrest.part q).trans ((State.part_dropTlb s (s.partOf g) (s.invTlb g f k) q).trans ?_)
      by_cases hq : q = s.partOf g
      · subst hq
        rw [if_pos rfl, if_pos rfl]
      · rw [if_neg hq, if_neg hq]
    have hareg (r : Nat) : y.areg r = (g.dropLimits (s.invHit g f k)).areg r := hsame.addr r id
    refine ⟨t, y, he, hy, hadv, ?_, hpart, ?_, ?_, ?_, ?_, ?_, ?_, ?_⟩
    · obtain ⟨hquads, hcores, -, hvfs, hdev⟩ := hrest.parts
      exact ⟨hrest.mem, hrest.work, hrest.nodes, ⟨hquads, hcores, rfl, hvfs, hdev⟩, hrest.turn⟩
    · intro va hk hva
      subst hk hva
      refine cachedPage_of_uncovered (fun c hc => ?_)
      rw [hpart, if_pos rfl] at hc
      have hno := (List.mem_filter.1 hc).2
      simp only [State.invTlb, Bool.not_eq_true', Bool.or_eq_false_iff] at hno
      exact hno.1
    · intro hk
      subst hk
      rw [hpart, if_pos rfl]
      simp [State.invTlb]
    · have sw := (Same.of_dropLimits g (s.invHit g f k)).mono
        (({ ({} : Touches) with addr := fun r => s.invHit g f k (g.areg r) = true } : Touches).retire (.tlbinv f k) g)
      exact sw.trans (Same.retire { ({} : Touches) with addr := fun r => s.invHit g f k (g.areg r) = true } hsame (fun _ hv => hv))
    · intro r
      rw [hareg]
      exact ⟨Group.areg_dropLimits_base .., fun hr hhit => Group.areg_dropLimits_hit hr hhit⟩
    · intro j x hj hx
      have hgj : (s.invalidate g f k).group? j = some (s.shotDown (s.partOf g) (s.invHit g f k) x) := by
        rw [State.group?_invalidate, hx, Option.map_some]
      obtain ⟨yy, hty⟩ := hothers.group hj hgj
      exact ⟨_, hty, State.shotDown_fields .., State.shotDown_base s _ _ x, fun c r hr hc hcp hhit => State.shotDown_hit hr hc hcp hhit,
        fun r hr => State.shotDown_kept hr⟩
    · intro j hj
      have hne : j ≠ s.cur := by
        rintro rfl
        rw [h.here] at hj
        cases hj
      exact hothers.group_none hne (by rw [State.group?_invalidate, hj, Option.map_none])
    · intro j
      have hblk := congrArg (Option.map (fun x : Block => { x with compact := none })) (hothers.blocks j)
      simp only [Option.map_map] at hblk
      exact hblk.trans (State.blocks_dropLimits (s.dropTlb (s.partOf g) (s.invTlb g f k)) _ _ j)
  case waits =>
    intro k h hst
    obtain ⟨t, y, he, hy, hpc, hareg⟩ := tlbinv_waits hb h hst
    exact ⟨t, y, he, hy, hpc, fun r hr hhit => by rw [hareg, Group.areg_dropLimits_hit hr hhit]⟩

end Sys2Proof.Machine
end

section
/-! SUPPORT. EXIT (R28, R170, R176) of lanes without a will from a group without an open construct: the lanes that stay, and the group
that retires, with the proof of O22. -/

namespace Sys2Proof.Machine

/-! ## States with the same groups and blocks -/

/-- `t` has the groups, the blocks and the memory of `s`. -/
structure Alike (s t : State) : Prop where
  groups : ∀ k, t.group? k = s.group? k
  blocks : ∀ b, t.block? b = s.block? b
  mem : t.mem = s.mem
  cur : t.cur = s.cur

theorem Alike.refl (s : State) : Alike s s := ⟨fun _ => rfl, fun _ => rfl, rfl, rfl⟩
theorem Alike.trans {s t u : State} (a : Alike s t) (b : Alike t u) : Alike s u :=
  ⟨fun k => (b.groups k).trans (a.groups k), fun k => (b.blocks k).trans (a.blocks k), b.mem.trans a.mem, b.cur.trans a.cur⟩

/-- A group that is written back as it stands. -/
theorem Alike.setGroup {s : State} {k : Nat} {g : Group} (h : s.group? k = some g) : Alike s (s.setGroup k g) :=
  ⟨fun j => by
    rw [State.group?_setGroup]
    split
    · next hj => rw [hj, h]
    · rfl, fun _ => rfl, rfl, rfl⟩

theorem Alike.reached {s : State} {g : Group} (h : s.group? s.cur = some g) (hw : g.windows = []) (i : Instr) : Alike s (s.reached g i) := by
  rcases State.reached_of_nil (s := s) hw i with e | e
  · rw [e]
    exact Alike.refl s
  · rw [e]
    exact Alike.setGroup h

/-! ## Wills -/

/-- Lanes without wills give none. -/
theorem willsOf_eq_nil {g : Group} {act : Lanes} (h : ∀ l, l < 32 → act.getLsbD l → (g.lane l).will = none) : willsOf g act = [] := by
  unfold willsOf
  rw [List.filterMap_eq_nil_iff]
  intro l hl
  obtain ⟨h1, h2⟩ := mem_lanesOf.1 hl
  rw [h l h1 h2]

theorem willBad_nil (g : Group) (act : Lanes) : willBad g act [] = none := by
  unfold willBad badTrapOf
  rw [List.flatMap_eq_nil_iff.2 (fun l _ => by simp)]

/-- Giving no will changes at most the record of the launch. -/
theorem Alike.giveWills_nil (s : State) (c : Nat) (g : Group) : Alike s (s.giveWills c g []) := by
  unfold State.giveWills
  split
  · exact Alike.refl s
  · split
    · exact Alike.refl s
    · split
      · exact Alike.refl s
      · exact ⟨fun _ => rfl, fun _ => rfl, rfl, rfl⟩

/-- What EXIT of lanes without wills comes to. -/
theorem bodyExit_eq {s : State} {g : Group} {act : Lanes} (f : FC) (ha : act ≠ 0) (hw : ∀ l, l < 32 → act.getLsbD l → (g.lane l).will = none) :
    bodyExit f s g act = .jump ((s.giveWills s.cur g []).endLanes s.cur act) := by
  unfold bodyExit
  rw [if_neg ha, willsOf_eq_nil hw]
  dsimp only
  rw [willBad_nil]
  rfl

/-! ## Lanes leave -/

/-- The group once the lanes of `a` have left it (R176, R366). -/
def Group.without (g : Group) (a : Lanes) : Group :=
  { g with
    occ := g.occ &&& ~~~a, path := g.path &&& ~~~a, em := g.em &&& ~~~a, hset := g.hset &&& ~~~a, emaskf := g.emaskf &&& ~~~a
    fair := if g.path &&& a = 0 then g.fair else 0
    saved := g.saved.map (fun (v : Saved) =>
      { v with path := v.path &&& ~~~a, em := v.em &&& ~~~a, fair := if v.path &&& a = 0 then v.fair else 0 })
    hseg := g.hseg.map (fun (e : Entry) => e.without a)
    lanes := (List.range 32).map (fun l => if a.getLsbD l then {} else g.lane l) }

theorem Group.lane_without (g : Group) (a : Lanes) {l : Nat} (hl : l < 32) : (g.without a).lane l = if a.getLsbD l then {} else g.lane l := by
  unfold Group.lane Group.without
  simp [List.getD, List.getElem?_map, List.getElem?_range hl, Group.lane]

/-- The block once the lanes of `a` of group `c` have left it. -/
def Block.without (b : Block) (c : Nat) (a : Lanes) : Block :=
  { b with
    stack := b.stack.map (fun e => if e.owner = c then e.without a else e)
    compact := b.compact.map (fun k => { k with places := k.places.filter (fun x => !(x.1.1 == c && a.getLsbD x.1.2)) }) }

theorem and_of_andNot {a o : Lanes} (h : a &&& ~~~o = 0) : a &&& o = a := by
  apply BitVec.eq_of_getLsbD_eq
  intro l hl
  have e := congrArg (·.getLsbD l) h
  simp only [BitVec.getLsbD_and, BitVec.getLsbD_not, hl] at e
  rw [BitVec.getLsbD_and]
  cases hx : a.getLsbD l <;> cases hy : o.getLsbD l <;> simp_all

theorem State.dropLanes_eq {s : State} {c : Nat} {g : Group} {a : Lanes} (hg : s.group? c = some g) (ha : a &&& ~~~g.occ = 0) :
    s.dropLanes c a = (s.setGroup c (g.without a).goOn).updBlock g.blk (fun b => b.without c a) := by
  unfold State.dropLanes
  rw [hg]
  dsimp only
  rw [and_of_andNot ha]
  rfl

/-- What going on in sequence writes (R176). -/
theorem Group.goOn_eq (g : Group) : ∃ pc lc nest, g.goOn = { g with pc := pc, lc := lc, nest := nest } := by
  unfold Group.goOn
  split
  · exact ⟨_, _, _, rfl⟩
  · exact g.advance_eq

theorem Group.goOn_of_path {g : Group} (h : g.path ≠ 0) : g.goOn = g.advance := if_neg h

/-- The group that goes on keeps PC and loops of the advance of the group as it was. -/
theorem Group.goOn_without {g : Group} {a : Lanes} (h : g.path &&& ~~~a ≠ 0) : (g.without a).goOn.pc = g.advance.pc ∧
    (g.without a).goOn.lc = g.advance.lc ∧ (g.without a).goOn.nest = g.advance.nest := by
  rw [Group.goOn_of_path h]
  exact Group.advance_congr rfl rfl rfl

/-- What EXIT leaves of a user-level group and its block before the group settles. -/
structure Left (s t : State) (c : Nat) (g : Group) (b : Block) (a : Lanes) : Prop where
  group : t.group? c = some (g.without a).goOn
  block : t.block? g.blk = some (b.without c a)
  others : ∀ k, k ≠ c → t.group? k = s.group? k
  mem : t.mem = s.mem

section
variable {s u : State} {c : Nat} {g : Group} {b : Block} {a : Lanes}

theorem State.dropLanes_left (hg : s.group? c = some g) (hb : s.block? g.blk = some b) (ha : a &&& ~~~g.occ = 0) :
    Left s (s.dropLanes c a) c g b a := by
  rw [State.dropLanes_eq hg ha]
  refine ⟨by simp, by simp [hb], fun k hk => ?_, rfl⟩
  rw [State.updBlock_groupAt, State.group?_setGroup, if_neg hk]

/-- The entries of a group at user level are those of its block's stack. -/
theorem State.ownEntries_user (hsup : g.supervisor = false) (hb : s.block? g.blk = some b) :
    s.ownEntries c g = b.stack.filter (fun e => e.owner == c) := by
  unfold State.ownEntries
  rw [hsup, hb]
  rfl

/-- A group that has no entries has none after lanes have left it. -/
theorem Left.ownEntries (hl : Left s u c g b a) (hb : s.block? g.blk = some b) (hsup : g.supervisor = false) (he : s.ownEntries c g = []) :
    u.ownEntries c (g.without a).goOn = [] := by
  obtain ⟨pc, lc, nest, hgo⟩ := (g.without a).goOn_eq
  have hu : u.block? (g.without a).goOn.blk = some (b.without c a) := by
    rw [hgo]
    exact hl.block
  rw [State.ownEntries_user hsup hb] at he
  rw [State.ownEntries_user (by rw [hgo]; exact hsup) hu]
  have hno : ∀ e ∈ b.stack, e.owner ≠ c := fun e hm => by simpa using List.filter_eq_nil_iff.1 he e hm
  refine List.filter_eq_nil_iff.2 (fun e hm => ?_)
  obtain ⟨x, hx, rfl⟩ := List.mem_map.1 hm
  rw [if_neg (hno x hx)]
  simpa using hno x hx

/-- The group settles with nothing open: it runs on, or ends where no path is left (R170). -/
theorem Left.settleGroup (hl : Left s u c g b a) (hb : s.block? g.blk = some b) (hsup : g.supervisor = false) (he : s.ownEntries c g = []) :
    ∃ (v : State) (stack : List Entry), v.group? c = some (g.without a).goOn ∧ v.block? g.blk = some { b.without c a with stack := stack } ∧
      (∀ k, k ≠ c → v.group? k = s.group? k) ∧ v.mem = s.mem ∧
      u.settleGroup c = if g.path &&& ~~~a = 0 then v.groupEnds c (g.without a).goOn else v := by
  have hown := hl.ownEntries hb hsup he
  obtain ⟨pc, lc, nest, hgo⟩ := (g.without a).goOn_eq
  have hset : settle (g.without a).goOn [] = ((g.without a).goOn, []) := settle_of_none (by rfl)
  have hfields : (g.without a).goOn.blk = g.blk ∧ (g.without a).goOn.supervisor = false ∧ (g.without a).goOn.path = g.path &&& ~~~a := by
    rw [hgo]
    exact ⟨rfl, hsup, rfl⟩
  obtain ⟨hblk, hsup', hpath⟩ := hfields
  refine ⟨(u.setGroup c (g.without a).goOn).updBlock g.blk (fun b => { b with stack := b.stack.filter (fun e => e.owner != c) ++ [] }),
    (b.without c a).stack.filter (fun e => e.owner != c) ++ [], by simp, ?_, ?_, ?_, ?_⟩
  · rw [State.block?_updBlock, if_pos rfl, State.setGroup_blockAt, hl.block]
    rfl
  · intro k hk
    rw [State.updBlock_groupAt, State.group?_setGroup, if_neg hk, hl.others k hk]
  · exact hl.mem
  · unfold State.settleGroup
    rw [hl.group]
    dsimp only
    rw [hown, hset]
    unfold State.putPath
    dsimp only
    rw [hsup', hblk, hpath]
    simp

/-! ## The group retires -/

/-- A group of which the last path has ended (R28, R46). -/
def Group.retired (g : Group) : Group := { g with st := .retired, path := 0, em := 0, occ := 0, windows := [], latch := [], due := [] }

theorem mem_of_get? {β : Type} {m : List (Nat × β)} {k : Nat} {x : β} (h : Table.get? m k = some x) : (k, x) ∈ m := by
  induction m with
  | nil => cases h
  | cons y r ih =>
    obtain ⟨j, w⟩ := y
    unfold Table.get? at h
    split at h
    · next hj =>
      cases h
      exact hj ▸ List.mem_cons_self ..
    · exact List.mem_cons_of_mem _ (ih h)

/-- With a group of the block left, a group that holds no claim back and has no cause due retires alone (R28, R48). -/
theorem State.retireGroup_alone {k : Nat} {x : Group} (hg : s.group? c = some g) (hb : s.block? g.blk = some b) (hsol : b.solstice = false)
    (hdue : g.due = []) (hcl : b.claims = []) (hk : k ≠ c) (hx : s.group? k = some x) (hxb : x.blk = g.blk) (hxs : x.st ≠ .retired) :
    ∃ nbs, (s.retireGroup c).group? c = some g.retired ∧ (s.retireGroup c).mem = s.mem ∧ (s.retireGroup c).block? g.blk =
      some { b with pool := b.pool + g.budget, stack := b.stack.filter (fun e => e.owner != c), nbs := nbs } := by
  let u := (s.setGroup c g.retired).updBlock g.blk
    (fun b => { b with pool := b.pool + g.budget, stack := b.stack.filter (fun e => e.owner != c) })
  have hub : u.block? g.blk = some { b with pool := b.pool + g.budget, stack := b.stack.filter (fun e => e.owner != c) } := by
    simp [u, hb]
  have husol : u.isSolstice g.blk = false := (State.isSolstice_of_block hub).trans hsol
  have hserve : u.serveAll g.blk = u := by
    unfold State.serveAll
    rw [hub]
    dsimp only
    rw [hcl]
    rfl
  have hlive : ((u.checkBars g.blk).liveGroups g.blk).isEmpty = false := by
    have hux : u.group? k = some x := by rw [State.updBlock_groupAt, State.group?_setGroup, if_neg hk, hx]
    have hm : (k, x) ∈ (u.checkBars g.blk).liveGroups g.blk :=
      List.mem_filter.2 ⟨mem_of_get? hux, by simp [hxb, hxs]⟩
    cases hq : (u.checkBars g.blk).liveGroups g.blk with
    | nil => rw [hq] at hm; cases hm
    | cons y r => rfl
  have hcb : (u.checkBars g.blk).block? g.blk = some { b with
      pool := b.pool + g.budget, stack := b.stack.filter (fun e => e.owner != c)
      nbs := Table.mapAll b.nbs (fun _ n => n.check (u.liveGroups g.blk).length) } := by
    unfold State.checkBars
    rw [State.block?_updBlock, if_pos rfl, hub]
    rfl
  have hret : s.retireGroup c = u.checkBars g.blk := by
    unfold State.retireGroup
    rw [hg]
    dsimp only
    rw [hdue]
    change State.retireBlock (if u.isSolstice g.blk then u else (u.serveAll g.blk).checkBars g.blk) g.blk = _
    rw [husol, hserve, if_neg Bool.false_ne_true]
    unfold State.retireBlock
    rw [hcb]
    dsimp only
    rw [hlive]
    simp
  rw [hret]
  exact ⟨_, by simp [u, State.checkBars], rfl, hcb⟩

end

/-! ## O22 -/

section
variable {s : State} {g : Group} {b : Block} {f : FC}

/-- A group of which no compaction of its block is open ends by retiring (R170, R176). -/
theorem State.groupEnds_retires {v : State} {c : Nat} {h : Group} {x y : Block} (hx : v.block? h.blk = some x) (hc : x.compact = none)
    (hy : (v.retireGroup c).block? h.blk = some y) (hyc : y.compact = none) : v.groupEnds c h = v.retireGroup c := by
  have hin : v.inCompaction c h = false := by
    unfold State.inCompaction
    rw [hx]
    dsimp only
    rw [hc]
  have hmeet : (v.retireGroup c).meetings h.blk = v.retireGroup c := by
    unfold State.meetings State.meetCheck State.joinCheck
    simp only [hy, hyc, ite_self]
  unfold State.groupEnds
  rw [hin, hmeet]
  rfl

/-- EXIT with active lanes and no will: the next state, from what is left once the group has settled. -/
theorem exit_next {act : Lanes} (hi : Issues s g (.exit f)) (hact : act = actOf g (.exit f)) (hb : s.block? g.blk = some b)
    (hsup : g.supervisor = false) (hw : ∀ l, l < 32 → act.getLsbD l → (g.lane l).will = none) (he : s.ownEntries s.cur g = [])
    (hocc : act &&& ~~~g.occ = 0) (hwin : g.windows = []) (ha : act ≠ 0) :
    ∃ (v : State) (stack : List Entry), v.group? s.cur = some (g.without act).goOn ∧
      v.block? g.blk = some { b.without s.cur act with stack := stack } ∧
      (∀ k, k ≠ s.cur → v.group? k = s.group? k) ∧ v.mem = s.mem ∧
      exec (.exit f) s = .next ((if g.path &&& ~~~act = 0 then v.groupEnds s.cur (g.without act).goOn else v).retireInstr s.cur g (.exit f) none) := by
  subst hact
  have hr := reachOf_of_nil hwin s (.exit f)
  have alike : Alike s ((s.reached g (.exit f)).giveWills s.cur g []) :=
    (Alike.reached hi.here hwin _).trans (Alike.giveWills_nil _ _ _)
  have hu := alike.groups s.cur
  rw [hi.here] at hu
  have hub : ((s.reached g (.exit f)).giveWills s.cur g []).block? g.blk = some b := (alike.blocks g.blk).trans hb
  have hent : ((s.reached g (.exit f)).giveWills s.cur g []).ownEntries s.cur g = [] := by
    rw [State.ownEntries_user hsup hub, ← State.ownEntries_user hsup hb, he]
  have left := State.dropLanes_left hu hub hocc
  obtain ⟨v, stack, hv, hvb, hvo, hvm, hset⟩ := left.settleGroup hub hsup hent
  refine ⟨v, stack, hv, hvb, fun k hk => (hvo k hk).trans (alike.groups k), hvm.trans alike.mem, ?_⟩
  have hnosup : (g.without (actOf g (.exit f))).goOn.supervisor = false := by
    obtain ⟨pc, lc, nest, hgo⟩ := (g.without (actOf g (.exit f))).goOn_eq
    rw [hgo]
    exact hsup
  rw [exec_conclude (by simp) hi (by rfl) (body := bodyExit f), hr, bodyExit_eq f ha hw, State.cur_reached]
  unfold State.endLanes
  dsimp only
  rw [left.group]
  dsimp only
  rw [hnosup, Bool.false_and, if_neg Bool.false_ne_true, hset]
  rfl

/-- EXIT releases no register. -/
theorem released_exit (f : FC) : released (useOf (.exit f)) = [] := rfl

end

/-- Settles O22: no lane, some lanes, all lanes. -/
theorem exitEndsLanes : Obligations.ExitEndsLanes := by
  unfold Obligations.ExitEndsLanes
  intro s g f b act hi hact hb hsup hw he _ hocc _ hwin
  refine ⟨?none, ?some, ?all⟩
  case none =>
    intro ha
    subst hact
    refine completes_unchanged (by simp) hi (by rfl) (body := bodyExit f) ?_
    unfold bodyExit
    rw [if_pos ha]
  case some =>
    intro ha hpath
    obtain ⟨v, stack, hv, hvb, hvo, hvm, hexec⟩ := exit_next hi hact hb hsup hw he hocc hwin ha
    rw [if_neg hpath] at hexec
    obtain ⟨q, h1, r1, o1⟩ := retireInstr_spec v s.cur g (.exit f) none hv
    obtain ⟨hmem, -⟩ := r1.mem
    obtain ⟨pc, lc, nest, hgo⟩ := (g.without act).goOn_eq
    have hpl := Group.goOn_without hpath
    rw [hgo] at hpl h1
    obtain ⟨latch, fair, hret⟩ := Group.retireOne_of_nil (k := { g.without act with pc := pc, lc := lc, nest := nest }) hwin g (.exit f)
    rw [hret, released_exit, Group.release_nil] at h1
    obtain ⟨hpc, hlc, hnest⟩ := hpl
    refine ⟨_, _, hexec, h1, hmem.trans hvm, rfl, rfl, rfl, hpc, hlc, hnest, rfl, rfl, ?_, ?_⟩
    · intro l r hl hlane hr
      refine congrArg (Lane.reg · r) ((Group.lane_without g act hl).trans ?_)
      rw [hlane]
      rfl
    · intro l hl hlane
      refine (Group.lane_without g act hl).trans ?_
      rw [hlane]
      rfl
  case all =>
    intro ha hpath hsol _ hcomp hdue hclaims hother
    obtain ⟨k, x, hk, hx, hxb, hxs⟩ := hother
    obtain ⟨v, stack, hv, hvb, hvo, hvm, hexec⟩ := exit_next hi hact hb hsup hw he hocc hwin ha
    rw [if_pos hpath] at hexec
    obtain ⟨pc, lc, nest, hgo⟩ := (g.without act).goOn_eq
    rw [hgo] at hv hexec
    obtain ⟨nbs, hrg, hrm, hrb⟩ := State.retireGroup_alone (b := { b.without s.cur act with stack := stack }) hv hvb
      ((State.isSolstice_of_block hb).symm.trans hsol) hdue hclaims hk ((hvo k hk).trans hx) hxb hxs
    have hnone : (b.without s.cur act).compact = none := by
      unfold Block.without
      rw [hcomp]
      rfl
    rw [State.groupEnds_retires (h := { g.without act with pc := pc, lc := lc, nest := nest }) (x := { b.without s.cur act with stack := stack })
      hvb hnone hrb hnone] at hexec
    obtain ⟨q, h1, r1, o1⟩ := retireInstr_spec (v.retireGroup s.cur) s.cur g (.exit f) none hrg
    obtain ⟨n, hc⟩ := o1.block hrb
    obtain ⟨hmem, -⟩ := r1.mem
    obtain ⟨latch, fair, hret⟩ := Group.retireOne_of_nil (k := ({ g.without act with pc := pc, lc := lc, nest := nest } : Group).retired) rfl g (.exit f)
    rw [hret, released_exit, Group.release_nil] at h1
    exact ⟨_, _, _, hexec, h1, (hmem.trans hrm).trans hvm, rfl, rfl, rfl, hc, rfl⟩

end Sys2Proof.Machine
end

section
/-! SUPPORT. Transfers (R95, R170, R171, R173, R174): results of the path that land, a path and its entries put back, the owners of
entries. -/

namespace Sys2Proof.Machine

/-! ## Results of a transfer land -/

/-- What landing the windows of the running path leaves (R95). -/
structure PathLanded (g h : Group) : Prop where
  pc : h.pc = g.pc
  lc : h.lc = g.lc
  nest : h.nest = g.nest
  windows : ∀ v ∈ h.windows, v ∈ g.windows
  same : Same (windowTouches g.windows) g h

theorem Group.landPath_landed (g : Group) : PathLanded g g.landPath := by
  have st := foldl_steady Group.land_steady (g.windows.filter (Window.holds g.path)) g
  have sm : Same (windowTouches g.windows) g ((g.windows.filter (Window.holds g.path)).foldl Group.land g) :=
    windowTouches_mono (fun v hv => ⟨v, (List.mem_filter.1 hv).1, rfl⟩) (foldl_land_same _ g)
  exact ⟨st.pc, st.lc, st.nest, fun v hv => (List.mem_filter.1 hv).1, sm.trans (Same.of_eq _ (by simp [Group.landPath]))⟩

/-- Where no entry list is needed to tell: landing keeps the path, its mask, its entry, the mode and the block. -/
theorem Group.landPath_keeps (g : Group) : g.landPath.path = g.path ∧ g.landPath.em = g.em ∧ g.landPath.cur = g.cur ∧
    g.landPath.supervisor = g.supervisor ∧ g.landPath.hseg = g.hseg ∧ g.landPath.blk = g.blk ∧ g.landPath.st = g.st := by
  have h := g.landPath_landed.same
  obtain ⟨h1, -, h3, h4⟩ := h.path
  obtain ⟨h5, -, -, h6, -⟩ := h.mode
  obtain ⟨h7, -⟩ := h.ident
  exact ⟨h1, h.em id, h3, h5, h6, h7, h4⟩

/-! ## A group that differs in its path -/

/-- `h` is `g` but for the path, its mask, its PC and loops, its entry and the count of its instructions. -/
def PathOnly (g h : Group) : Prop :=
  ∃ path em pc cur fair lc nest, h = { g with path := path, em := em, pc := pc, cur := cur, fair := fair, lc := lc, nest := nest }

theorem PathOnly.trans {g h k : Group} (a : PathOnly g h) (b : PathOnly h k) : PathOnly g k := by
  obtain ⟨p, e, c, u, f, l, n, rfl⟩ := a
  obtain ⟨p', e', c', u', f', l', n', rfl⟩ := b
  exact ⟨p', e', c', u', f', l', n', rfl⟩

theorem PathOnly.refl (g : Group) : PathOnly g g := ⟨_, _, _, _, _, _, _, rfl⟩

theorem PathOnly.restart {g h : Group} (a : PathOnly g h) (g0 : Group) : PathOnly g (h.restart g0) := by
  obtain ⟨p, e, c, u, f, l, n, rfl⟩ := a
  exact ⟨p, e, c, u, _, l, n, rfl⟩

theorem PathOnly.goOn (g : Group) : PathOnly g g.goOn := by
  obtain ⟨pc, lc, nest, h⟩ := g.goOn_eq
  exact ⟨g.path, g.em, pc, g.cur, g.fair, lc, nest, h⟩

/-- Entries all of one owner. -/
def OwnedBy (own : Nat) (es : List Entry) : Prop := ∀ e ∈ es, e.owner = own

theorem OwnedBy.putEntry {own : Nat} {es : List Entry} {e : Entry} (h : OwnedBy own es) (he : e.owner = own) : OwnedBy own (putEntry es e) := by
  intro x hx
  obtain ⟨y, hy, rfl⟩ := List.mem_map.1 hx
  split
  · exact he
  · exact h y hy

theorem OwnedBy.filter {own : Nat} {es : List Entry} (h : OwnedBy own es) (p : Entry → Bool) : OwnedBy own (es.filter p) :=
  fun x hx => h x (List.mem_filter.1 hx).1

theorem OwnedBy.entryAt {own : Nat} {es : List Entry} {c : Option Nat} {e : Entry} (h : OwnedBy own es) (he : entryAt es c = some e) :
    e.owner = own := h e (List.mem_of_find?_eq_some he)

/-- Settling changes the path of a group (R170). -/
theorem settleLoop_path (n : Nat) (g : Group) (es : List Entry) : PathOnly g (settleLoop n g es).1 := by
  induction n generalizing g es with
  | zero => exact PathOnly.refl g
  | succ n ih =>
    unfold settleLoop
    split
    · exact PathOnly.refl g
    · split
      · dsimp only
        split
        · exact PathOnly.trans ⟨_, _, _, _, _, _, _, rfl⟩ (ih _ _)
        · exact PathOnly.trans ⟨_, _, _, _, _, _, _, rfl⟩ (ih _ _)
      · exact PathOnly.refl g

theorem settle_path (g : Group) (es : List Entry) : PathOnly g (settle g es).1 := (settleLoop_path (2 * es.length + 1) g es).restart g

/-- The entries that settling leaves have the owner that they had. -/
theorem settleLoop_owned {own : Nat} (n : Nat) (g : Group) (es : List Entry) (ho : OwnedBy own es) : OwnedBy own (settleLoop n g es).2 := by
  induction n generalizing g es with
  | zero => exact ho
  | succ n ih =>
    unfold settleLoop
    split
    · exact ho
    · next e he =>
      have howner : e.owner = own := ho.entryAt he
      split
      · dsimp only
        split
        · exact ih _ _ (ho.putEntry howner)
        · exact ih _ _ (ho.filter _)
      · exact ho

theorem settle_owned {own : Nat} (g : Group) (es : List Entry) (ho : OwnedBy own es) : OwnedBy own (settle g es).2 :=
  settleLoop_owned (2 * es.length + 1) g es ho

/-- A split changes the path of a group (R171). -/
theorem split_keeps_path (id own : Nat) (g : Group) (es : List Entry) (t : Lanes) (tpc fpc rpc : W64) (kind : EntryKind) :
    PathOnly g (split id own g es t tpc fpc rpc kind).1 := by
  unfold split
  dsimp only
  split
  · exact ⟨_, _, _, _, _, _, _, rfl⟩
  · split
    · exact ⟨_, _, _, _, _, _, _, rfl⟩
    · split <;> exact (PathOnly.trans ⟨_, _, _, _, _, _, _, rfl⟩ (settle_path _ _)).restart g

theorem split_owned (id own : Nat) (g : Group) (es : List Entry) (t : Lanes) (tpc fpc rpc : W64) (kind : EntryKind) (ho : OwnedBy own es) :
    OwnedBy own (split id own g es t tpc fpc rpc kind).2 := by
  have pushed (e : Entry) (he : e.owner = own) : OwnedBy own (es ++ [e]) := fun x hx => by
    rcases List.mem_append.1 hx with h | h
    · exact ho x h
    · rw [List.mem_singleton.1 h, he]
  unfold split
  dsimp only
  split
  · exact ho
  · split
    · exact ho
    · split <;> exact settle_owned _ _ (pushed _ rfl)

/-! ## A path and its entries are put back -/

/-- The group with the entries that a handler's own segment keeps (R366). -/
def Group.under (k : Group) (es : List Entry) : Group := if k.supervisor then { k with hseg := es } else k

theorem Group.under_of_user {k : Group} (h : k.supervisor = false) (es : List Entry) : k.under es = k := by rw [Group.under, h]; rfl
theorem Group.under_of_handler {k : Group} (h : k.supervisor = true) (es : List Entry) : k.under es = { k with hseg := es } := by
  rw [Group.under, h]
  rfl
theorem Group.under_eq (k : Group) (es : List Entry) : ∃ hs, k.under es = { k with hseg := hs } := by
  unfold Group.under
  split
  · exact ⟨es, rfl⟩
  · exact ⟨k.hseg, rfl⟩

/-- The frame of a group whose path has changed, with the path as it was. -/
theorem Same.of_path {w : Touches} {g k h : Group} {es : List Entry} (hp : PathOnly g k) (a : Same w (k.under es) h) :
    Same w g { h with path := g.path, em := g.em, cur := g.cur, hseg := g.hseg } := by
  obtain ⟨p, e, c, u, f, l, n, rfl⟩ := hp
  obtain ⟨hs, hk⟩ := Group.under_eq { g with path := p, em := e, pc := c, cur := u, fair := f, lc := l, nest := n } es
  rw [hk] at a
  exact { a with
    em := fun _ => rfl
    path := by
      obtain ⟨-, h2, -, h4⟩ := a.path
      exact ⟨rfl, h2, rfl, h4⟩
    mode := by
      obtain ⟨h1, h2, h3, -, h5⟩ := a.mode
      exact ⟨h1, h2, h3, rfl, h5⟩ }

/-- What a transfer leaves of the group with the path `x.1` and the entries `x.2`. -/
structure Moved (s u : State) (g h : Group) (i : Instr) (x : Group × List Entry) : Prop where
  group : u.group? s.cur = some h
  rest : Rest s u
  st : h.st = g.st
  path : h.path = x.1.path
  em : h.em = x.1.em
  pc : h.pc = x.1.pc
  cur : h.cur = x.1.cur
  entries : u.ownEntries s.cur h = x.2
  same : Same (({} : Touches).retire i g) g { h with path := g.path, em := g.em, cur := g.cur, hseg := g.hseg }
  hseg : g.supervisor = false → h.hseg = g.hseg
  groups : ∀ k, k ≠ s.cur → (u.group? k).map (fun x => { x with yielded := false }) = (s.group? k).map (fun x => { x with yielded := false })
  blocks : ∀ b, (u.block? b).map (fun x => { x with retiredCount := 0, stack := [] }) =
    (s.block? b).map (fun x => { x with retiredCount := 0, stack := [] })

section
variable {s : State} {g k : Group} {c : Nat} {es : List Entry}

/-- Putting a path back, at either level: the group and the entries that stand for it, and nothing else. -/
structure PutBack (s u : State) (c : Nat) (k : Group) (es : List Entry) : Prop where
  group : u.group? c = some (k.under es)
  rest : Rest s u
  entries : ∀ h : Group, h.supervisor = k.supervisor → h.blk = k.blk → (k.supervisor = true → h.hseg = es) → u.ownEntries c h = es
  groups : ∀ j, j ≠ c → u.group? j = s.group? j
  blocks : ∀ b, (u.block? b).map (fun x => { x with retiredCount := 0, stack := [] }) =
    (s.block? b).map (fun x => { x with retiredCount := 0, stack := [] })

theorem State.putPath_putBack (hown : k.supervisor = false → OwnedBy c es) (hnone : k.supervisor = false → s.block? k.blk = none → es = []) :
    PutBack s (s.putPath c (k, es)) c k es := by
  unfold State.putPath
  by_cases hsup : k.supervisor = true
  · rw [if_pos hsup]
    refine ⟨by simp [Group.under_of_handler hsup], Rest.setGroup .., fun h hh _ hseg => ?_, fun j hj => ?_, fun _ => rfl⟩
    · unfold State.ownEntries
      rw [if_pos (hh.trans hsup), hseg hsup]
    · rw [State.group?_setGroup, if_neg hj]
  · have hsup' : k.supervisor = false := by simpa using hsup
    rw [if_neg hsup]
    refine ⟨by simp [Group.under_of_user hsup'], (Rest.setGroup ..).trans (Rest.updBlock ..), fun h hh hb _ => ?_, fun j hj => ?_, fun b => ?_⟩
    · unfold State.ownEntries
      rw [if_neg (by rw [hh]; exact hsup), hb, State.block?_updBlock, if_pos rfl, State.setGroup_blockAt]
      cases hblk : s.block? k.blk with
      | none => exact (hnone hsup' hblk).symm
      | some b =>
        simp only [Option.map_some, List.filter_append]
        rw [List.filter_filter, List.filter_eq_nil_iff.2 (by simp), List.nil_append,
          List.filter_eq_self.2 (fun e he => by simpa using hown hsup' e he)]
    · rw [State.updBlock_groupAt, State.group?_setGroup, if_neg hj]
    · rw [State.block?_updBlock, State.setGroup_blockAt]
      split
      · cases s.block? b <;> rfl
      · rfl

end

theorem OthersAt.ownEntries {c : Nat} {s t : State} (o : OthersAt c s t) (d : Nat) (h : Group) : t.ownEntries d h = s.ownEntries d h := by
  have hb := congrArg (Option.map (fun x : Block => x.stack)) (o.blocks h.blk)
  simp only [Option.map_map] at hb
  unfold State.ownEntries
  split
  · rfl
  · cases hs : s.block? h.blk <;> cases ht : t.block? h.blk <;> rw [hs, ht] at hb
    · cases hb
    · cases hb
    · exact congrArg (List.filter _) (Option.some.inj hb)

/-- A body that jumps with the path and the entries `x` of a group whose results have landed. -/
theorem exec_moves {s s0 : State} {g : Group} {i : Instr} {body : State → Group → Lanes → Res} {x : Group × List Entry}
    (hl : ∀ sol, landsAt sol i = false) (hi : Issues s g i) (he : exec i s = run i body s) (h0 : ∃ n, s0 = { s with nextEntry := n })
    (hb : body s g (actOf g i) = .jump (s0.putPath s.cur x)) (hp : PathOnly g.landPath x.1) (hown : g.supervisor = false → OwnedBy s.cur x.2)
    (hnone : g.supervisor = false → s.block? g.blk = none → x.2 = []) : ∃ u h, exec i s = .next u ∧ Moved s u g h i x := by
  obtain ⟨k, es⟩ := x
  have hs0 : Rest s s0 ∧ s0.groups = s.groups ∧ s0.blocks = s.blocks := by
    obtain ⟨n, rfl⟩ := h0
    exact ⟨by constructor <;> simp, rfl, rfl⟩
  obtain ⟨r0, hgroups, hblocks⟩ := hs0
  have landed := g.landPath_landed
  obtain ⟨lpath, lem, lcur, lsup, lhseg, lblk, lst⟩ := g.landPath_keeps
  have hk : k.supervisor = g.supervisor ∧ k.blk = g.blk ∧ k.st = g.st ∧ k.hseg = g.hseg ∧ k.windows = g.landPath.windows := by
    obtain ⟨p, e, c, u, f, l, m, hk⟩ := hp
    dsimp only at hk
    subst hk
    exact ⟨lsup, lblk, lst, lhseg, rfl⟩
  obtain ⟨ksup, kblk, kst, khseg, kwin⟩ := hk
  have back : PutBack s0 (s0.putPath s.cur (k, es)) s.cur k es := State.putPath_putBack (fun h => hown (ksup ▸ h)) (fun h1 h2 => hnone (ksup ▸ h1) (by
    rw [State.block?, ← hblocks, ← kblk]
    exact h2))
  obtain ⟨q, hg2, r2, o2⟩ := retireInstr_spec _ s.cur g i none back.group
  obtain ⟨seg, hm⟩ := Group.under_eq k es
  have hmw : (k.under es).windows = k.windows := by rw [hm]
  have hsame : Same (({} : Touches).retire i g) (k.under es) { (k.under es).retireOne g i none with qcount := q } :=
    (Same.retire {} (Group.retireOne_same (k.under es) g i none) (fun v hv => landed.windows v (kwin ▸ hmw ▸ hv))).trans (Same.of_eq _ (by simp))
  have hpre : Same (({} : Touches).retire i g) g g.landPath :=
    landed.same.mono _ (vec := fun _ _ h => .inr (.inr h)) (pred := fun _ _ h => .inr h) (scal := fun _ h => .inr h)
  generalize hh : ({ (k.under es).retireOne g i none with qcount := q } : Group) = h at hg2 hsame
  have hloops : h.pc = k.pc := by
    rw [← hh]
    refine (Group.retireOne_loops (k.under es) g i none).1.trans ?_
    rw [hm]
  obtain ⟨hpath, -, hcur, hst⟩ := hsame.path
  obtain ⟨hsup, -, -, hseg, -⟩ := hsame.mode
  obtain ⟨hblk, -⟩ := hsame.ident
  have hem := hsame.em id
  have hframe := hpre.trans (Same.of_path hp hsame)
  rw [lpath, lem, lcur, lhseg] at hframe
  refine ⟨_, h, ?_, hg2, (r0.trans back.rest).trans r2, ?_, ?_, ?_, hloops, ?_, ?_, hframe, fun hu => ?_, fun j hj => ?_, fun b => ?_⟩
  · rw [he, issue_conclude hi hl, hb]
    rfl
  · exact hst.trans (by rw [hm]; exact kst)
  · exact hpath.trans (by rw [hm])
  · exact hem.trans (by rw [hm])
  · exact hcur.trans (by rw [hm])
  · have hent := back.entries h (hsup.trans (by rw [hm])) (hblk.trans (by rw [hm])) (fun hu => hseg.trans (by rw [Group.under_of_handler hu]))
    exact (o2.ownEntries s.cur h).trans hent
  · exact hseg.trans (by rw [Group.under_of_user (ksup.trans hu)]; exact khseg)
  · exact (o2.groups j hj).trans (congrArg (Option.map _) ((back.groups j hj).trans (by rw [State.group?, hgroups]; rfl)))
  · have h2 := congrArg (Option.map (fun x : Block => { x with stack := [] })) (o2.blocks b)
    simp only [Option.map_map] at h2
    refine h2.trans ((back.blocks b).trans ?_)
    rw [State.block?, hblocks]
    rfl

/-! ## Transfers divide the path -/

section
variable {s : State} {g : Group} {i : Instr} {body : State → Group → Lanes → Res} {t : Lanes} {tpc fpc rpc : W64} {kind : EntryKind}

/-- The entries of a group are its own, unless a handler holds them in its segment. -/
theorem State.ownEntries_owned {c : Nat} (hsup : g.supervisor = false) : OwnedBy c (s.ownEntries c g) := by
  unfold State.ownEntries
  rw [hsup, if_neg Bool.false_ne_true]
  split
  · exact fun e he => by simpa using (List.mem_filter.1 he).2
  · exact fun e he => by cases he

/-- A split that needs no entry leaves the entries (R171). -/
theorem split_of_not_pushes {id own : Nat} {es : List Entry} (h : splitPushes g t tpc fpc kind = false) :
    (split id own g es t tpc fpc rpc kind).2 = es := by
  unfold splitPushes at h
  simp only [Bool.not_eq_false', Bool.and_eq_true, Bool.or_eq_true, beq_iff_eq] at h
  obtain ⟨hk, hc⟩ := h
  unfold split
  dsimp only
  split
  · rfl
  · next h1 =>
    rw [if_pos]
    simp only [hk, decide_true, Bool.true_and, Bool.or_eq_true, decide_eq_true_eq] at h1 ⊢
    tauto

theorem State.ownEntries_landPath (s : State) (c : Nat) (g : Group) : s.ownEntries c g.landPath = s.ownEntries c g := by
  obtain ⟨-, -, -, hsup, hseg, hblk, -⟩ := g.landPath_keeps
  unfold State.ownEntries
  rw [hsup, hseg, hblk]

theorem State.stackFull_landPath (s : State) (g : Group) : s.stackFull g.landPath = s.stackFull g := by
  obtain ⟨-, -, -, hsup, hseg, hblk, -⟩ := g.landPath_keeps
  unfold State.stackFull
  rw [hsup, hseg, hblk]

theorem splitPushes_landPath (g : Group) (t : Lanes) (tpc fpc : W64) (kind : EntryKind) :
    splitPushes g.landPath t tpc fpc kind = splitPushes g t tpc fpc kind := by
  obtain ⟨hpath, -⟩ := g.landPath_keeps
  unfold splitPushes
  rw [hpath]

/-- A body that splits the path divides it. -/
theorem divides_of (hl : ∀ sol, landsAt sol i = false) (hi : Issues s g i) (he : exec i s = run i body s)
    (hb : body s g (actOf g i) = splitTo s g.landPath t tpc fpc rpc kind) : Divides s g i t tpc fpc rpc kind := by
  intro hfull
  have hcond : (splitPushes g.landPath t tpc fpc kind && s.stackFull g.landPath) = false := by
    rw [splitPushes_landPath, s.stackFull_landPath]
    cases hp : splitPushes g t tpc fpc kind with
    | false => rfl
    | true => rw [hfull hp]; rfl
  unfold splitTo at hb
  rw [hcond, if_neg Bool.false_ne_true] at hb
  dsimp only at hb
  rw [s.ownEntries_landPath] at hb
  obtain ⟨u, h, hexec, moved⟩ := exec_moves hl hi he ⟨_, rfl⟩ hb (split_keeps_path ..)
    (fun hsup => split_owned _ _ _ _ _ _ _ _ _ (State.ownEntries_owned hsup)) (fun hsup hblk => by
      have hp : splitPushes g t tpc fpc kind = false := by
        by_contra hc
        have := hfull (by simpa using hc)
        unfold State.stackFull at this
        rw [hsup, hblk] at this
        exact Bool.noConfusion this
      rw [split_of_not_pushes ((splitPushes_landPath g t tpc fpc kind).trans hp)]
      unfold State.ownEntries
      rw [hsup, hblk]
      rfl)
  exact ⟨u, h, hexec, moved.group, moved.rest, moved.st, fun x hx => hx ▸ ⟨moved.path, moved.em, moved.pc, moved.cur, moved.entries⟩, moved.same,
    moved.groups, moved.blocks⟩

end

end Sys2Proof.Machine
end

section
/-! SUPPORT. RET (R170, R174): the turns of settling, the lanes that wait in a call's entry, with the proof of O19. -/

namespace Sys2Proof.Machine

/-! ## The turns of settling -/

section
variable {g : Group} {es : List Entry} {e : Entry}

/-- The group on another path. -/
def Group.onPath (k : Group) (path em : Lanes) (pc : W64) (cur : Option Nat) : Group := { k with path := path, em := em, pc := pc, cur := cur }

/-- A path that runs is left to run. -/
theorem settleLoop_runs (n : Nat) (he : entryAt es g.cur = some e) (hp : g.path ≠ 0) (hpc : g.pc ≠ e.rpc) : settleLoop n g es = (g, es) := by
  cases n with
  | zero => rfl
  | succ n =>
    unfold settleLoop
    rw [he]
    exact if_neg (by simpa using ⟨hp, hpc⟩)

theorem settleLoop_outside (n : Nat) (he : entryAt es g.cur = none) : settleLoop n g es = (g, es) := by
  cases n with
  | zero => rfl
  | succ n =>
    unfold settleLoop
    rw [he]

/-- A path that has ended, with nothing deferred: its entry is free and the lanes that wait there go on. -/
theorem settleLoop_frees (n : Nat) (he : entryAt es g.cur = some e) (hend : g.path = 0 ∨ g.pc = e.rpc) (hd : e.defl = 0) :
    settleLoop (n + 1) g es =
      let es' := es.filter (fun x => x.id != e.id)
      settleLoop n (g.onPath (e.wait ||| g.path) (e.wen ||| g.em) e.rpc
        (if e.wait ||| g.path = 0 then e.parent else curOf es' (e.wait ||| g.path))) es' := by
  rw [settleLoop, he]
  dsimp only
  rw [if_pos (by simpa using hend), if_neg (by simpa using hd)]
  rfl

/-- A path that has ended, with lanes deferred: they run. -/
theorem settleLoop_starts (n : Nat) (he : entryAt es g.cur = some e) (hend : g.path = 0 ∨ g.pc = e.rpc) (hd : e.defl ≠ 0) :
    settleLoop (n + 1) g es =
      let es' := putEntry es { e with wait := e.wait ||| g.path, wen := e.wen ||| g.em, defl := 0, den := 0, dpc := 0 }
      settleLoop n (g.onPath e.defl e.den e.dpc (curOf es' e.defl)) es' := by
  rw [settleLoop, he]
  dsimp only
  rw [if_pos (by simpa using hend), if_pos (by simpa using hd)]
  rfl

end

/-! ## RET -/

/-- The group without the lanes that return, gone on. -/
def Group.returning (g : Group) (a : Lanes) : Group :=
  { g.landPath with path := g.landPath.path &&& ~~~a, em := g.landPath.em &&& ~~~a : Group }.goOn

/-- The entries once the lanes of `a` wait in the entry `c` (R174). -/
def returned (g : Group) (es : List Entry) (a : Lanes) (c : Entry) : List Entry :=
  let inner := ((chainOf es g.cur).takeWhile (fun e => e.id != c.id)).map (·.id)
  es.map (fun e =>
    if inner.contains e.id then e.without a
    else if e.id = c.id then { e with wait := e.wait ||| a, wen := e.wen ||| (g.em &&& a) }
    else e)

/-- Lanes return to `c`. -/
def ReturnsTo (g : Group) (es : List Entry) (a : Lanes) (c : Entry) : Prop :=
  (chainOf es g.cur).find? (fun e => e.kind == .call && a &&& ~~~e.full == 0) = some c

theorem bodyRet_eq {s : State} {g : Group} {a : Lanes} {c : Entry} (f : FC) (ha : a ≠ 0) (hc : ReturnsTo g (s.ownEntries s.cur g) a c) :
    bodyRet f s g a = .jump (s.putPath s.cur ((settle (g.returning a) (returned g (s.ownEntries s.cur g) a c)).1.restart g.landPath,
      (settle (g.returning a) (returned g (s.ownEntries s.cur g) a c)).2)) := by
  obtain ⟨-, hem, -⟩ := g.landPath_keeps
  unfold ReturnsTo at hc
  unfold bodyRet
  rw [if_neg ha]
  dsimp only
  rw [hc]
  dsimp only
  unfold returned
  rw [← hem]
  rfl

theorem Group.returning_path (g : Group) (a : Lanes) : PathOnly g.landPath (g.returning a) :=
  PathOnly.trans ⟨_, _, _, _, _, _, _, rfl⟩ (PathOnly.goOn _)

theorem Group.returning_keeps (g : Group) (a : Lanes) : (g.returning a).path = g.path &&& ~~~a ∧ (g.returning a).em = g.em &&& ~~~a ∧
    (g.returning a).cur = g.cur ∧ (g.path &&& ~~~a ≠ 0 → (g.returning a).pc = g.advance.pc) := by
  obtain ⟨hpath, hem, hcur, -⟩ := g.landPath_keeps
  have landed := g.landPath_landed
  unfold Group.returning
  rw [hpath, hem]
  refine ⟨?_, ?_, ?_, fun hp => ?_⟩
  · obtain ⟨pc, lc, nest, h⟩ := Group.goOn_eq { g.landPath with path := g.path &&& ~~~a, em := g.em &&& ~~~a }
    rw [h]
  · obtain ⟨pc, lc, nest, h⟩ := Group.goOn_eq { g.landPath with path := g.path &&& ~~~a, em := g.em &&& ~~~a }
    rw [h]
  · obtain ⟨pc, lc, nest, h⟩ := Group.goOn_eq { g.landPath with path := g.path &&& ~~~a, em := g.em &&& ~~~a }
    rw [h]
    exact hcur
  · rw [Group.goOn_of_path hp]
    obtain ⟨h, -⟩ := Group.advance_congr (g := g) (g' := { g.landPath with path := g.path &&& ~~~a, em := g.em &&& ~~~a }) landed.pc landed.lc
      landed.nest
    exact h

/-- RET goes on with what settling leaves. -/
theorem returns_of {s : State} {g : Group} {f : FC} {a path em : Lanes} {pc : W64} {c : Entry} {es : List Entry} {x : Group × List Entry}
    (hi : Issues s g (.ret f)) (hact : a = actOf g (.ret f)) (ha : a ≠ 0) (hsup : g.supervisor = false)
    (hc : ReturnsTo g (s.ownEntries s.cur g) a c) (hx : settle (g.returning a) (returned g (s.ownEntries s.cur g) a c) = x)
    (hpath : x.1.path = path) (hem : x.1.em = em) (hpc : x.1.pc = pc) (hes : x.2 = es) : Returns s g f path em pc es := by
  subst hpath hem hpc hes
  have hb := bodyRet_eq f ha hc
  rw [hx] at hb
  have hown : OwnedBy s.cur (returned g (s.ownEntries s.cur g) a c) := fun e he => by
    obtain ⟨y, hy, rfl⟩ := List.mem_map.1 he
    have := State.ownEntries_owned (s := s) hsup y hy
    split
    · exact this
    · split
      · exact this
      · exact this
  obtain ⟨u, h, hexec, moved⟩ := exec_moves (s0 := s) (fun _ => rfl) hi (by rfl) (body := bodyRet f) ⟨s.nextEntry, rfl⟩ (hact ▸ hb)
    ((g.returning_path a).trans ((hx ▸ settle_path _ _ : PathOnly (g.returning a) x.1).restart g.landPath))
    (fun _ => hx ▸ settle_owned _ _ hown) (fun _ hblk => by
      exfalso
      unfold ReturnsTo State.ownEntries at hc
      rw [hsup, hblk, if_neg Bool.false_ne_true] at hc
      cases hc)
  have hsame := moved.same
  rw [← moved.hseg hsup] at hsame
  exact ⟨u, h, hexec, moved.group, moved.rest, moved.path, moved.em, moved.pc, moved.entries, hsame, moved.groups, moved.blocks⟩

/-! ## Masks -/

theorem or_zero_lanes (x : Lanes) : x ||| 0 = x := BitVec.or_zero

theorem or_and_or_andNot (x m p : Lanes) : (x ||| (m &&& p)) ||| (m &&& ~~~p) = x ||| m := by
  apply BitVec.eq_of_getLsbD_eq
  intro l hl
  simp only [BitVec.getLsbD_or, BitVec.getLsbD_and, BitVec.getLsbD_not, hl]
  cases x.getLsbD l <;> cases m.getLsbD l <;> cases p.getLsbD l <;> rfl

theorem or_andNot_or_and (x m p : Lanes) : (x ||| (m &&& ~~~p)) ||| (m &&& p) = x ||| m := by
  rw [BitVec.or_assoc, BitVec.or_comm (m &&& ~~~p), ← BitVec.or_assoc, or_and_or_andNot]

/-- Lanes of a mask within another, without the same lanes of both. -/
theorem andNot_andNot_of_sub {x y : Lanes} (a : Lanes) (h : x &&& ~~~y = 0) : (x &&& ~~~a) &&& ~~~(y &&& ~~~a) = 0 := by
  apply BitVec.eq_of_getLsbD_eq
  intro l hl
  have e := congrArg (·.getLsbD l) h
  simp only [BitVec.getLsbD_and, BitVec.getLsbD_not, hl] at e ⊢
  cases hx : x.getLsbD l <;> cases hy : y.getLsbD l <;> simp_all

theorem andNot_of_sub {x y z : Lanes} (a : Lanes) (h : x &&& ~~~y = 0) (h' : y &&& ~~~z = 0) : (x &&& ~~~a) &&& ~~~z = 0 := by
  apply BitVec.eq_of_getLsbD_eq
  intro l hl
  have e := congrArg (·.getLsbD l) h
  have e' := congrArg (·.getLsbD l) h'
  simp only [BitVec.getLsbD_and, BitVec.getLsbD_not, hl] at e e' ⊢
  cases hx : x.getLsbD l <;> cases hy : y.getLsbD l <;> simp_all

theorem or_ne_zero_right {x y : Lanes} (h : y ≠ 0) : x ||| y ≠ 0 := fun e => h (BitVec.or_eq_zero_iff.1 e).2

/-! ## RET, case by case -/

theorem entryAt_head {es : List Entry} {e : Entry} {c : Option Nat} (h : c = some e.id) : entryAt (e :: es) c = some e := by
  simp [entryAt, h]

theorem entryAt_second {x y : Entry} {c : Option Nat} {n : Nat} (h : c = some n) (hx : x.id ≠ n) (hy : y.id = n) :
    entryAt [x, y] c = some y := by
  simp [entryAt, h, hx, hy]

/-- An entry in which the lanes of `a` wait too. -/
def Entry.joined (e : Entry) (g : Group) (a : Lanes) : Entry := { e with wait := e.wait ||| a, wen := e.wen ||| (g.em &&& a) }

/-- An entry without the lanes of `a`, whose deferred path has been started. -/
def Entry.started (e : Entry) (g : Group) (a : Lanes) : Entry :=
  { e.without a with wait := e.wait &&& ~~~a, wen := (e.wen &&& ~~~a) ||| (g.em &&& ~~~a), defl := 0, den := 0, dpc := 0 }

section
variable {s : State} {g : Group} {f : FC} {a : Lanes} {e c b : Entry}

theorem chainOf_one (hcur : g.cur = some e.id) : chainOf [e] g.cur = [e] := by
  unfold chainOf
  rw [entryAt_head hcur]
  simp

theorem returnsTo_one (hcur : g.cur = some e.id) (hk : e.kind = .call) (ha : a &&& ~~~e.full = 0) : ReturnsTo g [e] a e := by
  unfold ReturnsTo
  rw [chainOf_one hcur]
  simp [hk, ha]

theorem returned_one (hcur : g.cur = some e.id) : returned g [e] a e = [e.joined g a] := by
  unfold returned
  rw [chainOf_one hcur]
  simp [Entry.joined]

/-- Of two entries the inner one is current. -/
theorem entryAt_inner (hcur : g.cur = some b.id) (hid : c.id < b.id) : entryAt [c, b] g.cur = some b :=
  entryAt_second hcur (Nat.ne_of_lt hid) rfl

theorem returnsTo_inner (hcur : g.cur = some b.id) (hid : c.id < b.id) (hk : b.kind = .call) (ha : a &&& ~~~b.full = 0) :
    ReturnsTo g [c, b] a b := by
  unfold ReturnsTo chainOf
  rw [entryAt_inner hcur hid]
  simp [hk, ha]

theorem returned_inner (hcur : g.cur = some b.id) (hid : c.id < b.id) : returned g [c, b] a b = [c, b.joined g a] := by
  unfold returned chainOf
  rw [entryAt_inner hcur hid]
  simp [Entry.joined, Nat.ne_of_lt hid]

theorem chainOf_outer (hcur : g.cur = some b.id) (hid : c.id < b.id) (hfull : b.full &&& ~~~c.full = 0) : chainOf [c, b] g.cur = [b, c] := by
  unfold chainOf
  rw [entryAt_inner hcur hid]
  simp [hid, hfull]

/-- From a branch inside the call the lanes return to the call. -/
theorem returnsTo_outer (hcur : g.cur = some b.id) (hid : c.id < b.id) (hc : c.kind = .call) (hb : b.kind = .br) (ha : a &&& ~~~c.full = 0)
    (hfull : b.full &&& ~~~c.full = 0) : ReturnsTo g [c, b] a c := by
  unfold ReturnsTo
  rw [chainOf_outer hcur hid hfull]
  simp [hc, hb, ha]

theorem returned_outer (hcur : g.cur = some b.id) (hid : c.id < b.id) (hfull : b.full &&& ~~~c.full = 0) :
    returned g [c, b] a c = [c.joined g a, b.without a] := by
  unfold returned
  rw [chainOf_outer hcur hid hfull]
  simp [Entry.joined, Nat.ne_of_lt hid, Nat.ne_of_gt hid]

section
variable (hi : Issues s g (.ret f)) (hact : a = actOf g (.ret f)) (ha : a ≠ 0) (hsup : g.supervisor = false)
include hi hact ha hsup

/-- The whole path returns to its only entry. -/
theorem ret_whole (hes : s.ownEntries s.cur g = [e]) (hcur : g.cur = some e.id) (hk : e.kind = .call) (hfull : a &&& ~~~e.full = 0)
    (hall : a = g.path) (hd : e.defl = 0) :
    Returns s g f (e.wait ||| g.path) (e.wen ||| (g.em &&& ~~~g.path) ||| (g.em &&& g.path)) e.rpc [] := by
  obtain ⟨kpath, kem, kcur, -⟩ := g.returning_keeps a
  have h0 : (g.returning a).path = 0 := by rw [kpath, hall, andNot_self]
  refine returns_of hi hact ha hsup (hes ▸ returnsTo_one hcur hk hfull) rfl ?_ ?_ ?_ ?_
  all_goals
    rw [hes, returned_one hcur, settle, settleLoop_frees _ (e := e.joined g a) (entryAt_head (kcur.trans hcur)) (.inl h0) hd,
      settleLoop_outside _ (by simp [entryAt])]
  · change (e.wait ||| a) ||| (g.returning a).path = _
    rw [h0, or_zero_lanes, hall]
  · change (e.wen ||| (g.em &&& a)) ||| (g.returning a).em = _
    rw [kem, hall, or_and_or_andNot, or_andNot_or_and]
  · rfl
  · simp

/-- Some lanes of the path wait in its only entry while the others go on. -/
theorem ret_some (hes : s.ownEntries s.cur g = [e]) (hcur : g.cur = some e.id) (hk : e.kind = .call) (hfull : a &&& ~~~e.full = 0)
    (hrest : g.path &&& ~~~a ≠ 0) (hpc : g.advance.pc ≠ e.rpc) :
    Returns s g f (g.path &&& ~~~a) (g.em &&& ~~~a) g.advance.pc [e.joined g a] := by
  obtain ⟨kpath, kem, kcur, kpc⟩ := g.returning_keeps a
  have hx : settle (g.returning a) (returned g (s.ownEntries s.cur g) a e) = (g.returning a, [e.joined g a]) := by
    rw [hes, returned_one hcur]
    exact settle_of_running (entryAt_head (kcur.trans hcur)) (by rw [kpath]; exact hrest) (by rw [kpc hrest]; exact hpc)
  exact returns_of hi hact ha hsup (hes ▸ returnsTo_one hcur hk hfull) hx kpath kem (kpc hrest) rfl

/-- The whole path returns to the inner of two calls: it goes on after it, or after both where that is the same place. -/
theorem ret_nested (hes : s.ownEntries s.cur g = [c, b]) (hcur : g.cur = some b.id) (hid : c.id < b.id) (hk : b.kind = .call) (hall : a = g.path)
    (hfull : a &&& ~~~b.full = 0) (hd : b.defl = 0) (houter : (b.wait ||| g.path) &&& ~~~c.full = 0) :
    (b.rpc ≠ c.rpc → Returns s g f (b.wait ||| g.path) (b.wen ||| g.em) b.rpc [c]) ∧
      (b.rpc = c.rpc → c.defl = 0 → Returns s g f (c.wait ||| (b.wait ||| g.path)) (c.wen ||| (b.wen ||| g.em)) c.rpc []) := by
  obtain ⟨kpath, kem, kcur, -⟩ := g.returning_keeps a
  have h0 : (g.returning a).path = 0 := by rw [kpath, hall, andNot_self]
  have hto : ReturnsTo g (s.ownEntries s.cur g) a b := hes ▸ returnsTo_inner hcur hid hk hfull
  have hwait : (b.joined g a).wait ||| (g.returning a).path = b.wait ||| g.path := by
    change (b.wait ||| a) ||| (g.returning a).path = _
    rw [h0, or_zero_lanes, hall]
  have hwen : (b.joined g a).wen ||| (g.returning a).em = b.wen ||| g.em := by
    change (b.wen ||| (g.em &&& a)) ||| (g.returning a).em = _
    rw [kem, or_and_or_andNot]
  have hpath : b.wait ||| g.path ≠ 0 := or_ne_zero_right (hall ▸ ha)
  have hfilter : [c, b.joined g a].filter (fun x => x.id != (b.joined g a).id) = [c] := by
    simp [Entry.joined, Nat.ne_of_lt hid]
  have hcurOf : curOf [c] (b.wait ||| g.path) = some c.id := by
    simp only [curOf, houter, if_true]
  have hin : entryAt [c, b.joined g a] (g.returning a).cur = some (b.joined g a) :=
    entryAt_second (kcur.trans hcur) (Nat.ne_of_lt hid) rfl
  have hfirst (n : Nat) : settleLoop (n + 1) (g.returning a) (returned g (s.ownEntries s.cur g) a b) = settleLoop n
      ((g.returning a).onPath (b.wait ||| g.path) (b.wen ||| g.em) b.rpc (some c.id)) [c] := by
    rw [hes, returned_inner hcur hid, settleLoop_frees n hin (.inl h0) hd, hwait, hwen]
    dsimp only
    rw [if_neg hpath, hfilter, hcurOf]
    rfl
  refine ⟨fun hne => ?_, fun heq hcd => ?_⟩
  · have hx : settle (g.returning a) (returned g (s.ownEntries s.cur g) a b) =
        (((g.returning a).onPath (b.wait ||| g.path) (b.wen ||| g.em) b.rpc (some c.id)).restart (g.returning a), [c]) := by
      rw [settle, hfirst, settleLoop_runs _ (e := c) (entryAt_head rfl) hpath hne]
    exact returns_of hi hact ha hsup hto hx rfl rfl rfl rfl
  · have hlen : 2 * (returned g (s.ownEntries s.cur g) a b).length = 3 + 1 := by
      rw [hes, returned_inner hcur hid]
      rfl
    have hnone : [c].filter (fun x => x.id != c.id) = [] := by simp
    refine returns_of hi hact ha hsup hto (x := ((((g.returning a).onPath (b.wait ||| g.path) (b.wen ||| g.em) b.rpc (some c.id)).onPath
      (c.wait ||| (b.wait ||| g.path)) (c.wen ||| (b.wen ||| g.em)) c.rpc
      (if c.wait ||| (b.wait ||| g.path) = 0 then c.parent else curOf [] (c.wait ||| (b.wait ||| g.path)))).restart (g.returning a), []))
      ?_ rfl rfl rfl rfl
    rw [settle, hfirst, hlen, settleLoop_frees 3 (e := c) (entryAt_head rfl) (.inr heq) hcd]
    dsimp only
    rw [hnone, settleLoop_outside _ (by simp [entryAt])]
    rfl

/-- From a branch inside the call some lanes of the path return while the others go on. -/
theorem ret_branch_some (hes : s.ownEntries s.cur g = [c, b]) (hcur : g.cur = some b.id) (hid : c.id < b.id) (hc : c.kind = .call)
    (hb : b.kind = .br) (hfull : a &&& ~~~c.full = 0) (hin : b.full &&& ~~~c.full = 0) (hrest : g.path &&& ~~~a ≠ 0)
    (hpc : g.advance.pc ≠ b.rpc) :
    Returns s g f (g.path &&& ~~~a) (g.em &&& ~~~a) g.advance.pc [c.joined g a, b.without a] := by
  obtain ⟨kpath, kem, kcur, kpc⟩ := g.returning_keeps a
  have hx : settle (g.returning a) (returned g (s.ownEntries s.cur g) a c) = (g.returning a, [c.joined g a, b.without a]) := by
    rw [hes, returned_outer hcur hid hin]
    exact settle_of_running (e := b.without a) (entryAt_second (kcur.trans hcur) (Nat.ne_of_lt hid) rfl) (by rw [kpath]; exact hrest)
      (by rw [kpc hrest]; exact hpc)
  exact returns_of hi hact ha hsup (hes ▸ returnsTo_outer hcur hid hc hb hfull hin) hx kpath kem (kpc hrest) rfl

/-- The whole path returns from a branch inside the call: the deferred path of the branch runs. -/
theorem ret_branch_whole (hes : s.ownEntries s.cur g = [c, b]) (hcur : g.cur = some b.id) (hid : c.id < b.id) (hc : c.kind = .call)
    (hb : b.kind = .br) (hfull : a &&& ~~~c.full = 0) (hin : b.full &&& ~~~c.full = 0) (hall : a = g.path) (hd : b.defl &&& ~~~a ≠ 0)
    (hdf : b.defl &&& ~~~b.full = 0) (hpc : b.dpc ≠ b.rpc) :
    Returns s g f (b.defl &&& ~~~a) (b.den &&& ~~~a) b.dpc [c.joined g a, b.started g a] := by
  obtain ⟨kpath, kem, kcur, -⟩ := g.returning_keeps a
  have h0 : (g.returning a).path = 0 := by rw [kpath, hall, andNot_self]
  have hat : entryAt [c.joined g a, b.without a] (g.returning a).cur = some (b.without a) :=
    entryAt_second (kcur.trans hcur) (Nat.ne_of_lt hid) rfl
  have hcurOf : curOf [c.joined g a, b.started g a] (b.defl &&& ~~~a) = some b.id := by
    have h1 : (b.defl &&& ~~~a) &&& ~~~(b.started g a).full = 0 := andNot_andNot_of_sub a hdf
    have h2 : (b.defl &&& ~~~a) &&& ~~~(c.joined g a).full = 0 := andNot_of_sub a hdf hin
    simp only [curOf, h1, h2, if_true]
    exact congrArg some (max_eq_left (Nat.le_of_lt hid))
  have hput : putEntry [c.joined g a, b.without a] { b.without a with
      wait := (b.without a).wait ||| (g.returning a).path, wen := (b.without a).wen ||| (g.returning a).em, defl := 0, den := 0, dpc := 0 } =
        [c.joined g a, b.started g a] := by
    rw [h0, kem]
    simp [putEntry, Entry.joined, Entry.without, Entry.started, Nat.ne_of_lt hid]
  have hx : settle (g.returning a) (returned g (s.ownEntries s.cur g) a c) =
      (((g.returning a).onPath (b.defl &&& ~~~a) (b.den &&& ~~~a) b.dpc (some b.id)).restart (g.returning a), [c.joined g a, b.started g a]) := by
    rw [hes, returned_outer hcur hid hin, settle, settleLoop_starts _ hat (.inl h0) hd]
    dsimp only
    rw [hput]
    rw [show (b.without a).defl = b.defl &&& ~~~a from rfl, hcurOf, settleLoop_runs _ (e := b.started g a) ?_ hd hpc]
    · rfl
    · exact entryAt_second rfl (Nat.ne_of_lt hid) rfl
  exact returns_of hi hact ha hsup (hes ▸ returnsTo_outer hcur hid hc hb hfull hin) hx rfl rfl rfl rfl

end

end

/-! ## O19 -/

section
variable {s : State} {g : Group} {f : FC}

theorem targetsOf_zero (g : Group) (ra : Nat) : targetsOf g 0 ra = .ok [] := by
  unfold targetsOf
  rw [show lanesOf 0 = [] by decide]
  rfl

/-- BRX and CALLX divide the path by the target of their lowest active lane. -/
theorem bodyIndirect_eq {act : Lanes} {rpc : Group → W64} {kind : EntryKind} {ts r : List (Nat × W64)} {l0 : Nat} {t0 : W64}
    (ht : targetsOf g act f.ra.toNat = .ok ts) (hts : ts = (l0, t0) :: r) : bodyIndirect f rpc kind s g act =
      splitTo s g.landPath (maskOf (fun l => ts.any (fun x => x.1 == l && x.2 == t0))) t0 g.pc (rpc g) kind := by
  subst hts
  unfold bodyIndirect
  rw [ht]

/-- A transfer of no lane, and a RET of none, only advance. -/
theorem transfer_of_none {i : Instr} (h : i = .bra f ∨ i = .brx f ∨ i = .call f ∨ i = .callx f ∨ i = .ret f) (hi : Issues s g i)
    (h0 : actOf g i = 0) : Completes s g i {} (fun _ => True) := by
  have reached (hl : ∀ sol, landsAt sol i = false) {body : State → Group → Lanes → Res} (hb : body s g 0 = .done s) :
      body (s.reached g i) (reachOf s g i) (actOf g i) = .done (s.reached g i) := by
    rw [State.reached_eq hl, reachOf_eq hl, h0, hb]
  have indirect (rpc : Group → W64) (kind : EntryKind) : bodyIndirect f rpc kind s g 0 = .done s := by
    unfold bodyIndirect
    rw [targetsOf_zero]
  rcases h with rfl | rfl | rfl | rfl | rfl
  · exact completes_unchanged (by simp) hi (by rfl) (body := bodyBra f) (reached (fun _ => rfl) (if_pos rfl))
  · exact completes_unchanged (by simp) hi (by rfl) (body := bodyIndirect f (fun g => target g f.off) .br) (reached (fun _ => rfl) (indirect _ _))
  · exact completes_unchanged (by simp) hi (by rfl) (body := bodyCall f) (reached (fun _ => rfl) (if_pos rfl))
  · exact completes_unchanged (by simp) hi (by rfl) (body := bodyIndirect f (fun g => g.pc + 8) .call) (reached (fun _ => rfl) (indirect _ _))
  · exact completes_unchanged (by simp) hi (by rfl) (body := bodyRet f) (reached (fun _ => rfl) (if_pos rfl))

end

/-- Settles O19: the transfers by R171's split (`divides_of`), RET by R170's settling (`ret_whole` to `ret_branch_whole`). -/
theorem transfersDivideAndRejoin : Obligations.TransfersDivideAndRejoin := by
  unfold Obligations.TransfersDivideAndRejoin
  refine ⟨fun s g f => ⟨?bra, ?call, ?brx, ?callx, fun i hform hi h0 => transfer_of_none hform hi h0⟩,
    fun s g f a hi hact ha hsup => ⟨?one, ?nested, ?branch⟩⟩
  case bra => exact fun hi ha => divides_of (fun _ => rfl) hi (by rfl) (body := bodyBra f) (if_neg ha)
  case call => exact fun hi ha => divides_of (fun _ => rfl) hi (by rfl) (body := bodyCall f) (if_neg ha)
  case brx =>
    exact fun ts l0 t0 r hi ht hts => divides_of (fun _ => rfl) hi (by rfl) (body := bodyIndirect f (fun g => target g f.off) .br)
      (bodyIndirect_eq ht hts)
  case callx =>
    exact fun ts l0 t0 r hi ht hts => divides_of (fun _ => rfl) hi (by rfl) (body := bodyIndirect f (fun g => g.pc + 8) .call)
      (bodyIndirect_eq ht hts)
  case one =>
    intro e hes hcur hk hfull
    exact ⟨fun hall hd => ret_whole hi hact ha hsup hes hcur hk hfull hall hd,
      fun hrest hpc => ret_some hi hact ha hsup hes hcur hk hfull hrest hpc⟩
  case nested =>
    intro c0 c1 hes hcur hid _ hk hall hfull hd houter
    obtain ⟨h1, h2⟩ := ret_nested hi hact ha hsup hes hcur hid hk hall hfull hd houter
    exact ⟨c1.wen ||| g.em, fun _ => rfl, h1, h2⟩
  case branch =>
    intro c b hes hcur hid hc hb hfull hin
    exact ⟨fun hrest hpc => ret_branch_some hi hact ha hsup hes hcur hid hc hb hfull hin hrest hpc,
      fun hall hd hdf hpc => ⟨b.started g a, rfl, rfl, rfl, rfl, rfl,
        ret_branch_whole hi hact ha hsup hes hcur hid hc hb hfull hin hall hd hdf hpc⟩⟩

end Sys2Proof.Machine
end
